-- ==== Sys2Proof/Word.lean ====
section
/-!
DEFINITION. The word types of the machine: 64-bit values, bytes and the widths the spec names (spec/00_scope.md R3).
-/
namespace Sys2Proof

/-- A double word: registers, tokens, addresses (spec/00_scope.md R3). -/
abbrev Word := BitVec 64

/-- A byte (spec/00_scope.md R3). -/
abbrev Byte := BitVec 8

/-- A 48-bit E-space or B-space word (spec/02_words.md R45). -/
abbrev Word48 := BitVec 48

/-- A 32-bit microword (spec/02_words.md R45). -/
abbrev Word32 := BitVec 32

/-- A 256-bit command record (spec/02_words.md R61). -/
abbrev Record := BitVec 256

end Sys2Proof
end

