-- ==== Sys2Proof/Syntax.lean ====
section
/-!
DEFINITION. The syntax of the machine: the operands and modifiers of the four encoding spaces (spec/02_words.md), the
slot words of E-space (`EInstr`, which stand inside a firing), and `Instr`: one constructor per row of
spec/opcode_table.json, the banker's instructions, the microwords, the engines' commands, and the events of the device.
-/
namespace Sys2Proof

/-! ## Modifiers (spec/02_words.md R54) -/

/-- The size field. -/
inductive Size where
  | b8 | b16 | b32 | b64
deriving DecidableEq, Repr, Inhabited

/-- The order field of rows E 0x7, 0x8 and B 0x6, 0x7. -/
inductive Order where
  | plain | acquire | release | acqRel
deriving DecidableEq, Repr, Inhabited

/-- The scope field. -/
inductive Scope where
  | region | tile | wall | package | arcade
deriving DecidableEq, Repr, Inhabited

/-- The rounding field. -/
inductive Rounding where
  | rne | rz | ru | rd
deriving DecidableEq, Repr, Inhabited

/-- The float-format field FM. -/
inductive FloatFmt where
  | f32 | f16 | b16 | edge
deriving DecidableEq, Repr, Inhabited

/-- A source format code of MX. -/
inductive SrcFmt where
  | f32 | f16 | b16 | edge | s8 | s16 | s32 | s64 | z8 | z16 | z32 | z64
deriving DecidableEq, Repr, Inhabited

/-- The integer destination of `cvti`. -/
inductive IntFmt where
  | s32 | s64 | z32 | z64
deriving DecidableEq, Repr, Inhabited

/-- The level of a prefetch (spec/09_memory.md R219). -/
inductive PfLevel where
  | cb | sl | xl
deriving DecidableEq, Repr, Inhabited

/-- The kind of an invalidation (spec/09_memory.md R225). -/
inductive InvKind where
  | dat | xl | all
deriving DecidableEq, Repr, Inhabited

/-- A guard: predicate (E) or flag (B) index and negation (spec/02_words.md R53, R57). -/
structure Guard where
  neg : Bool
  idx : Fin 8
deriving DecidableEq, Repr, Inhabited

/-- The modifiers of rows 0x0 to 0x2 (spec/04_integer.md R108). -/
structure AluMods where
  sat : Bool
  uns : Bool
  size : Size
deriving DecidableEq, Repr, Inhabited

/-- The modifiers of a memory access (spec/02_words.md R54, rows 0x7 and 0x8). -/
structure MemMods where
  uns : Bool
  size : Size
  order : Order
  scope : Scope
deriving DecidableEq, Repr, Inhabited

/-! ## B-space operands (spec/02_words.md R57, R58) -/

/-- A banker source; `none` is an unused source. -/
inductive BSrc where
  | none
  | g (i : Fin 32)
  | lc (i : Fin 3)
  | tlog | wlog | cyc
  | imm6 (v : BitVec 6)
  | imm12 (v : BitVec 12)
deriving DecidableEq, Repr, Inhabited

/-- A banker destination. -/
inductive BDst where
  | none
  | g (i : Fin 32)
  | f (i : Fin 8)
  | lc (i : Fin 3)
deriving DecidableEq, Repr, Inhabited

/-- The operands of a banker instruction in the layout of R46. -/
structure BForm where
  guard : Guard
  dst : BDst
  a : BSrc
  b : BSrc
  c : BSrc
deriving DecidableEq, Repr, Inhabited

/-- The operands of a banker instruction in the wide-immediate form (R55). -/
structure BWide where
  guard : Guard
  dst : BDst
  imm : BitVec 24
deriving DecidableEq, Repr, Inhabited

/-! ## E-space operands (spec/02_words.md R47 to R53) -/

/-- The four neighbours (spec/01_machine.md R19). -/
inductive Dir where
  | n | s | e | w
deriving DecidableEq, Repr, Inhabited

/-- A slot source; `none` is an unused source. -/
inductive ESrc where
  | none
  | k (i : Fin 64)
  | s (i : Fin 16)
  | it | cpn | cexy | tlog
  | imm6 (v : BitVec 6)
  | imm12 (v : BitVec 12)
  | nb (d : Dir)
  | ch (i : Fin 8)
deriving DecidableEq, Repr, Inhabited

/-- A slot destination; `result` is the result register only. -/
inductive EDst where
  | result
  | k (i : Fin 64)
  | s (i : Fin 16)
  | p (i : Fin 8)
  | ch (i : Fin 8)
deriving DecidableEq, Repr, Inhabited

/-- The operands of a slot in the layout of R46. -/
structure EForm where
  guard : Guard
  dst : EDst
  a : ESrc
  b : ESrc
  c : ESrc
deriving DecidableEq, Repr, Inhabited

/-! ## E-space slot words -/

/-- The integer operations of rows 0x0 to 0x2, shared by CEs and bankers (spec/04_integer.md). -/
inductive AluOp where
  | mov | add | sub | neg | abs | mul | mulh | mad | min | max | absd | addsh | clamp
  | and | or | xor | andn | not | shl | shr | sar | rol
  | cmpeq | cmpne | cmplt | cmple | sel | clz | popc | ctz
  | agen | agen2 | wrap | sext | zext | bswap | div | rem
deriving DecidableEq, Repr, Inhabited

/-- The float operations of row 0x3 (spec/05_float.md R131 to R133). -/
inductive FloatOp where
  | fadd | fsub | fmul | fma | fms | fnma | fmin | fmax | fabs | fneg | fsgn
  | fcmpeq | fcmplt | fcmple | fclass | frint
deriving DecidableEq, Repr, Inhabited

/-- The functions of the exponent engine (spec/05_float.md R142). -/
inductive ExpFn where
  | exp2 | log2 | rcp | rsqrt
deriving DecidableEq, Repr, Inhabited

/-- The bit-field and table operations of row 0x5 (spec/06_bits.md). -/
inductive BitOp where
  | bext | bins | brev | bperm | bdec | bsplit | bjoin | lut | lut2 | bsel
deriving DecidableEq, Repr, Inhabited

/-- The token-stream operations of row 0x6 (spec/07_control.md R173). -/
inductive StreamOp where
  | pop | push | peek | prime | steer | merge | void | eos | iseos | drop
deriving DecidableEq, Repr, Inhabited

/-- The read-modify-write operations (spec/10_ordering.md R236). -/
inductive AtomicOp where
  | aadd | aand | aor | axor | amin | amax | axchg | acas | afadd
deriving DecidableEq, Repr, Inhabited

/-- The block-cell operations of row 0x9 (spec/11_systolic.md R263). -/
inductive CellOp where
  | sfeed
  | sfeedw (fmt : FloatFmt)
  | sacc
  | sdrain (pair clr : Bool)
  | sclr | scfg | sload | scmpx | skey | sidx
deriving DecidableEq, Repr, Inhabited

/-- The sampling operations of row 0xA (spec/16_sampling.md R362). -/
inductive SampleOp where
  | rngu | gumb | smax | stopk
  | slse (merge : Bool)
  | swin
deriving DecidableEq, Repr, Inhabited

/-- A slot word of E-space, decoded. Every instruction of the E-space map (spec/02_words.md R63) has a form here. -/
inductive EInstr where
  | nop (g : Guard)
  | alu (op : AluOp) (m : AluMods) (f : EForm)
  | movi (g : Guard) (d : EDst) (imm : BitVec 24)
  | movhi (g : Guard) (d : EDst) (imm : BitVec 24)
  | float (op : FloatOp) (fm : FloatFmt) (rm : Rounding) (f : EForm)
  | cvt (d : FloatFmt) (rm : Rounding) (sf : SrcFmt) (f : EForm)
  | cvti (d : IntFmt) (rm : Rounding) (sf : FloatFmt) (f : EForm)
  | cvtn (rm : Rounding) (sf : SrcFmt) (f : EForm)
  | cvtnf (sf : SrcFmt) (f : EForm)
  | scext (f : EForm)
  | npack (f : EForm)
  | nunpk (d : FloatFmt) (rm : Rounding) (f : EForm)
  | expfn (fn : ExpFn) (d : FloatFmt) (rm : Rounding) (sf : FloatFmt) (f : EForm)
  | fdiv (d : FloatFmt) (rm : Rounding) (sf : FloatFmt) (f : EForm)
  | fsqrt (d : FloatFmt) (rm : Rounding) (sf : FloatFmt) (f : EForm)
  | bits (op : BitOp) (sz : Size) (f : EForm)
  | stream (op : StreamOp) (f : EForm)
  | ld (uns : Bool) (sz : Size) (f : EForm)
  | st (sz : Size) (f : EForm)
  | ldg (m : MemMods) (f : EForm)
  | stg (m : MemMods) (f : EForm)
  | pf (lv : PfLevel) (f : EForm)
  | tlook (f : EForm)
  | tset (f : EForm)
  | tclr (f : EForm)
  | stmw (m : MemMods) (f : EForm)
  | atomic (op : AtomicOp) (m : MemMods) (f : EForm)
  | fence (o : Order) (sc : Scope) (g : Guard)
  | sig (rel : Bool) (sc : Scope) (f : EForm)
  | cell (op : CellOp) (f : EForm)
  | sample (op : SampleOp) (f : EForm)
  | brk (g : Guard)
  | trig (f : EForm)
  | tmark (f : EForm)
deriving DecidableEq, Repr, Inhabited

/-! ## C-space command head (spec/02_words.md R61, R62) -/

/-- The fields common to every command record, apart from TYPE. -/
structure CHead where
  waitEn : Bool
  sigEn : Bool
  wsem : BitVec 8
  wthr : BitVec 16
  ssem : BitVec 8
  sinc : BitVec 8
  sscope : Scope
deriving DecidableEq, Repr, Inhabited

/-- The body of types 0x10 to 0x13 (spec/12_engines.md R292). -/
structure CExp where
  src : BitVec 20
  sfmt : FloatFmt
  dfmt : FloatFmt
  rm : Rounding
  dst : BitVec 20
  count : BitVec 15
deriving DecidableEq, Repr, Inhabited

/-- The operation of a collective (spec/12_engines.md R294). -/
inductive CollOp where
  | f32add | f32max | f32min | s32add | z32max | s64add
deriving DecidableEq, Repr, Inhabited

/-- The body of types 0x20 to 0x23 (spec/12_engines.md R294). -/
structure CColl where
  src : BitVec 56
  dst : BitVec 56
  count : BitVec 32
  gid : BitVec 8
  rank : BitVec 16
  op : CollOp
deriving DecidableEq, Repr, Inhabited

/-! ## Parameters of events -/

/-- A copy of a launch, named by the tile that issued the launch, the launch identifier and the copy number. -/
structure CopyRef where
  issuer : Nat
  lid : Nat
  copy : Nat
deriving DecidableEq, Repr, Inhabited

/-- Where a token for an input port comes from (spec/12_engines.md R288): a copy engine of this package, or another package, with that
package's number for it: element `i` of the `total` of its command, or the end-of-stream behind them, which is element `total`. -/
inductive PortSrc where
  | engine (tile : Nat)
  | arcade (pkg id : Nat) (dst : BitVec 56) (value : Word) (i total : Nat)
deriving DecidableEq, Repr, Inhabited

/-- What a store acknowledgement is of: a store-queue entry of a tile; a write of another package, with that package's number for it;
or a write that this package sent out, with the cause of the fault it met there, 0 for none (spec/12_engines.md R281, R285). -/
inductive StoreSrc where
  | tile (t : Nat) (id : Nat)
  | arcade (pkg id : Nat) (va : BitVec 64) (bytes : List Byte)
  | reply (t : Nat) (id : Nat) (cause : Nat)
deriving DecidableEq, Repr, Inhabited

/-- What a remote increment is (spec/10_ordering.md R242): a store-queue entry of a tile, an increment of another package with that
package's number for it, or the acknowledgement of one that was sent out. -/
inductive SigSrc where
  | tile (t : Nat) (id : Nat)
  | arcade (pkg id : Nat) (tile : Nat) (sem : BitVec 8) (inc : BitVec 32)
  | reply (t : Nat) (id : Nat)
deriving DecidableEq, Repr, Inhabited

/-- Where a query token comes from (spec/13_rings.md R304): its first slot has reached the stop of a tile; or it comes from another
package, whose stop addressed it last; or that stop's package tells that a token a stop here sent it was discarded. -/
inductive TokSrc where
  | stop (tile : Nat)
  | arcade (pkg src tile : Nat) (bytes : List Byte)
  | dropped (stop : Nat)
deriving DecidableEq, Repr, Inhabited

/-- An operation of another package on a KV set of this one (spec/13_rings.md R307, R308). -/
inductive KvRemote where
  | alloc (ref : Word)
  | free (ref : Word)
  | ref (ref : Word)
  | pin (ref : Word)
  | unpin (ref : Word)
  | write (ref : Word) (page pos : Nat) (tent : Bool) (row : List Byte)
  | commit (ref : Word) (mask : Word)
  | image (ref : Word)
  | masks (ref : Word) (vmask tmask : Word)
  | fill (ref : Word) (bytes : List Byte)
deriving DecidableEq, Repr, Inhabited

/-- One participant of another package in a collective instance (spec/12_engines.md R294). -/
structure CollPart where
  type : Nat
  count : Nat
  op : CollOp
  rank : Nat
  src : List Byte
  /-- the cause of a fault that the participant met; 0 for none -/
  fault : Nat
deriving DecidableEq, Repr, Inhabited

/-- A direction of a ring (spec/13_rings.md R296): clockwise or counter-clockwise. -/
inductive RingDir where
  | cw | ccw
deriving DecidableEq, Repr, Inhabited

/-! ## The instructions and events -/

/-- One constructor per row of spec/opcode_table.json, in the table's order. The banker's, sequencer's and engines' rows
carry their operands; the executor that runs them is the one whose turn it is (`State.actor`). An event row carries what
names the event and whatever the outside world brings. -/
inductive Instr where
  -- regions
  | regionFire (c : CopyRef)
  -- banker: integer
  | bPoisonWord (w : BitVec 64)
  | bNop (g : Guard)
  | bMov (m : AluMods) (f : BForm)
  | bAdd (m : AluMods) (f : BForm)
  | bSub (m : AluMods) (f : BForm)
  | bNeg (m : AluMods) (f : BForm)
  | bAbs (m : AluMods) (f : BForm)
  | bMul (m : AluMods) (f : BForm)
  | bMulh (m : AluMods) (f : BForm)
  | bMad (m : AluMods) (f : BForm)
  | bMin (m : AluMods) (f : BForm)
  | bMax (m : AluMods) (f : BForm)
  | div (m : AluMods) (f : BForm)
  | rem (m : AluMods) (f : BForm)
  | bClamp (m : AluMods) (f : BForm)
  | bMovi (w : BWide)
  | bMovhi (w : BWide)
  | bAnd (m : AluMods) (f : BForm)
  | bOr (m : AluMods) (f : BForm)
  | bXor (m : AluMods) (f : BForm)
  | bAndn (m : AluMods) (f : BForm)
  | bNot (m : AluMods) (f : BForm)
  | bShl (m : AluMods) (f : BForm)
  | bShr (m : AluMods) (f : BForm)
  | bSar (m : AluMods) (f : BForm)
  | bRol (m : AluMods) (f : BForm)
  | bCmpeq (m : AluMods) (f : BForm)
  | bCmpne (m : AluMods) (f : BForm)
  | bCmplt (m : AluMods) (f : BForm)
  | bCmple (m : AluMods) (f : BForm)
  | bSel (m : AluMods) (f : BForm)
  | bClz (m : AluMods) (f : BForm)
  | bPopc (m : AluMods) (f : BForm)
  | bCtz (m : AluMods) (f : BForm)
  | bAgen (m : AluMods) (f : BForm)
  | bWrap (m : AluMods) (f : BForm)
  | bSext (m : AluMods) (f : BForm)
  | bZext (m : AluMods) (f : BForm)
  | bBswap (m : AluMods) (f : BForm)
  -- banker: control
  | br (w : BWide)
  | brr (f : BForm)
  | call (w : BWide)
  | callr (f : BForm)
  | ret (f : BForm)
  | jtab (f : BForm)
  | loop (f : BForm)
  | loopi (w : BWide)
  | lbload (f : BForm)
  | lbrun (f : BForm)
  -- banker: launch
  | launch (f : BForm)
  | launcht (f : BForm)
  | cfgload (f : BForm)
  | lintel (f : BForm)
  | compact (f : BForm)
  | lqstat (f : BForm)
  | lcancel (f : BForm)
  | ctxpri (f : BForm)
  | ctxevict (f : BForm)
  | orphan (f : BForm)
  | cfgfree (f : BForm)
  | cfgstat (f : BForm)
  -- banker: memory
  | bLd (uns : Bool) (sz : Size) (f : BForm)
  | bSt (sz : Size) (f : BForm)
  | bLdg (m : MemMods) (f : BForm)
  | bStg (m : MemMods) (f : BForm)
  | bPf (lv : PfLevel) (f : BForm)
  | bTlook (f : BForm)
  | bTset (f : BForm)
  | bTclr (f : BForm)
  | bStmw (m : MemMods) (f : BForm)
  | flush (sc : Scope) (f : BForm)
  | inval (k : InvKind) (sc : Scope) (f : BForm)
  -- banker: atomics and synchronisation
  | bAadd (m : MemMods) (f : BForm)
  | bAand (m : MemMods) (f : BForm)
  | bAor (m : MemMods) (f : BForm)
  | bAxor (m : MemMods) (f : BForm)
  | bAmin (m : MemMods) (f : BForm)
  | bAmax (m : MemMods) (f : BForm)
  | bAxchg (m : MemMods) (f : BForm)
  | bAcas (m : MemMods) (f : BForm)
  | bAfadd (m : MemMods) (f : BForm)
  | bFence (o : Order) (sc : Scope) (g : Guard)
  | bSig (rel : Bool) (sc : Scope) (f : BForm)
  | wait (take acq : Bool) (sc : Scope) (f : BForm)
  | sbar (f : BForm)
  | sigr (rel : Bool) (sc : Scope) (f : BForm)
  -- banker: engine chains
  | ecmd (f : BForm)
  | ecpy (f : BForm)
  | egath (f : BForm)
  | escat (f : BForm)
  | efetch (f : BForm)
  | ecoll (f : BForm)
  | esig (f : BForm)
  | eexp (f : BForm)
  | eseq (f : BForm)
  | edrain (f : BForm)
  | echainGo (f : BForm)
  | echainStop (f : BForm)
  | echainRetry (f : BForm)
  | echainSkip (f : BForm)
  | estat (f : BForm)
  -- banker: rings and KV pages
  | qform (f : BForm)
  | qinj (f : BForm)
  | shset (f : BForm)
  | shget (f : BForm)
  | kvalloc (f : BForm)
  | kvfree (f : BForm)
  | kvref (f : BForm)
  | kvpin (f : BForm)
  | kvunpin (f : BForm)
  | kvwr (f : BForm)
  | kvcommit (f : BForm)
  | ringstRead (f : BForm)
  | ringstWrite (f : BForm)
  | ringstClear (f : BForm)
  -- banker: attention sequencer
  | asld (f : BForm)
  | asgo (f : BForm)
  | asstatRead (f : BForm)
  | asstatClear (f : BForm)
  | asstatStop (f : BForm)
  -- banker: requests
  | rqrd (f : BForm)
  | rqwr (f : BForm)
  | rqfault (f : BForm)
  | rqstateRead (f : BForm)
  | rqstateCancel (f : BForm)
  | rqstateFaults (f : BForm)
  | mfget (f : BForm)
  | mfnext (f : BForm)
  | mfcnt (f : BForm)
  | rqspill (f : BForm)
  | rqrecall (f : BForm)
  | rqadmit (f : BForm)
  -- banker: sampling
  | sacpt (f : BForm)
  | scommit (f : BForm)
  | rngblk (f : BForm)
  -- banker: text
  | vocldLoad (f : BForm)
  | vocldUnload (f : BForm)
  | qrgo (f : BForm)
  | qrstat (f : BForm)
  | qrstop (f : BForm)
  | stgo (f : BForm)
  | ststat (f : BForm)
  | stclose (f : BForm)
  -- banker: system
  | sysrd (f : BForm)
  | syswr (f : BForm)
  | trap (f : BForm)
  | rfe (f : BForm)
  | bBrk (f : BForm)
  | bcinv (f : BForm)
  | bTrig (f : BForm)
  | bTmark (f : BForm)
  | emul (f : BForm)
  | halt (f : BForm)
  | idle (f : BForm)
  | sysrdt (f : BForm)
  -- attention sequencer
  | mPoisonWord (w : Word32)
  | mNop
  | mMov (d a : Fin 16)
  | mAdd (d a b : Fin 16)
  | mAddImm (d a : Fin 16) (i : BitVec 10)
  | mSub (d a b : Fin 16)
  | mSubImm (d a : Fin 16) (i : BitVec 10)
  | mLi (d : Fin 16) (i : BitVec 22)
  | mBz (a : Fin 16) (n : BitVec 10)
  | mBnz (a : Fin 16) (n : BitVec 10)
  | mJmp (n : BitVec 10)
  | mLoop (d : Fin 16) (n : BitVec 10)
  | mWait (take : Bool) (d a : Fin 16) (sem : BitVec 8)
  | mSig (a : Fin 16) (sem : BitVec 8)
  | pgnext (d : Fin 16)
  | pgload (d : Fin 16)
  | score
  | bmax
  | rescale
  | expp
  | accpv
  | fold (d a : Fin 16)
  | rubmrg (d : Fin 16)
  | fwd
  | fin (a : Fin 16)
  | mHalt
  | mwaitPass (tile : Nat)
  | sequencerStart (tile : Nat)
  -- engine commands
  | cCopy (h : CHead) (src dst : BitVec 56) (dpkg : BitVec 8) (desc : BitVec 20) (xpkg eos : Bool)
  | cGather (h : CHead) (src dst : BitVec 56) (dpkg : BitVec 8) (idx : BitVec 20) (count : BitVec 14) (esz : BitVec 2)
  | cScatter (h : CHead) (src dst : BitVec 56) (dpkg : BitVec 8) (idx : BitVec 20) (xpkg : Bool) (count : BitVec 14)
      (esz : BitVec 2)
  | cFetch (h : CHead) (man dst : BitVec 56) (nent : BitVec 16) (pbase : BitVec 8) (pcount : BitVec 9)
  | cFill (h : CHead) (pattern : Word) (dst : BitVec 56) (dpkg : BitVec 8) (len : BitVec 40) (xpkg : Bool)
  | cRsig (h : CHead) (saddr : BitVec 27) (inc : BitVec 32)
  | cVexp2 (h : CHead) (b : CExp)
  | cVlog2 (h : CHead) (b : CExp)
  | cVrcp (h : CHead) (b : CExp)
  | cVrsqrt (h : CHead) (b : CExp)
  | cAllred (h : CHead) (b : CColl)
  | cAllgat (h : CHead) (b : CColl)
  | cRedsc (h : CHead) (b : CColl)
  | cBcast (h : CHead) (b : CColl)
  | cQtok (h : CHead) (src dst : BitVec 56) (vid : BitVec 8) (res : BitVec 20) (len : BitVec 24) (maxtok : BitVec 20)
  | cSdet (h : CHead) (src dst : BitVec 56) (vid : BitVec 8) (res : BitVec 20) (count : BitVec 20) (dmax : BitVec 24)
  | cBstep (h : CHead) (lane : BitVec 6) (auto : Bool)
  | cNull (h : CHead)
  | engineCmdComplete (tile : Nat) (chain : Fin 4)
  | collInstanceStart (gid : Nat) (remote : List CollPart)
  -- placement, contexts and snapshots
  | placerPass (wall : Nat)
  | copyLoadDone (c : CopyRef)
  | copyStart (c : CopyRef)
  | wheelEpoch (tile : Nat)
  | countedEnd (c : CopyRef)
  | launchEnd (issuer lid : Nat)
  | portTokenArrival (src : PortSrc)
  | snapshotCut (c : CopyRef)
  | cutComplete (c : CopyRef)
  | cutWriteFault (c : CopyRef)
  | lintelSweepStart (c : CopyRef)
  | lintelDiagonalSwitch (c : CopyRef)
  | sweepCommit (issuer lid : Nat)
  | sweepReversalDone (issuer lid : Nat)
  -- completions of memory and synchronisation
  | expEngineResult (tile : Nat) (lane : Fin 4)
  | loadDataReturn (tile id : Nat) (ecc : Bool)
  | storeAck (src : StoreSrc) (ecc : Bool)
  | atomicReply (tile id : Nat) (ecc : Bool)
  | pageWalkComplete (wall page : Nat) (ecc : Bool)
  | stmwArrival (src member : Nat)
  | sigrArrival (src : SigSrc)
  | waitPass (tile : Nat)
  | sbarArrival (tile : Nat)
  | barrierRootArrival (bar : Fin 16)
  | sbarResume (tile : Nat)
  | edrainDone (tile : Nat)
  | replyArrival (tile : Nat) (remote : Word)
  -- rings, KV unit, record store, text engines
  | ringSplice (stop : Nat) (dir : RingDir)
  | matchUnitExamine (src : TokSrc)
  | kvUnitOperation (tile : Nat) (remote : Option (Nat × KvRemote)) (ecc : Bool)
  | recordStoreOperation
  | setterWakeServe (eng : Fin 16)
  | requestFrame (port : Fin 4) (peer : Word) (bytes : List Byte)
  | cancelFrame (port : Fin 4) (peer : Word) (bytes : List Byte)
  | objReadReply (packet : List Byte)
  | objReadTimeout (tag : Word)
  -- traps and debug
  | trapEntry (tile : Nat)
  | traceFreeze (tile : Nat)
  -- host memory and system registers
  | hostMemoryRead (pa : BitVec 48) (len : Nat) (cxl ecc : Bool)
  | hostMemoryWrite (pa : BitVec 48) (bytes : List Byte) (ecc : Bool)
  | registerWrite (off : BitVec 32) (v : Word)
  | clearOnRead (off : BitVec 32)
  | evqRead
  | bkmtWrite (tile : Nat) (v : Word)
  | chainEnable (tile : Nat) (chain : Fin 4) (v : Word)
  | chainDisable (tile : Nat) (chain : Fin 4) (v : Word)
  | mwinWrite (tile : Nat) (win : Fin 4) (v : Word)
  | rscfgWrite (tile : Nat) (v : Word)
  | kvpoolEnable (tile : Nat) (v : Word)
  | kvpoolDisable (tile : Nat) (v : Word)
  | ascfgWrite (tile : Nat) (v : Word)
  | asstartGo (tile : Nat) (v : Word)
  | resumeCopies (tile : Nat) (v : Word)
  | resumeCancel (tile : Nat) (v : Word)
  | snapbaseWrite (tile : Nat) (v : Word)
  | tracectlWrite (tile : Nat) (v : Word)
  | trigctlWrite (tile : Nat) (v : Word)
  | bctlRun (tile : Nat) (v : Word)
  | wayresWrite (wall : Nat) (v : Word)
  | ordctlWrite (v : Word)
  | orderModeChange
  | sbarRegWrite (bar : Fin 16) (v : Word)
  | cgrpWrite (gid : Nat) (v : Word)
  | bfcfgWrite (off : BitVec 32) (v : Word)
  | qrbufWrite (v : Word)
  | sampcfgWrite (off : BitVec 32) (v : Word)
  -- management
  | arcStart (v : Word)
  | arcHello (nums : List Nat)
  | coldReset
  | warmReset
  | pendingWarmReset
  | pwrReqWrite (v : Word)
  | powerStateChange
  | droopEpisode (cycles : Nat)
  | flashFirmware (v : Word)
  | flashConfigBlock (v : Word)
  | flashDegradationTable (v : Word)
  | flashDone
  | attestGo (v : Word)
  | attestDone
  | cxlEnable (port : Fin 6) (v : Word)
  | cxlDisable (port : Fin 6) (v : Word)
  | cxlLinkDown (port : Fin 6)
  | linkLaneError (link : Fin 16) (dir : Bool) (lane : Nat) (errors : Nat)
  | freeze
  | unfreeze
  | cxlLinkTrained (port : Fin 6)
  | supplyRecovery
  | frameOnUnimplementedMode (port : Fin 8) (bytes : List Byte)
  | pfFillComplete (tile id : Nat) (ecc : Bool)
deriving DecidableEq, Repr, Inhabited

/-! ## Turns -/

/-- Who acts in a turn: an executor with its own program, or an event. -/
inductive Who where
  | banker (tile : Nat)
  | sequencer (tile : Nat)
  | engine (tile : Nat) (chain : Fin 4)
  | event (i : Instr)
deriving DecidableEq, Repr, Inhabited

/-- One turn: how many fabric cycles pass before it, who acts, and whether an access of storage in it meets an error: 0 none, 1 or 2
a corrected or an uncorrectable one, 3 or 4 the same in a cache slice, plus 8 for each access that goes before it without one (log
entry 139). -/
structure Turn where
  delay : Nat
  who : Who
  ecc : Nat := 0
deriving DecidableEq, Repr, Inhabited

end Sys2Proof
end

