-- ==== Sys2Proof/WellFormed.lean ====
section
/-!
DEFINITION. Which instructions have an encoding: operand counts, index fields, destinations and modifiers of the
banker's instructions, the slot words and the commands, as the class chapters of spec/ give them. Microwords are
well formed whatever their operands hold.
-/
namespace Sys2Proof

/-! ## Operands -/

/-- Index fields a banker source takes (spec/02_words.md R48): 0, 1, or 2 for a long immediate. -/
def BSrc.fields : BSrc → Nat
  | .none => 0
  | .imm12 _ => 2
  | _ => 1

/-- Index fields a slot source takes (spec/02_words.md R48). -/
def ESrc.fields : ESrc → Nat
  | .none => 0
  | .nb _ => 0
  | .ch _ => 0
  | .imm12 _ => 2
  | _ => 1

/-- The form has exactly its first `n` sources, and they fit the two index fields (spec/02_words.md R48). -/
def BForm.sourcesOk (n : Nat) (f : BForm) : Bool :=
  (f.a != .none) == decide (1 ≤ n) && (f.b != .none) == decide (2 ≤ n) && (f.c != .none) == decide (3 ≤ n) &&
    decide (f.a.fields + f.b.fields + f.c.fields ≤ 2)

/-- The slot form has exactly its first `n` sources, and they fit the two index fields (spec/02_words.md R48). -/
def EForm.sourcesOk (n : Nat) (f : EForm) : Bool :=
  (f.a != .none) == decide (1 ≤ n) && (f.b != .none) == decide (2 ≤ n) && (f.c != .none) == decide (3 ≤ n) &&
    decide (f.a.fields + f.b.fields + f.c.fields ≤ 2)

/-- Destinations none, `g`, `lc` (spec/04_integer.md R110, value instructions). -/
def BDst.isValue : BDst → Bool
  | .f _ => false
  | _ => true

/-- Destinations none, `g`, flag (spec/04_integer.md R110, compares). -/
def BDst.isCompare : BDst → Bool
  | .lc _ => false
  | _ => true

/-- Destinations none and `g`. -/
def BDst.isG : BDst → Bool
  | .none => true
  | .g _ => true
  | _ => false

/-- A `g` register. -/
def BDst.needG : BDst → Bool
  | .g _ => true
  | _ => false

/-- A loop counter. -/
def BDst.needLc : BDst → Bool
  | .lc _ => true
  | _ => false

/-- Slot destinations result only, `k`, `s`, channel. -/
def EDst.isValue : EDst → Bool
  | .p _ => false
  | _ => true

/-- Slot destinations result only, `k`, `s`. -/
def EDst.isReg : EDst → Bool
  | .result => true
  | .k _ => true
  | .s _ => true
  | _ => false

/-- Slot destinations `k`, `s`. -/
def EDst.isKS : EDst → Bool
  | .k _ => true
  | .s _ => true
  | _ => false

/-- An output channel. -/
def EDst.isCh : EDst → Bool
  | .ch _ => true
  | _ => false

/-- A channel select. -/
def ESrc.isCh : ESrc → Bool
  | .ch _ => true
  | _ => false

/-! ## Integer operations (spec/04_integer.md R116 to R125) -/

/-- The source count of an integer operation. -/
def AluOp.arity : AluOp → Nat
  | .mov | .neg | .abs | .not | .clz | .popc | .ctz | .bswap => 1
  | .mad | .addsh | .clamp | .sel | .agen | .agen2 | .wrap => 3
  | _ => 2

/-- The operations that may saturate. -/
def AluOp.canSat : AluOp → Bool
  | .add | .sub | .neg | .abs | .mul | .mad | .absd | .addsh | .shl | .div => true
  | _ => false

/-- The compares of R119. -/
def AluOp.isCompare : AluOp → Bool
  | .cmpeq | .cmpne | .cmplt | .cmple => true
  | _ => false

/-- The modifier conditions of R125. -/
def AluOp.modsOk (op : AluOp) (m : AluMods) : Bool :=
  (!m.sat || op.canSat) &&
  (match op with
   | .sext => !m.uns
   | .zext => m.uns
   | .agen2 => m.uns
   | .bswap => m.size != .b8
   | _ => true)

/-- An integer instruction of the banker is well formed. -/
def bAluOk (op : AluOp) (m : AluMods) (f : BForm) : Bool :=
  op.modsOk m && f.sourcesOk op.arity && (if op.isCompare then f.dst.isCompare else f.dst.isValue)

/-- An integer slot is well formed. -/
def eAluOk (op : AluOp) (m : AluMods) (f : EForm) : Bool :=
  op.modsOk m && f.sourcesOk op.arity && (op.isCompare || f.dst.isValue) && op != .div && op != .rem

/-! ## Banker rows -/

/-- A form of rows 0x5 and 0x8 to 0xD: `n` sources, destination none or `g` (spec/08_launch.md R185). -/
def bRowOk (n : Nat) (f : BForm) : Bool := f.sourcesOk n && f.dst.isG

/-- The first source is a `g` register (spec/07_control.md R160). -/
def BForm.aIsG (f : BForm) : Bool :=
  match f.a with
  | .g _ => true
  | _ => false

/-- The first source is a record operand (spec/12_engines.md R282). -/
def BForm.aIsRecord (f : BForm) : Bool :=
  match f.a with
  | .g i => i.val % 4 == 0
  | _ => false

/-- A read-modify-write instruction is well formed (spec/10_ordering.md R236). -/
def bAtomicOk (op : AtomicOp) (m : MemMods) (f : BForm) : Bool :=
  f.sourcesOk 2 && (match op with
    | .acas => f.dst.needG && (m.size == .b32 || m.size == .b64)
    | .afadd => f.dst.isG && m.size == .b32 && !m.uns
    | _ => f.dst.isG && (m.size == .b32 || m.size == .b64))

/-! ## Slot words -/

/-- The source count of a float operation (spec/05_float.md R131 to R133). -/
def FloatOp.arity : FloatOp → Nat
  | .fma | .fms | .fnma => 3
  | .fabs | .fneg | .fclass | .frint => 1
  | _ => 2

/-- The float operations that round (spec/05_float.md R131). -/
def FloatOp.rounds : FloatOp → Bool
  | .fadd | .fsub | .fmul | .fma | .fms | .fnma | .frint => true
  | _ => false

/-- The float compares. -/
def FloatOp.isCompare : FloatOp → Bool
  | .fcmpeq | .fcmplt | .fcmple => true
  | _ => false

/-- The source count of a bit operation (spec/06_bits.md R154 to R157). -/
def BitOp.arity : BitOp → Nat
  | .bins | .bsel => 3
  | .brev | .bdec | .bsplit | .bjoin => 1
  | _ => 2

/-- A stream slot is well formed (spec/07_control.md R173). -/
def streamOk (op : StreamOp) (f : EForm) : Bool :=
  match op with
  | .pop | .drop => f.sourcesOk 1 && f.a.isCh && f.dst == .result
  | .push | .prime | .steer => f.sourcesOk 2 && f.dst.isCh
  | .peek => f.sourcesOk 1 && f.a.isCh && f.dst.isValue
  | .merge => f.sourcesOk 3 && f.dst.isValue
  | .void => f.sourcesOk 0 && f.dst.isValue
  | .eos => f.sourcesOk 0 && f.dst.isCh
  | .iseos => f.sourcesOk 1 && f.a.isCh

/-- A block-cell slot is well formed (spec/11_systolic.md R263). -/
def cellOk (op : CellOp) (f : EForm) : Bool :=
  match op with
  | .sfeed => f.sourcesOk 2 && f.b.isCh && f.dst == .result
  | .sfeedw _ => f.sourcesOk 3 && f.dst == .result
  | .sacc => f.sourcesOk 1 && f.dst == .result
  | .sdrain _ _ => f.sourcesOk 2 && f.dst.isValue
  | .sclr | .scfg | .sload => f.sourcesOk 2 && f.dst == .result
  | .scmpx => f.sourcesOk 3 && f.dst == .result
  | .skey | .sidx => f.sourcesOk 2 && f.dst.isValue

/-- A sampling slot is well formed (spec/16_sampling.md R362). -/
def sampleOk (op : SampleOp) (f : EForm) : Bool :=
  f.dst.isValue && (match op with
    | .swin => f.sourcesOk 3
    | _ => f.sourcesOk 2)

/-- A slot word is well formed: it has an encoding that is not a poison word (spec/02_words.md R67). -/
def EInstr.wf : EInstr → Bool
  | .nop _ => true
  | .alu op m f => eAluOk op m f
  | .movi _ d _ => d.isValue
  | .movhi _ d _ => d.isReg
  | .float op _ rm f => f.sourcesOk op.arity && (op.isCompare || f.dst.isValue) && (op.rounds || rm == .rne)
  | .cvt _ _ _ f => f.sourcesOk 1 && f.dst.isValue
  | .cvti _ _ _ f => f.sourcesOk 1 && f.dst.isValue
  | .cvtn _ _ f => f.sourcesOk 2 && f.dst.isValue
  | .cvtnf _ f => f.sourcesOk 2 && f.dst.isValue
  | .scext f => f.sourcesOk 1 && f.a.isCh && f.dst.isValue
  | .npack f => f.sourcesOk 2 && f.dst.isReg
  | .nunpk d _ f => f.sourcesOk 2 && f.dst.isValue && d != .edge
  | .expfn _ d _ _ f => f.sourcesOk 1 && f.dst.isKS && d != .edge
  | .fdiv _ _ _ f => f.sourcesOk 2 && f.dst.isValue
  | .fsqrt _ _ _ f => f.sourcesOk 1 && f.dst.isValue
  | .bits op _ f => f.sourcesOk op.arity && f.dst.isValue
  | .stream op f => streamOk op f
  | .ld _ _ f => f.sourcesOk 2 && f.dst.isValue
  | .st _ f => f.sourcesOk 2 && f.dst == .result
  | .ldg m f => f.sourcesOk 2 && f.dst.isKS && (m.order == .plain || m.order == .acquire)
  | .stg m f => f.sourcesOk 2 && f.dst == .result && (m.order == .plain || m.order == .release) && !m.uns
  | .pf _ f => f.sourcesOk 2 && f.dst == .result
  | .tlook f => f.sourcesOk 2
  | .tset f => f.sourcesOk 2 && f.dst == .result
  | .tclr f => f.sourcesOk 1 && f.dst == .result
  | .stmw m f => f.sourcesOk 2 && f.dst == .result && (m.order == .plain || m.order == .release) && !m.uns &&
      m.scope != .arcade
  | .atomic op m f => f.sourcesOk 2 && f.dst.isReg && (match op with
      | .afadd => m.size == .b32 && !m.uns
      | _ => m.size == .b32 || m.size == .b64)
  | .fence o _ _ => o != .plain
  | .sig _ _ f => f.sourcesOk 2 && f.dst == .result
  | .cell op f => cellOk op f
  | .sample op f => sampleOk op f
  | .brk _ => true
  | .trig f => f.sourcesOk 1 && f.dst == .result
  | .tmark f => f.sourcesOk 1 && f.dst == .result

/-! ## Commands -/

/-- The unused wait and signal fields are zero (spec/02_words.md R62). -/
def CHead.wf (h : CHead) : Bool :=
  (h.waitEn || (h.wsem == 0 && h.wthr == 0)) &&
  (h.sigEn || (h.ssem == 0 && h.sinc == 0 && h.sscope == .region))

/-- A plinth-independent check of a copy body: EOS stands only with a port destination (spec/12_engines.md R288). -/
def copyOk (h : CHead) (dst : BitVec 56) (eos : Bool) : Bool :=
  h.wf && (!eos || dst.toNat / 2 ^ 48 == 0xFF)

/-- An array command names wide formats (spec/12_engines.md R292). -/
def CExp.wf (b : CExp) : Bool := b.sfmt != .edge && b.dfmt != .edge

/-! ## Instructions -/

/-- An instruction has an encoding in its space; an event row, which has none, is not a program word. -/
def WellFormed : Instr → Bool
  | .bNop _ => true
  | .bMov m f => bAluOk .mov m f
  | .bAdd m f => bAluOk .add m f
  | .bSub m f => bAluOk .sub m f
  | .bNeg m f => bAluOk .neg m f
  | .bAbs m f => bAluOk .abs m f
  | .bMul m f => bAluOk .mul m f
  | .bMulh m f => bAluOk .mulh m f
  | .bMad m f => bAluOk .mad m f
  | .bMin m f => bAluOk .min m f
  | .bMax m f => bAluOk .max m f
  | .div m f => bAluOk .div m f
  | .rem m f => bAluOk .rem m f
  | .bClamp m f => bAluOk .clamp m f
  | .bMovi w => w.dst.isValue
  | .bMovhi w => w.dst.needG
  | .bAnd m f => bAluOk .and m f
  | .bOr m f => bAluOk .or m f
  | .bXor m f => bAluOk .xor m f
  | .bAndn m f => bAluOk .andn m f
  | .bNot m f => bAluOk .not m f
  | .bShl m f => bAluOk .shl m f
  | .bShr m f => bAluOk .shr m f
  | .bSar m f => bAluOk .sar m f
  | .bRol m f => bAluOk .rol m f
  | .bCmpeq m f => bAluOk .cmpeq m f
  | .bCmpne m f => bAluOk .cmpne m f
  | .bCmplt m f => bAluOk .cmplt m f
  | .bCmple m f => bAluOk .cmple m f
  | .bSel m f => bAluOk .sel m f
  | .bClz m f => bAluOk .clz m f
  | .bPopc m f => bAluOk .popc m f
  | .bCtz m f => bAluOk .ctz m f
  | .bAgen m f => bAluOk .agen m f
  | .bWrap m f => bAluOk .wrap m f
  | .bSext m f => bAluOk .sext m f
  | .bZext m f => bAluOk .zext m f
  | .bBswap m f => bAluOk .bswap m f
  | .br w => w.dst == .none
  | .brr f => f.sourcesOk 1 && f.aIsG && f.dst == .none
  | .call w => w.dst.needG
  | .callr f => f.sourcesOk 1 && f.aIsG && f.dst.needG
  | .ret f => f.sourcesOk 1 && f.aIsG && f.dst == .none
  | .jtab f => f.sourcesOk 2 && f.aIsG && f.dst == .none
  | .loop f => f.sourcesOk 2 && f.dst.needLc
  | .loopi w => w.dst.needLc
  | .lbload f => f.sourcesOk 2 && f.aIsG && f.dst == .none
  | .lbrun f => f.sourcesOk 2 && f.aIsG && f.dst == .none
  | .launch f => bRowOk 2 f
  | .launcht f => bRowOk 2 f
  | .cfgload f => bRowOk 1 f
  | .lintel f => bRowOk 2 f
  | .compact f => bRowOk 1 f
  | .lqstat f => bRowOk 1 f
  | .lcancel f => bRowOk 1 f
  | .ctxpri f => bRowOk 2 f
  | .ctxevict f => bRowOk 1 f
  | .orphan f => bRowOk 2 f
  | .cfgfree f => bRowOk 1 f
  | .cfgstat f => bRowOk 1 f
  | .bLd _ _ f => f.sourcesOk 2 && f.dst.isG
  | .bSt _ f => f.sourcesOk 2 && f.dst == .none
  | .bLdg m f => f.sourcesOk 2 && f.dst.needG && (m.order == .plain || m.order == .acquire)
  | .bStg m f => f.sourcesOk 2 && f.dst == .none && (m.order == .plain || m.order == .release) && !m.uns
  | .bPf _ f => f.sourcesOk 2 && f.dst == .none
  | .bTlook f => f.sourcesOk 2 && f.dst.isCompare
  | .bTset f => f.sourcesOk 2 && f.dst == .none
  | .bTclr f => f.sourcesOk 1 && f.dst == .none
  | .bStmw m f => f.sourcesOk 2 && f.dst == .none && (m.order == .plain || m.order == .release) && !m.uns &&
      m.scope != .arcade
  | .flush sc f => f.sourcesOk 2 && f.dst == .none && (sc == .tile || sc == .wall || sc == .package)
  | .inval _ sc f => f.sourcesOk 2 && f.dst == .none && (sc == .tile || sc == .wall || sc == .package)
  | .bAadd m f => bAtomicOk .aadd m f
  | .bAand m f => bAtomicOk .aand m f
  | .bAor m f => bAtomicOk .aor m f
  | .bAxor m f => bAtomicOk .axor m f
  | .bAmin m f => bAtomicOk .amin m f
  | .bAmax m f => bAtomicOk .amax m f
  | .bAxchg m f => bAtomicOk .axchg m f
  | .bAcas m f => bAtomicOk .acas m f
  | .bAfadd m f => bAtomicOk .afadd m f
  | .bFence o _ _ => o != .plain
  | .bSig _ _ f => f.sourcesOk 2 && f.dst == .none
  | .wait _ _ _ f => f.sourcesOk 2 && f.dst.isG
  | .sbar f => f.sourcesOk 1 && f.dst.isG
  | .sigr _ sc f => f.sourcesOk 2 && f.dst == .none && sc != .region
  | .ecmd f => bRowOk 2 f && f.aIsRecord
  | .ecpy f => bRowOk 1 f && f.aIsRecord
  | .egath f => bRowOk 1 f && f.aIsRecord
  | .escat f => bRowOk 1 f && f.aIsRecord
  | .efetch f => bRowOk 1 f && f.aIsRecord
  | .ecoll f => bRowOk 1 f && f.aIsRecord
  | .esig f => bRowOk 2 f
  | .eexp f => bRowOk 1 f && f.aIsRecord
  | .eseq f => bRowOk 1 f
  | .edrain f => bRowOk 1 f
  | .echainGo f => bRowOk 2 f
  | .echainStop f => bRowOk 2 f
  | .echainRetry f => bRowOk 2 f
  | .echainSkip f => bRowOk 2 f
  | .estat f => bRowOk 1 f
  | .qform f => bRowOk 2 f
  | .qinj f => bRowOk 1 f
  | .shset f => bRowOk 2 f
  | .shget f => bRowOk 2 f
  | .kvalloc f => bRowOk 1 f
  | .kvfree f => bRowOk 1 f
  | .kvref f => bRowOk 1 f
  | .kvpin f => bRowOk 1 f
  | .kvunpin f => bRowOk 1 f
  | .kvwr f => bRowOk 1 f
  | .kvcommit f => bRowOk 2 f
  | .ringstRead f => bRowOk 2 f
  | .ringstWrite f => bRowOk 2 f
  | .ringstClear f => bRowOk 2 f
  | .asld f => bRowOk 2 f
  | .asgo f => bRowOk 2 f
  | .asstatRead f => bRowOk 1 f
  | .asstatClear f => bRowOk 1 f
  | .asstatStop f => bRowOk 1 f
  | .rqrd f => bRowOk 2 f
  | .rqwr f => bRowOk 2 f
  | .rqfault f => bRowOk 2 f
  | .rqstateRead f => bRowOk 2 f
  | .rqstateCancel f => bRowOk 2 f
  | .rqstateFaults f => bRowOk 2 f
  | .mfget f => bRowOk 2 f
  | .mfnext f => bRowOk 1 f
  | .mfcnt f => bRowOk 1 f
  | .rqspill f => bRowOk 1 f
  | .rqrecall f => bRowOk 1 f
  | .rqadmit f => bRowOk 2 f
  | .sacpt f => bRowOk 1 f
  | .scommit f => bRowOk 1 f
  | .rngblk f => bRowOk 2 f
  | .vocldLoad f => bRowOk 2 f
  | .vocldUnload f => bRowOk 2 f
  | .qrgo f => bRowOk 1 f
  | .qrstat f => bRowOk 1 f
  | .qrstop f => bRowOk 1 f
  | .stgo f => bRowOk 1 f
  | .ststat f => bRowOk 1 f
  | .stclose f => bRowOk 1 f
  | .sysrd f => f.sourcesOk 1 && f.dst.needG
  | .syswr f => f.sourcesOk 2 && f.dst == .none
  | .trap f => f.sourcesOk 1 && f.dst == .none
  | .rfe f => f.sourcesOk 0 && f.dst == .none
  | .bBrk f => f.sourcesOk 0 && f.dst == .none
  | .bcinv f => f.sourcesOk 1 && f.dst == .none
  | .bTrig f => f.sourcesOk 1 && f.dst == .none
  | .bTmark f => f.sourcesOk 1 && f.dst == .none
  | .emul f => bRowOk 1 f
  | .halt f => f.sourcesOk 0 && f.dst == .none
  | .idle f => f.sourcesOk 0 && f.dst == .none
  | .sysrdt f => f.sourcesOk 2 && f.dst.needG
  | .mNop | .mMov .. | .mAdd .. | .mAddImm .. | .mSub .. | .mSubImm .. | .mLi .. | .mBz .. | .mBnz .. | .mJmp ..
  | .mLoop .. | .mWait .. | .mSig .. | .pgnext .. | .pgload .. | .score | .bmax | .rescale | .expp | .accpv
  | .fold .. | .rubmrg .. | .fwd | .fin .. | .mHalt => true
  | .cCopy h _ dst _ _ _ eos => copyOk h dst eos
  | .cGather h .. => h.wf
  | .cScatter h .. => h.wf
  | .cFetch h _ _ _ _ pcount => h.wf && decide (1 ≤ pcount.toNat) && decide (pcount.toNat ≤ 256)
  | .cFill h .. => h.wf
  | .cRsig h .. => h.wf
  | .cVexp2 h b => h.wf && b.wf
  | .cVlog2 h b => h.wf && b.wf
  | .cVrcp h b => h.wf && b.wf
  | .cVrsqrt h b => h.wf && b.wf
  | .cAllred h _ => h.wf
  | .cAllgat h _ => h.wf
  | .cRedsc h _ => h.wf
  | .cBcast h _ => h.wf
  | .cQtok h .. => h.wf
  | .cSdet h .. => h.wf
  | .cBstep h lane auto => h.wf && (!auto || lane == 0)
  | .cNull h => h.wf
  | _ => false

end Sys2Proof
end

