-- ==== Sys2Proof/Decode.lean ====
section
/-!
DEFINITION. Bit fields, and the decoders and encoders of the four encoding spaces (spec/02_words.md and the encoding
tables of the class chapters). Every decoder is total: a word that is not an instruction decodes to a poison word (E, B
and M, R67) or to a refusal (C, R71).
-/
namespace Sys2Proof

/-! ## Bit fields -/

/-- Bits `lo + n - 1 : lo` of `w` (spec/00_scope.md R1). -/
def fld (w lo n : Nat) : Nat := (w >>> lo) % 2 ^ n

/-- Bit `i` of `w`. -/
def bitOf (w i : Nat) : Bool := fld w i 1 == 1

/-- The bit of a truth value. -/
def b2n (b : Bool) : Nat := if b then 1 else 0

/-- `w` with bits `lo + n - 1 : lo` replaced by the low `n` bits of `v`. -/
def setFld (w lo n v : Nat) : Nat := w - (fld w lo n) * 2 ^ lo + (v % 2 ^ n) * 2 ^ lo

/-- The low `n` bits of `v` read as two's complement. -/
def sextNat (v n : Nat) : Int :=
  let x := v % 2 ^ n
  if 2 * x < 2 ^ n then (x : Int) else (x : Int) - (2 ^ n : Nat)

/-- An integer as the pattern of its low `n` bits. -/
def wrapInt (v : Int) (n : Nat) : Nat := (v % ((2 ^ n : Nat) : Int)).toNat

/-- Bytes of `v`, little-endian (spec/00_scope.md R2). -/
def leBytes : Nat → Nat → List Byte
  | 0, _ => []
  | n + 1, v => BitVec.ofNat 8 v :: leBytes n (v / 256)

/-- The number whose little-endian bytes are given (spec/00_scope.md R2). -/
def leNat : List Byte → Nat
  | [] => 0
  | b :: bs => b.toNat + 256 * leNat bs

/-! ## Field codes (spec/02_words.md R54) -/

/-- Size from FL. -/
def sizeOf : Nat → Size
  | 0 => .b8
  | 1 => .b16
  | 2 => .b32
  | _ => .b64

/-- FL of a size. -/
def Size.code : Size → Nat
  | .b8 => 0
  | .b16 => 1
  | .b32 => 2
  | .b64 => 3

/-- Bytes of a size. -/
def Size.bytes : Size → Nat
  | .b8 => 1
  | .b16 => 2
  | .b32 => 4
  | .b64 => 8

/-- Bits of a size. -/
def Size.bits (s : Size) : Nat := 8 * s.bytes

/-- Rounding from FL. -/
def roundingOf : Nat → Rounding
  | 0 => .rne
  | 1 => .rz
  | 2 => .ru
  | _ => .rd

/-- FL of a rounding. -/
def Rounding.code : Rounding → Nat
  | .rne => 0
  | .rz => 1
  | .ru => 2
  | .rd => 3

/-- Float format from FM. -/
def floatFmtOf : Nat → FloatFmt
  | 0 => .f32
  | 1 => .f16
  | 2 => .b16
  | _ => .edge

/-- FM of a float format. -/
def FloatFmt.code : FloatFmt → Nat
  | .f32 => 0
  | .f16 => 1
  | .b16 => 2
  | .edge => 3

/-- Integer code of `cvti`. -/
def intFmtOf : Nat → IntFmt
  | 0 => .s32
  | 1 => .s64
  | 2 => .z32
  | _ => .z64

/-- FM of an integer code. -/
def IntFmt.code : IntFmt → Nat
  | .s32 => 0
  | .s64 => 1
  | .z32 => 2
  | .z64 => 3

/-- Order from FM. -/
def orderOf : Nat → Order
  | 0 => .plain
  | 1 => .acquire
  | 2 => .release
  | _ => .acqRel

/-- FM of an order. -/
def Order.code : Order → Nat
  | .plain => 0
  | .acquire => 1
  | .release => 2
  | .acqRel => 3

/-- Scope from MX bits 2:0; 5 to 7 are unassigned. -/
def scopeOf : Nat → Option Scope
  | 0 => some .region
  | 1 => some .tile
  | 2 => some .wall
  | 3 => some .package
  | 4 => some .arcade
  | _ => none

/-- MX bits 2:0 of a scope. -/
def Scope.code : Scope → Nat
  | .region => 0
  | .tile => 1
  | .wall => 2
  | .package => 3
  | .arcade => 4

/-- Source format from MX; 0xC to 0xF are unassigned. -/
def srcFmtOf : Nat → Option SrcFmt
  | 0 => some .f32
  | 1 => some .f16
  | 2 => some .b16
  | 3 => some .edge
  | 4 => some .s8
  | 5 => some .s16
  | 6 => some .s32
  | 7 => some .s64
  | 8 => some .z8
  | 9 => some .z16
  | 10 => some .z32
  | 11 => some .z64
  | _ => none

/-- MX of a source format. -/
def SrcFmt.code : SrcFmt → Nat
  | .f32 => 0
  | .f16 => 1
  | .b16 => 2
  | .edge => 3
  | .s8 => 4
  | .s16 => 5
  | .s32 => 6
  | .s64 => 7
  | .z8 => 8
  | .z16 => 9
  | .z32 => 10
  | .z64 => 11

/-- Prefetch level from FL; 3 is unassigned (spec/09_memory.md R219). -/
def pfLevelOf : Nat → Option PfLevel
  | 0 => some .cb
  | 1 => some .sl
  | 2 => some .xl
  | _ => none

/-- FL of a prefetch level. -/
def PfLevel.code : PfLevel → Nat
  | .cb => 0
  | .sl => 1
  | .xl => 2

/-- Invalidation kind from FL; 3 is unassigned (spec/09_memory.md R225). -/
def invKindOf : Nat → Option InvKind
  | 0 => some .dat
  | 1 => some .xl
  | 2 => some .all
  | _ => none

/-- FL of an invalidation kind. -/
def InvKind.code : InvKind → Nat
  | .dat => 0
  | .xl => 1
  | .all => 2

/-! ## The common layout of E and B words (spec/02_words.md R46) -/

/-- OP. -/
def wOp (w : Nat) : Nat := fld w 40 8
/-- FM. -/
def wFm (w : Nat) : Nat := fld w 38 2
/-- SA. -/
def wSa (w : Nat) : Nat := fld w 34 4
/-- SB. -/
def wSb (w : Nat) : Nat := fld w 30 4
/-- SC or MX. -/
def wSc (w : Nat) : Nat := fld w 26 4
/-- DK. -/
def wDk (w : Nat) : Nat := fld w 24 2
/-- DI. -/
def wDi (w : Nat) : Nat := fld w 18 6
/-- IX. -/
def wIx (w : Nat) : Nat := fld w 12 6
/-- IY. -/
def wIy (w : Nat) : Nat := fld w 6 6
/-- FL. -/
def wFl (w : Nat) : Nat := fld w 0 2
/-- The wide immediate (R55). -/
def wImm (w : Nat) : BitVec 24 := BitVec.ofNat 24 (fld w 26 12 * 4096 + fld w 6 12)

/-- The guard: PN and PI. -/
def wGuard (w : Nat) : Guard := { neg := bitOf w 5, idx := ⟨fld w 2 3, Nat.mod_lt _ (by decide)⟩ }

/-- The word with the given fields. -/
def mkWord (op fm sa sb sc dk di ix iy : Nat) (g : Guard) (fl : Nat) : Nat :=
  op * 2 ^ 40 + fm * 2 ^ 38 + sa * 2 ^ 34 + sb * 2 ^ 30 + sc * 2 ^ 26 + dk * 2 ^ 24 + di * 2 ^ 18 + ix * 2 ^ 12 + iy * 2 ^ 6 +
    b2n g.neg * 2 ^ 5 + g.idx.val * 4 + fl

/-- The word of the wide-immediate form (R55). -/
def mkWide (op dk di : Nat) (imm : BitVec 24) (g : Guard) : Nat :=
  op * 2 ^ 40 + (imm.toNat / 4096) * 2 ^ 26 + dk * 2 ^ 24 + di * 2 ^ 18 + (imm.toNat % 4096) * 2 ^ 6 + b2n g.neg * 2 ^ 5 +
    g.idx.val * 4

/-- Index fields handed out in source order (spec/02_words.md R48): the field of each select, or none where the procedure
reaches `poison`. -/
def handOut (w : Nat) : List Nat → Bool → Bool → Option (List Nat)
  | [], xf, yf => if (xf && wIx w != 0) || (yf && wIy w != 0) then none else some []
  | sel :: rest, xf, yf =>
    if sel = 3 then
      if xf && yf then (handOut w rest false false).map (fun l => (wIx w * 64 + wIy w) :: l) else none
    else if sel < 3 then
      if xf then (handOut w rest false yf).map (fun l => wIx w :: l)
      else if yf then (handOut w rest xf false).map (fun l => wIy w :: l)
      else none
    else (handOut w rest xf yf).map (fun l => 0 :: l)

/-- The two index fields of sources given by select and field value, in source order (spec/02_words.md R48). -/
def giveOut : List (Nat × Nat) → Bool → Nat × Nat
  | [], _ => (0, 0)
  | (sel, v) :: rest, xf =>
    if sel = 3 then (v / 64, v % 64)
    else if sel < 3 then
      if xf then (v, (giveOut rest false).2) else (0, v)
    else giveOut rest xf

/-! ## B-space (spec/02_words.md R57 to R59) -/

/-- A banker source from its select and field (R58). -/
def bSrcOf (sel v : Nat) : Option BSrc :=
  match sel with
  | 0 => if h : v < 32 then some (.g ⟨v, h⟩) else none
  | 1 =>
    if h : v < 3 then some (.lc ⟨v, h⟩)
    else if v = 3 then some .tlog else if v = 4 then some .wlog else if v = 5 then some .cyc else none
  | 2 => some (.imm6 (BitVec.ofNat 6 v))
  | 3 => some (.imm12 (BitVec.ofNat 12 v))
  | _ => none

/-- Select and field of a banker source. -/
def BSrc.enc : BSrc → Nat × Nat
  | .none => (0, 0)
  | .g i => (0, i.val)
  | .lc i => (1, i.val)
  | .tlog => (1, 3)
  | .wlog => (1, 4)
  | .cyc => (1, 5)
  | .imm6 v => (2, v.toNat)
  | .imm12 v => (3, v.toNat)

/-- A banker destination from DK and DI (R57). -/
def bDstOf (dk di : Nat) : Option BDst :=
  match dk with
  | 0 => if di = 0 then some .none else none
  | 1 => if h : di < 32 then some (.g ⟨di, h⟩) else none
  | 2 => if h : di < 8 then some (.f ⟨di, h⟩) else none
  | 3 => if h : di < 3 then some (.lc ⟨di, h⟩) else none
  | _ => none

/-- DK and DI of a banker destination. -/
def BDst.enc : BDst → Nat × Nat
  | .none => (0, 0)
  | .g i => (1, i.val)
  | .f i => (2, i.val)
  | .lc i => (3, i.val)

/-- The operands of a banker word that takes `n` sources; `mx` says that SC is not a select. -/
def bForm (w n : Nat) (mx : Bool) : Option BForm := do
  let sels := [wSa w, wSb w, wSc w].take n
  if (decide (n < 1) && wSa w != 0) || (decide (n < 2) && wSb w != 0) || (!mx && decide (n < 3) && wSc w != 0) then none
  else do
    let fs ← handOut w sels true true
    let dst ← bDstOf (wDk w) (wDi w)
    let src (q : Nat) : Option BSrc := if q < n then bSrcOf (sels.getD q 0) (fs.getD q 0) else some .none
    let a ← src 0
    let b ← src 1
    let c ← src 2
    some { guard := wGuard w, dst := dst, a := a, b := b, c := c }

/-- The operands of a banker word in the wide-immediate form; FM and FL must be zero (R55). -/
def bWide (w : Nat) : Option BWide := do
  if wFm w != 0 || wFl w != 0 then none
  else do
    let dst ← bDstOf (wDk w) (wDi w)
    some { guard := wGuard w, dst := dst, imm := wImm w }

/-- The integer operation of a banker opcode (spec/02_words.md R64). -/
def bAluOp : Nat → Option AluOp
  | 0x01 => some .mov | 0x02 => some .add | 0x03 => some .sub | 0x04 => some .neg | 0x05 => some .abs
  | 0x06 => some .mul | 0x07 => some .mulh | 0x08 => some .mad | 0x09 => some .min | 0x0A => some .max
  | 0x0B => some .div | 0x0C => some .rem | 0x0D => some .clamp
  | 0x10 => some .and | 0x11 => some .or | 0x12 => some .xor | 0x13 => some .andn | 0x14 => some .not
  | 0x15 => some .shl | 0x16 => some .shr | 0x17 => some .sar | 0x18 => some .rol
  | 0x19 => some .cmpeq | 0x1A => some .cmpne | 0x1B => some .cmplt | 0x1C => some .cmple | 0x1D => some .sel
  | 0x1E => some .clz | 0x1F => some .popc | 0x20 => some .ctz | 0x21 => some .agen | 0x23 => some .wrap
  | 0x24 => some .sext | 0x25 => some .zext | 0x26 => some .bswap
  | _ => none

/-- The banker instruction of an integer operation. `absd`, `addsh` and `agen2` are slot operations only. -/
def bAluInstr (op : AluOp) (m : AluMods) (f : BForm) : Option Instr :=
  match op with
  | .mov => some (.bMov m f) | .add => some (.bAdd m f) | .sub => some (.bSub m f) | .neg => some (.bNeg m f)
  | .abs => some (.bAbs m f) | .mul => some (.bMul m f) | .mulh => some (.bMulh m f) | .mad => some (.bMad m f)
  | .min => some (.bMin m f) | .max => some (.bMax m f) | .clamp => some (.bClamp m f) | .and => some (.bAnd m f)
  | .or => some (.bOr m f) | .xor => some (.bXor m f) | .andn => some (.bAndn m f) | .not => some (.bNot m f)
  | .shl => some (.bShl m f) | .shr => some (.bShr m f) | .sar => some (.bSar m f) | .rol => some (.bRol m f)
  | .cmpeq => some (.bCmpeq m f) | .cmpne => some (.bCmpne m f) | .cmplt => some (.bCmplt m f)
  | .cmple => some (.bCmple m f) | .sel => some (.bSel m f) | .clz => some (.bClz m f) | .popc => some (.bPopc m f)
  | .ctz => some (.bCtz m f) | .agen => some (.bAgen m f) | .wrap => some (.bWrap m f) | .sext => some (.bSext m f)
  | .zext => some (.bZext m f) | .bswap => some (.bBswap m f) | .div => some (.div m f) | .rem => some (.rem m f)
  | .absd | .addsh | .agen2 => none

/-- Modifiers of rows 0x0 to 0x2 (spec/04_integer.md R108). -/
def aluModsOf (w : Nat) : AluMods := { sat := bitOf w 39, uns := bitOf w 38, size := sizeOf (wFl w) }

/-- Modifiers of an access word: FM order, FL size, MX unsigned and scope (spec/02_words.md R54). -/
def memModsOf (w : Nat) : Option MemMods := do
  let sc ← scopeOf (fld w 26 3)
  some { uns := bitOf w 29, size := sizeOf (wFl w), order := orderOf (wFm w), scope := sc }

/-- The read-modify-write operation of an opcode's low nibble (spec/10_ordering.md R236). -/
def atomicOpOf : Nat → Option AtomicOp
  | 0 => some .aadd | 1 => some .aand | 2 => some .aor | 3 => some .axor | 4 => some .amin | 5 => some .amax
  | 6 => some .axchg | 7 => some .acas | 8 => some .afadd | _ => none

/-- The low nibble of a read-modify-write operation. -/
def AtomicOp.code : AtomicOp → Nat
  | .aadd => 0 | .aand => 1 | .aor => 2 | .axor => 3 | .amin => 4 | .amax => 5 | .axchg => 6 | .acas => 7 | .afadd => 8

/-- The banker instruction of a read-modify-write operation. -/
def bAtomicInstr (op : AtomicOp) (m : MemMods) (f : BForm) : Instr :=
  match op with
  | .aadd => .bAadd m f | .aand => .bAand m f | .aor => .bAor m f | .axor => .bAxor m f | .amin => .bAmin m f
  | .amax => .bAmax m f | .axchg => .bAxchg m f | .acas => .bAcas m f | .afadd => .bAfadd m f

/-- Rows 0x0 to 0x2 of B-space. Of `nop`, PN (bit 5) may hold any value and every other bit of 39:0 but PI is zero (spec/04_integer.md
R116 says both that 39:5 is zero and that PN is free; log entry 151). -/
def decodeBAlu (w : Nat) : Option Instr :=
  if wOp w = 0x00 then
    if fld w 6 34 = 0 && wFl w = 0 then some (.bNop (wGuard w)) else none
  else if wOp w = 0x0E then (bWide w).map .bMovi
  else if wOp w = 0x0F then (bWide w).map .bMovhi
  else do
    let op ← bAluOp (wOp w)
    let f ← bForm w op.arity false
    bAluInstr op (aluModsOf w) f

/-- Row 0x4 of B-space (spec/07_control.md R160). -/
def decodeBControl (w : Nat) : Option Instr :=
  if wFm w != 0 || wFl w != 0 then none else
  match wOp w with
  | 0x40 => (bWide w).map .br
  | 0x41 => (bForm w 1 false).map .brr
  | 0x42 => (bWide w).map .call
  | 0x43 => (bForm w 1 false).map .callr
  | 0x44 => (bForm w 1 false).map .ret
  | 0x45 => (bForm w 2 false).map .jtab
  | 0x46 => (bForm w 2 false).map .loop
  | 0x47 => (bWide w).map .loopi
  | 0x48 => (bForm w 2 false).map .lbload
  | 0x49 => (bForm w 2 false).map .lbrun
  | _ => none

/-- Row 0x6 of B-space (spec/09_memory.md R213). -/
def decodeBMem (w : Nat) : Option Instr := do
  let m ← memModsOf w
  match wOp w with
  | 0x60 => if wFm w = 0 && fld w 26 3 = 1 then (bForm w 2 true).map (.bLd m.uns m.size) else none
  | 0x61 => if wFm w = 0 && wSc w = 1 then (bForm w 2 true).map (.bSt m.size) else none
  | 0x62 => (bForm w 2 true).map (.bLdg m)
  | 0x63 => (bForm w 2 true).map (.bStg m)
  | 0x64 => if wFm w = 0 && wSc w = 1 then do
      let lv ← pfLevelOf (wFl w)
      (bForm w 2 true).map (.bPf lv) else none
  | 0x65 => if wFm w = 0 && wFl w = 0 && wSc w = 1 then (bForm w 2 true).map .bTlook else none
  | 0x66 => if wFm w = 0 && wFl w = 0 && wSc w = 1 then (bForm w 2 true).map .bTset else none
  | 0x67 => if wFm w = 0 && wFl w = 0 && wSc w = 1 then (bForm w 1 true).map .bTclr else none
  | 0x68 => (bForm w 2 true).map (.bStmw m)
  | 0x69 => if wFm w = 0 && wFl w = 0 && !m.uns then (bForm w 2 true).map (.flush m.scope) else none
  | 0x6A => if wFm w = 0 && !m.uns then do
      let k ← invKindOf (wFl w)
      (bForm w 2 true).map (.inval k m.scope) else none
  | _ => none

/-- Row 0x7 of B-space (spec/10_ordering.md R236). -/
def decodeBSync (w : Nat) : Option Instr := do
  let m ← memModsOf w
  match wOp w with
  | 0x79 => if wFl w = 2 && !m.uns && wSa w = 0 && wSb w = 0 && wDk w = 0 && wDi w = 0 && wIx w = 0 && wIy w = 0 then
      some (.bFence m.order m.scope (wGuard w)) else none
  | 0x7A => if wFl w = 2 && !m.uns && (wFm w = 0 || wFm w = 2) then
      (bForm w 2 true).map (.bSig (wFm w == 2) m.scope) else none
  | 0x7B => if 2 ≤ wFl w && !m.uns && wFm w ≤ 1 then
      (bForm w 2 true).map (.wait (wFl w == 3) (wFm w == 1) m.scope) else none
  | 0x7C => if wFl w = 2 && wFm w = 0 && wSc w = 3 then (bForm w 1 true).map .sbar else none
  | 0x7D => if wFl w = 2 && !m.uns && (wFm w = 0 || wFm w = 2) then
      (bForm w 2 true).map (.sigr (wFm w == 2) m.scope) else none
  | op => do
    if op / 16 != 7 then none
    else do
      let a ← atomicOpOf (op % 16)
      (bForm w 2 true).map (bAtomicInstr a m)

/-- The rows whose words have FM = 0 and FL = 0 and no modifier: source count and instruction (spec/08_launch.md R185,
12 R282, 13 R311, 14 R321, 15 R354, 16 R368, 17 R388, 18 R419). `rd` reads the operand that selects among operations. -/
def bPlainRow (rd : BSrc → Nat) : Nat → Option (Nat × (BForm → Instr))
  | 0x50 => some (2, .launch) | 0x51 => some (2, .launcht) | 0x52 => some (1, .cfgload) | 0x53 => some (2, .lintel)
  | 0x54 => some (1, .compact) | 0x55 => some (1, .lqstat) | 0x56 => some (1, .lcancel) | 0x57 => some (2, .ctxpri)
  | 0x58 => some (1, .ctxevict) | 0x59 => some (2, .orphan) | 0x5A => some (1, .cfgfree) | 0x5B => some (1, .cfgstat)
  | 0x80 => some (2, .ecmd) | 0x81 => some (1, .ecpy) | 0x82 => some (1, .egath) | 0x83 => some (1, .escat)
  | 0x84 => some (1, .efetch) | 0x85 => some (1, .ecoll) | 0x86 => some (2, .esig) | 0x87 => some (1, .eexp)
  | 0x88 => some (1, .eseq) | 0x89 => some (1, .edrain)
  | 0x8A => some (2, fun f => match rd f.b % 4 with
      | 0 => .echainGo f
      | 1 => .echainStop f
      | 2 => .echainRetry f
      | _ => .echainSkip f)
  | 0x8B => some (1, .estat)
  | 0x90 => some (2, .qform) | 0x91 => some (1, .qinj) | 0x92 => some (2, .shset) | 0x93 => some (2, .shget)
  | 0x94 => some (1, .kvalloc) | 0x95 => some (1, .kvfree) | 0x96 => some (1, .kvref) | 0x97 => some (1, .kvpin)
  | 0x98 => some (1, .kvunpin) | 0x99 => some (1, .kvwr) | 0x9A => some (2, .kvcommit)
  | 0x9B => some (2, fun f => match fld (rd f.a) 8 2 with
      | 1 => .ringstWrite f
      | 2 => .ringstClear f
      | _ => .ringstRead f)
  | 0xA0 => some (2, .asld) | 0xA1 => some (2, .asgo)
  | 0xA2 => some (1, fun f => match rd f.a % 4 with
      | 1 => .asstatClear f
      | 2 => .asstatStop f
      | _ => .asstatRead f)
  | 0xB0 => some (2, .rqrd) | 0xB1 => some (2, .rqwr) | 0xB2 => some (2, .rqfault)
  | 0xB3 => some (2, fun f => match rd f.b % 4 with
      | 1 => .rqstateCancel f
      | 2 => .rqstateFaults f
      | _ => .rqstateRead f)
  | 0xB4 => some (2, .mfget) | 0xB5 => some (1, .mfnext) | 0xB6 => some (1, .mfcnt) | 0xB7 => some (1, .rqspill)
  | 0xB8 => some (1, .rqrecall) | 0xB9 => some (2, .rqadmit)
  | 0xC0 => some (1, .sacpt) | 0xC1 => some (1, .scommit) | 0xC2 => some (2, .rngblk)
  | 0xD0 => some (2, fun f => match rd f.b % 4 with
      | 1 => .vocldUnload f
      | _ => .vocldLoad f)
  | 0xD1 => some (1, .qrgo) | 0xD2 => some (1, .qrstat) | 0xD3 => some (1, .qrstop) | 0xD4 => some (1, .stgo)
  | 0xD5 => some (1, .ststat) | 0xD6 => some (1, .stclose)
  | 0xF0 => some (1, .sysrd) | 0xF1 => some (2, .syswr) | 0xF2 => some (1, .trap) | 0xF3 => some (0, .rfe)
  | 0xF4 => some (0, .bBrk) | 0xF5 => some (1, .bcinv) | 0xF6 => some (1, .bTrig) | 0xF7 => some (1, .bTmark)
  | 0xF8 => some (1, .emul) | 0xF9 => some (0, .halt) | 0xFA => some (0, .idle) | 0xFB => some (2, .sysrdt)
  | _ => none

/-- The rows 0x5, 0x8 to 0xD and 0xF of B-space. -/
def decodeBPlain (rd : BSrc → Nat) (w : Nat) : Option Instr := do
  let (n, mk) ← bPlainRow rd (wOp w)
  if wFm w != 0 || wFl w != 0 then none
  else (bForm w n false).map mk

/-- The instruction of a banker word (64 bits as fetched), before the conditions of the class chapter. -/
def decodeBRaw (rd : BSrc → Nat) (w : Nat) : Option Instr :=
  if w / 2 ^ 48 != 0 then none
  else match wOp w / 16 with
    | 0 | 1 | 2 => decodeBAlu w
    | 4 => decodeBControl w
    | 6 => decodeBMem w
    | 7 => decodeBSync w
    | _ => decodeBPlain rd w

/-- The banker's decoder: a word that is not a well-formed instruction is a poison word (spec/02_words.md R67, R68). -/
def decodeB (rd : BSrc → Nat) (w : Nat) : Instr :=
  match decodeBRaw rd w with
  | some i => if WellFormed i then i else .bPoisonWord (BitVec.ofNat 64 w)
  | none => .bPoisonWord (BitVec.ofNat 64 w)

/-! ### The B-space encoder -/

/-- The word of a form with opcode `op`, modifiers `fm` and `fl`, and SC replaced by `mx` where given. -/
def encBForm (op fm fl : Nat) (mx : Option Nat) (f : BForm) : Nat :=
  let srcs := match mx with
    | some _ => [f.a, f.b]
    | none => [f.a, f.b, f.c]
  let used := (srcs.filter (· != .none)).map BSrc.enc
  let (ix, iy) := giveOut used true
  mkWord op fm f.a.enc.1 f.b.enc.1 (mx.getD f.c.enc.1) f.dst.enc.1 f.dst.enc.2 ix iy f.guard fl

/-- The word of an integer instruction. -/
def encBAlu (op : Nat) (m : AluMods) (f : BForm) : Nat :=
  encBForm op (b2n m.sat * 2 + b2n m.uns) m.size.code none f

/-- The word of an access with MX. -/
def encBMem (op : Nat) (m : MemMods) (f : BForm) : Nat :=
  encBForm op m.order.code m.size.code (some (b2n m.uns * 8 + m.scope.code)) f

/-- The word of a wide-immediate instruction. -/
def encBWide (op : Nat) (w : BWide) : Nat := mkWide op w.dst.enc.1 w.dst.enc.2 w.imm w.guard

/-- The word of a banker instruction (spec/02_words.md R57, R64 and the class chapters). -/
def encodeB : Instr → Option Nat
  | .bPoisonWord w => some w.toNat
  | .bNop g => some (mkWord 0 0 0 0 0 0 0 0 0 g 0)
  | .bMov m f => some (encBAlu 0x01 m f) | .bAdd m f => some (encBAlu 0x02 m f) | .bSub m f => some (encBAlu 0x03 m f)
  | .bNeg m f => some (encBAlu 0x04 m f) | .bAbs m f => some (encBAlu 0x05 m f) | .bMul m f => some (encBAlu 0x06 m f)
  | .bMulh m f => some (encBAlu 0x07 m f) | .bMad m f => some (encBAlu 0x08 m f) | .bMin m f => some (encBAlu 0x09 m f)
  | .bMax m f => some (encBAlu 0x0A m f) | .div m f => some (encBAlu 0x0B m f) | .rem m f => some (encBAlu 0x0C m f)
  | .bClamp m f => some (encBAlu 0x0D m f) | .bMovi w => some (encBWide 0x0E w) | .bMovhi w => some (encBWide 0x0F w)
  | .bAnd m f => some (encBAlu 0x10 m f) | .bOr m f => some (encBAlu 0x11 m f) | .bXor m f => some (encBAlu 0x12 m f)
  | .bAndn m f => some (encBAlu 0x13 m f) | .bNot m f => some (encBAlu 0x14 m f) | .bShl m f => some (encBAlu 0x15 m f)
  | .bShr m f => some (encBAlu 0x16 m f) | .bSar m f => some (encBAlu 0x17 m f) | .bRol m f => some (encBAlu 0x18 m f)
  | .bCmpeq m f => some (encBAlu 0x19 m f) | .bCmpne m f => some (encBAlu 0x1A m f)
  | .bCmplt m f => some (encBAlu 0x1B m f) | .bCmple m f => some (encBAlu 0x1C m f) | .bSel m f => some (encBAlu 0x1D m f)
  | .bClz m f => some (encBAlu 0x1E m f) | .bPopc m f => some (encBAlu 0x1F m f) | .bCtz m f => some (encBAlu 0x20 m f)
  | .bAgen m f => some (encBAlu 0x21 m f) | .bWrap m f => some (encBAlu 0x23 m f) | .bSext m f => some (encBAlu 0x24 m f)
  | .bZext m f => some (encBAlu 0x25 m f) | .bBswap m f => some (encBAlu 0x26 m f)
  | .br w => some (encBWide 0x40 w) | .brr f => some (encBForm 0x41 0 0 none f) | .call w => some (encBWide 0x42 w)
  | .callr f => some (encBForm 0x43 0 0 none f) | .ret f => some (encBForm 0x44 0 0 none f)
  | .jtab f => some (encBForm 0x45 0 0 none f) | .loop f => some (encBForm 0x46 0 0 none f)
  | .loopi w => some (encBWide 0x47 w) | .lbload f => some (encBForm 0x48 0 0 none f)
  | .lbrun f => some (encBForm 0x49 0 0 none f)
  | .launch f => some (encBForm 0x50 0 0 none f) | .launcht f => some (encBForm 0x51 0 0 none f)
  | .cfgload f => some (encBForm 0x52 0 0 none f) | .lintel f => some (encBForm 0x53 0 0 none f)
  | .compact f => some (encBForm 0x54 0 0 none f) | .lqstat f => some (encBForm 0x55 0 0 none f)
  | .lcancel f => some (encBForm 0x56 0 0 none f) | .ctxpri f => some (encBForm 0x57 0 0 none f)
  | .ctxevict f => some (encBForm 0x58 0 0 none f) | .orphan f => some (encBForm 0x59 0 0 none f)
  | .cfgfree f => some (encBForm 0x5A 0 0 none f) | .cfgstat f => some (encBForm 0x5B 0 0 none f)
  | .bLd u sz f => some (encBMem 0x60 ⟨u, sz, .plain, .tile⟩ f) | .bSt sz f => some (encBMem 0x61 ⟨false, sz, .plain, .tile⟩ f)
  | .bLdg m f => some (encBMem 0x62 m f) | .bStg m f => some (encBMem 0x63 m f)
  | .bPf lv f => some (encBForm 0x64 0 lv.code (some 1) f) | .bTlook f => some (encBForm 0x65 0 0 (some 1) f)
  | .bTset f => some (encBForm 0x66 0 0 (some 1) f) | .bTclr f => some (encBForm 0x67 0 0 (some 1) f)
  | .bStmw m f => some (encBMem 0x68 m f) | .flush sc f => some (encBForm 0x69 0 0 (some sc.code) f)
  | .inval k sc f => some (encBForm 0x6A 0 k.code (some sc.code) f)
  | .bAadd m f => some (encBMem 0x70 m f) | .bAand m f => some (encBMem 0x71 m f) | .bAor m f => some (encBMem 0x72 m f)
  | .bAxor m f => some (encBMem 0x73 m f) | .bAmin m f => some (encBMem 0x74 m f) | .bAmax m f => some (encBMem 0x75 m f)
  | .bAxchg m f => some (encBMem 0x76 m f) | .bAcas m f => some (encBMem 0x77 m f) | .bAfadd m f => some (encBMem 0x78 m f)
  | .bFence o sc g => some (mkWord 0x79 o.code 0 0 sc.code 0 0 0 0 g 2)
  | .bSig rel sc f => some (encBForm 0x7A (b2n rel * 2) 2 (some sc.code) f)
  | .wait take acq sc f => some (encBForm 0x7B (b2n acq) (2 + b2n take) (some sc.code) f)
  | .sbar f => some (encBForm 0x7C 0 2 (some 3) f)
  | .sigr rel sc f => some (encBForm 0x7D (b2n rel * 2) 2 (some sc.code) f)
  | .ecmd f => some (encBForm 0x80 0 0 none f) | .ecpy f => some (encBForm 0x81 0 0 none f)
  | .egath f => some (encBForm 0x82 0 0 none f) | .escat f => some (encBForm 0x83 0 0 none f)
  | .efetch f => some (encBForm 0x84 0 0 none f) | .ecoll f => some (encBForm 0x85 0 0 none f)
  | .esig f => some (encBForm 0x86 0 0 none f) | .eexp f => some (encBForm 0x87 0 0 none f)
  | .eseq f => some (encBForm 0x88 0 0 none f) | .edrain f => some (encBForm 0x89 0 0 none f)
  | .echainGo f => some (encBForm 0x8A 0 0 none f) | .echainStop f => some (encBForm 0x8A 0 0 none f)
  | .echainRetry f => some (encBForm 0x8A 0 0 none f) | .echainSkip f => some (encBForm 0x8A 0 0 none f)
  | .estat f => some (encBForm 0x8B 0 0 none f)
  | .qform f => some (encBForm 0x90 0 0 none f) | .qinj f => some (encBForm 0x91 0 0 none f)
  | .shset f => some (encBForm 0x92 0 0 none f) | .shget f => some (encBForm 0x93 0 0 none f)
  | .kvalloc f => some (encBForm 0x94 0 0 none f) | .kvfree f => some (encBForm 0x95 0 0 none f)
  | .kvref f => some (encBForm 0x96 0 0 none f) | .kvpin f => some (encBForm 0x97 0 0 none f)
  | .kvunpin f => some (encBForm 0x98 0 0 none f) | .kvwr f => some (encBForm 0x99 0 0 none f)
  | .kvcommit f => some (encBForm 0x9A 0 0 none f) | .ringstRead f => some (encBForm 0x9B 0 0 none f)
  | .ringstWrite f => some (encBForm 0x9B 0 0 none f) | .ringstClear f => some (encBForm 0x9B 0 0 none f)
  | .asld f => some (encBForm 0xA0 0 0 none f) | .asgo f => some (encBForm 0xA1 0 0 none f)
  | .asstatRead f => some (encBForm 0xA2 0 0 none f) | .asstatClear f => some (encBForm 0xA2 0 0 none f)
  | .asstatStop f => some (encBForm 0xA2 0 0 none f)
  | .rqrd f => some (encBForm 0xB0 0 0 none f) | .rqwr f => some (encBForm 0xB1 0 0 none f)
  | .rqfault f => some (encBForm 0xB2 0 0 none f) | .rqstateRead f => some (encBForm 0xB3 0 0 none f)
  | .rqstateCancel f => some (encBForm 0xB3 0 0 none f) | .rqstateFaults f => some (encBForm 0xB3 0 0 none f)
  | .mfget f => some (encBForm 0xB4 0 0 none f) | .mfnext f => some (encBForm 0xB5 0 0 none f)
  | .mfcnt f => some (encBForm 0xB6 0 0 none f) | .rqspill f => some (encBForm 0xB7 0 0 none f)
  | .rqrecall f => some (encBForm 0xB8 0 0 none f) | .rqadmit f => some (encBForm 0xB9 0 0 none f)
  | .sacpt f => some (encBForm 0xC0 0 0 none f) | .scommit f => some (encBForm 0xC1 0 0 none f)
  | .rngblk f => some (encBForm 0xC2 0 0 none f)
  | .vocldLoad f => some (encBForm 0xD0 0 0 none f) | .vocldUnload f => some (encBForm 0xD0 0 0 none f)
  | .qrgo f => some (encBForm 0xD1 0 0 none f) | .qrstat f => some (encBForm 0xD2 0 0 none f)
  | .qrstop f => some (encBForm 0xD3 0 0 none f) | .stgo f => some (encBForm 0xD4 0 0 none f)
  | .ststat f => some (encBForm 0xD5 0 0 none f) | .stclose f => some (encBForm 0xD6 0 0 none f)
  | .sysrd f => some (encBForm 0xF0 0 0 none f) | .syswr f => some (encBForm 0xF1 0 0 none f)
  | .trap f => some (encBForm 0xF2 0 0 none f) | .rfe f => some (encBForm 0xF3 0 0 none f)
  | .bBrk f => some (encBForm 0xF4 0 0 none f) | .bcinv f => some (encBForm 0xF5 0 0 none f)
  | .bTrig f => some (encBForm 0xF6 0 0 none f) | .bTmark f => some (encBForm 0xF7 0 0 none f)
  | .emul f => some (encBForm 0xF8 0 0 none f) | .halt f => some (encBForm 0xF9 0 0 none f)
  | .idle f => some (encBForm 0xFA 0 0 none f) | .sysrdt f => some (encBForm 0xFB 0 0 none f)
  | _ => none

/-! ## E-space (spec/02_words.md R46 to R56) -/

/-- A slot source from its select and field (R47, R49). -/
def eSrcOf (sel v : Nat) : Option ESrc :=
  match sel with
  | 0 => if h : v < 64 then some (.k ⟨v, h⟩) else none
  | 1 =>
    if h : v < 16 then some (.s ⟨v, h⟩)
    else match v with
      | 16 => some .it
      | 17 => some .cpn
      | 18 => some .cexy
      | 19 => some .tlog
      | _ => none
  | 2 => some (.imm6 (BitVec.ofNat 6 v))
  | 3 => some (.imm12 (BitVec.ofNat 12 v))
  | 4 => some (.nb .n)
  | 5 => some (.nb .s)
  | 6 => some (.nb .e)
  | 7 => some (.nb .w)
  | n => if h : n - 8 < 8 then some (.ch ⟨n - 8, h⟩) else none

/-- Select and field of a slot source. -/
def ESrc.enc : ESrc → Nat × Nat
  | .none => (0, 0)
  | .k i => (0, i.val)
  | .s i => (1, i.val)
  | .it => (1, 16)
  | .cpn => (1, 17)
  | .cexy => (1, 18)
  | .tlog => (1, 19)
  | .imm6 v => (2, v.toNat)
  | .imm12 v => (3, v.toNat)
  | .nb .n => (4, 0)
  | .nb .s => (5, 0)
  | .nb .e => (6, 0)
  | .nb .w => (7, 0)
  | .ch i => (8 + i.val, 0)

/-- A slot destination from DK and DI (R52). -/
def eDstOf (dk di : Nat) : Option EDst :=
  match dk with
  | 0 => if di = 0 then some .result else none
  | 1 => if h : di < 64 then some (.k ⟨di, h⟩) else none
  | 2 =>
    if h : di < 16 then some (.s ⟨di, h⟩)
    else if h : di - 32 < 8 ∧ 32 ≤ di then some (.p ⟨di - 32, h.1⟩) else none
  | 3 => if h : di < 8 then some (.ch ⟨di, h⟩) else none
  | _ => none

/-- DK and DI of a slot destination. -/
def EDst.enc : EDst → Nat × Nat
  | .result => (0, 0)
  | .k i => (1, i.val)
  | .s i => (2, i.val)
  | .p i => (2, 32 + i.val)
  | .ch i => (3, i.val)

/-- The operands of a slot word that takes `n` sources; `mx` says that SC is not a select. -/
def eForm (w n : Nat) (mx : Bool) : Option EForm := do
  let sels := [wSa w, wSb w, wSc w].take n
  if (decide (n < 1) && wSa w != 0) || (decide (n < 2) && wSb w != 0) || (!mx && decide (n < 3) && wSc w != 0) then none
  else do
    let fs ← handOut w sels true true
    let dst ← eDstOf (wDk w) (wDi w)
    let src (q : Nat) : Option ESrc := if q < n then eSrcOf (sels.getD q 0) (fs.getD q 0) else some .none
    let a ← src 0
    let b ← src 1
    let c ← src 2
    some { guard := wGuard w, dst := dst, a := a, b := b, c := c }

/-- The integer operation of a slot opcode (spec/02_words.md R63). -/
def eAluOp : Nat → Option AluOp
  | 0x0B => some .absd
  | 0x0C => some .addsh
  | 0x22 => some .agen2
  | op => if op = 0 then none else bAluOp op

/-- Rows 0x0 to 0x2 of E-space. -/
def decodeEAlu (w : Nat) : Option EInstr :=
  if wOp w = 0x00 then
    if fld w 6 34 = 0 && wFl w = 0 then some (.nop (wGuard w)) else none
  else if wOp w = 0x0E || wOp w = 0x0F then
    if wFm w != 0 || wFl w != 0 then none
    else do
      let d ← eDstOf (wDk w) (wDi w)
      some (if wOp w = 0x0E then .movi (wGuard w) d (wImm w) else .movhi (wGuard w) d (wImm w))
  else do
    let op ← eAluOp (wOp w)
    let f ← eForm w op.arity false
    some (.alu op (aluModsOf w) f)

/-- The float operation of an opcode (spec/02_words.md R63, row 0x3). -/
def floatOpOf : Nat → Option FloatOp
  | 0x30 => some .fadd | 0x31 => some .fsub | 0x32 => some .fmul | 0x33 => some .fma | 0x34 => some .fms
  | 0x35 => some .fnma | 0x36 => some .fmin | 0x37 => some .fmax | 0x38 => some .fabs | 0x39 => some .fneg
  | 0x3A => some .fsgn | 0x3B => some .fcmpeq | 0x3C => some .fcmplt | 0x3D => some .fcmple | 0x3E => some .fclass
  | 0x3F => some .frint | _ => none

/-- A wide float or edge code of MX: 0x0 to 0x3. -/
def mxFloat (mx : Nat) : Option FloatFmt := if mx < 4 then some (floatFmtOf mx) else none

/-- Row 0x4 of E-space (spec/05_float.md R134 to R142). -/
def decodeEConv (w : Nat) : Option EInstr :=
  let fm := wFm w
  let rm := roundingOf (wFl w)
  let mx := wSc w
  match wOp w with
  | 0x40 => do
    let sf ← srcFmtOf mx
    (eForm w 1 true).map (.cvt (floatFmtOf fm) rm sf)
  | 0x41 => do
    let sf ← mxFloat mx
    (eForm w 1 true).map (.cvti (intFmtOf fm) rm sf)
  | 0x42 => if fm != 3 then none else do
    let sf ← srcFmtOf mx
    (eForm w 2 true).map (.cvtn rm sf)
  | 0x43 => if fm != 3 || wFl w != 0 then none else do
    let sf ← srcFmtOf mx
    (eForm w 2 true).map (.cvtnf sf)
  | 0x44 => if fm != 0 || wFl w != 0 || mx != 0 then none else (eForm w 1 true).map .scext
  | 0x45 => if fm != 0 || wFl w != 0 || mx != 0 then none else (eForm w 2 true).map .npack
  | 0x46 => if mx != 3 then none else (eForm w 2 true).map (.nunpk (floatFmtOf fm) rm)
  | 0x47 => do
    let sf ← mxFloat mx
    (eForm w 1 true).map (.expfn .exp2 (floatFmtOf fm) rm sf)
  | 0x48 => do
    let sf ← mxFloat mx
    (eForm w 1 true).map (.expfn .log2 (floatFmtOf fm) rm sf)
  | 0x49 => do
    let sf ← mxFloat mx
    (eForm w 1 true).map (.expfn .rcp (floatFmtOf fm) rm sf)
  | 0x4A => do
    let sf ← mxFloat mx
    (eForm w 1 true).map (.expfn .rsqrt (floatFmtOf fm) rm sf)
  | 0x4B => do
    let sf ← mxFloat mx
    (eForm w 2 true).map (.fdiv (floatFmtOf fm) rm sf)
  | 0x4C => do
    let sf ← mxFloat mx
    (eForm w 1 true).map (.fsqrt (floatFmtOf fm) rm sf)
  | _ => none

/-- The bit operation of an opcode (spec/06_bits.md). -/
def bitOpOf : Nat → Option BitOp
  | 0x50 => some .bext | 0x51 => some .bins | 0x52 => some .brev | 0x53 => some .bperm | 0x54 => some .bdec
  | 0x55 => some .bsplit | 0x56 => some .bjoin | 0x57 => some .lut | 0x58 => some .lut2 | 0x59 => some .bsel
  | _ => none

/-- The stream operation of an opcode and its source count (spec/07_control.md R173). -/
def streamOpOf : Nat → Option (StreamOp × Nat)
  | 0x60 => some (.pop, 1) | 0x61 => some (.push, 2) | 0x62 => some (.peek, 1) | 0x63 => some (.prime, 2)
  | 0x64 => some (.steer, 2) | 0x65 => some (.merge, 3) | 0x66 => some (.void, 0) | 0x67 => some (.eos, 0)
  | 0x68 => some (.iseos, 1) | 0x69 => some (.drop, 1) | _ => none

/-- Rows 0x7 and 0x8 of E-space (spec/09_memory.md R213, spec/10_ordering.md R236). -/
def decodeEMem (w : Nat) : Option EInstr := do
  let m ← memModsOf w
  let fixed := wFm w = 0 && wSc w = 1
  match wOp w with
  | 0x70 => if wFm w = 0 && fld w 26 3 = 1 then (eForm w 2 true).map (.ld m.uns m.size) else none
  | 0x71 => if fixed then (eForm w 2 true).map (.st m.size) else none
  | 0x72 => (eForm w 2 true).map (.ldg m)
  | 0x73 => (eForm w 2 true).map (.stg m)
  | 0x74 => if fixed then do
      let lv ← pfLevelOf (wFl w)
      (eForm w 2 true).map (.pf lv) else none
  | 0x75 => if fixed && wFl w = 0 then (eForm w 2 true).map .tlook else none
  | 0x76 => if fixed && wFl w = 0 then (eForm w 2 true).map .tset else none
  | 0x77 => if fixed && wFl w = 0 then (eForm w 1 true).map .tclr else none
  | 0x78 => (eForm w 2 true).map (.stmw m)
  | 0x89 => if wFl w = 2 && !m.uns && wSa w = 0 && wSb w = 0 && wDk w = 0 && wDi w = 0 && wIx w = 0 && wIy w = 0 then
      some (.fence m.order m.scope (wGuard w)) else none
  | 0x8A => if wFl w = 2 && !m.uns && (wFm w = 0 || wFm w = 2) then
      (eForm w 2 true).map (.sig (wFm w == 2) m.scope) else none
  | op => if op / 16 != 8 then none else do
      let a ← atomicOpOf (op % 16)
      (eForm w 2 true).map (.atomic a m)

/-- Row 0x9 of E-space (spec/11_systolic.md R263). -/
def decodeECell (w : Nat) : Option EInstr :=
  let fl0 := wFl w = 0
  let fm0 := wFm w = 0
  let f (n : Nat) (op : CellOp) : Option EInstr := (eForm w n false).map (.cell op)
  match wOp w with
  | 0x90 => if fm0 && fl0 then f 2 .sfeed else none
  | 0x91 => if fl0 then f 3 (.sfeedw (floatFmtOf (wFm w))) else none
  | 0x92 => if fm0 && fl0 then f 1 .sacc else none
  | 0x93 => if fm0 then f 2 (.sdrain (bitOf w 1) (bitOf w 0)) else none
  | 0x94 => if fm0 && fl0 then f 2 .sclr else none
  | 0x95 => if fm0 && fl0 then f 2 .scfg else none
  | 0x96 => if fm0 && fl0 then f 2 .sload else none
  | 0x97 => if fm0 && fl0 then f 3 .scmpx else none
  | 0x98 => if fm0 && fl0 then f 2 .skey else none
  | 0x99 => if fm0 && fl0 then f 2 .sidx else none
  | _ => none

/-- Row 0xA of E-space (spec/16_sampling.md R362). -/
def decodeESample (w : Nat) : Option EInstr :=
  if wFm w != 0 then none else
  let f (n : Nat) (op : SampleOp) : Option EInstr := (eForm w n false).map (.sample op)
  match wOp w with
  | 0xA4 => if wFl w = 0 then f 2 (.slse false) else if wFl w = 1 then f 2 (.slse true) else none
  | op => if wFl w != 0 then none else
    match op with
    | 0xA0 => f 2 .rngu
    | 0xA1 => f 2 .gumb
    | 0xA2 => f 2 .smax
    | 0xA3 => f 2 .stopk
    | 0xA5 => f 3 .swin
    | _ => none

/-- Row 0xF of E-space (spec/18_system.md R420). -/
def decodeEDebug (w : Nat) : Option EInstr :=
  if wFm w != 0 || wFl w != 0 then none else
  match wOp w with
  | 0xF0 => do
    let f ← eForm w 0 false
    if f.dst == .result then some (.brk f.guard) else none
  | 0xF1 => (eForm w 1 false).map .trig
  | 0xF2 => (eForm w 1 false).map .tmark
  | _ => none

/-- The slot instruction of a word, before the conditions of the class chapter. -/
def decodeERaw (w : Nat) : Option EInstr :=
  match wOp w / 16 with
  | 0 | 1 | 2 => decodeEAlu w
  | 3 => do
    let op ← floatOpOf (wOp w)
    let f ← eForm w op.arity false
    some (.float op (floatFmtOf (wFm w)) (roundingOf (wFl w)) f)
  | 4 => decodeEConv w
  | 5 => do
    let op ← bitOpOf (wOp w)
    if wFm w != 0 then none
    else (eForm w op.arity false).map (.bits op (sizeOf (wFl w)))
  | 6 => do
    let (op, n) ← streamOpOf (wOp w)
    if wFm w != 0 || wFl w != 0 then none
    else (eForm w n false).map (.stream op)
  | 7 | 8 => decodeEMem w
  | 9 => decodeECell w
  | 10 => decodeESample w
  | 15 => decodeEDebug w
  | _ => none

/-- The slot decoder: none is a poison word (spec/02_words.md R67). -/
def decodeE (w : Nat) : Option EInstr :=
  match decodeERaw w with
  | some i => if i.wf then some i else none
  | none => none

/-- The legal destination a slot poison word writes beside the result register (spec/02_words.md R68). -/
def poisonDstE (w : Nat) : EDst := (eDstOf (wDk w) (wDi w)).getD .result

/-! ### The E-space encoder -/

/-- The word of a slot form. -/
def encEForm (op fm fl : Nat) (mx : Option Nat) (f : EForm) : Nat :=
  let srcs := match mx with
    | some _ => [f.a, f.b]
    | none => [f.a, f.b, f.c]
  let used := (srcs.filter (· != .none)).map ESrc.enc
  let (ix, iy) := giveOut used true
  mkWord op fm f.a.enc.1 f.b.enc.1 (mx.getD f.c.enc.1) f.dst.enc.1 f.dst.enc.2 ix iy f.guard fl

/-- The opcode of an integer slot. -/
def AluOp.eCode : AluOp → Nat
  | .mov => 0x01 | .add => 0x02 | .sub => 0x03 | .neg => 0x04 | .abs => 0x05 | .mul => 0x06 | .mulh => 0x07 | .mad => 0x08
  | .min => 0x09 | .max => 0x0A | .absd => 0x0B | .addsh => 0x0C | .clamp => 0x0D | .and => 0x10 | .or => 0x11
  | .xor => 0x12 | .andn => 0x13 | .not => 0x14 | .shl => 0x15 | .shr => 0x16 | .sar => 0x17 | .rol => 0x18
  | .cmpeq => 0x19 | .cmpne => 0x1A | .cmplt => 0x1B | .cmple => 0x1C | .sel => 0x1D | .clz => 0x1E | .popc => 0x1F
  | .ctz => 0x20 | .agen => 0x21 | .agen2 => 0x22 | .wrap => 0x23 | .sext => 0x24 | .zext => 0x25 | .bswap => 0x26
  | .div => 0x0B | .rem => 0x0C

/-- The opcode of a float slot. -/
def FloatOp.eCode : FloatOp → Nat
  | .fadd => 0x30 | .fsub => 0x31 | .fmul => 0x32 | .fma => 0x33 | .fms => 0x34 | .fnma => 0x35 | .fmin => 0x36
  | .fmax => 0x37 | .fabs => 0x38 | .fneg => 0x39 | .fsgn => 0x3A | .fcmpeq => 0x3B | .fcmplt => 0x3C | .fcmple => 0x3D
  | .fclass => 0x3E | .frint => 0x3F

/-- The opcode of an exponent-engine slot. -/
def ExpFn.eCode : ExpFn → Nat
  | .exp2 => 0x47 | .log2 => 0x48 | .rcp => 0x49 | .rsqrt => 0x4A

/-- The opcode of a bit slot. -/
def BitOp.eCode : BitOp → Nat
  | .bext => 0x50 | .bins => 0x51 | .brev => 0x52 | .bperm => 0x53 | .bdec => 0x54 | .bsplit => 0x55 | .bjoin => 0x56
  | .lut => 0x57 | .lut2 => 0x58 | .bsel => 0x59

/-- The opcode of a stream slot. -/
def StreamOp.eCode : StreamOp → Nat
  | .pop => 0x60 | .push => 0x61 | .peek => 0x62 | .prime => 0x63 | .steer => 0x64 | .merge => 0x65 | .void => 0x66
  | .eos => 0x67 | .iseos => 0x68 | .drop => 0x69

/-- The word of a slot access with MX. -/
def encEMem (op : Nat) (m : MemMods) (f : EForm) : Nat :=
  encEForm op m.order.code m.size.code (some (b2n m.uns * 8 + m.scope.code)) f

/-- The word of a block-cell slot. -/
def encECell (op : CellOp) (f : EForm) : Nat :=
  match op with
  | .sfeed => encEForm 0x90 0 0 none f
  | .sfeedw fm => encEForm 0x91 fm.code 0 none f
  | .sacc => encEForm 0x92 0 0 none f
  | .sdrain pair clr => encEForm 0x93 0 (b2n pair * 2 + b2n clr) none f
  | .sclr => encEForm 0x94 0 0 none f
  | .scfg => encEForm 0x95 0 0 none f
  | .sload => encEForm 0x96 0 0 none f
  | .scmpx => encEForm 0x97 0 0 none f
  | .skey => encEForm 0x98 0 0 none f
  | .sidx => encEForm 0x99 0 0 none f

/-- The word of a sampling slot. -/
def encESample (op : SampleOp) (f : EForm) : Nat :=
  match op with
  | .rngu => encEForm 0xA0 0 0 none f
  | .gumb => encEForm 0xA1 0 0 none f
  | .smax => encEForm 0xA2 0 0 none f
  | .stopk => encEForm 0xA3 0 0 none f
  | .slse merge => encEForm 0xA4 0 (b2n merge) none f
  | .swin => encEForm 0xA5 0 0 none f

/-- A form with no sources and the result register as destination. -/
def bareForm (g : Guard) : EForm := { guard := g, dst := .result, a := .none, b := .none, c := .none }

/-- The word of a slot instruction (spec/02_words.md R46, R63 and the class chapters). -/
def encodeE : EInstr → Nat
  | .nop g => mkWord 0 0 0 0 0 0 0 0 0 g 0
  | .alu op m f => encEForm op.eCode (b2n m.sat * 2 + b2n m.uns) m.size.code none f
  | .movi g d imm => mkWide 0x0E d.enc.1 d.enc.2 imm g
  | .movhi g d imm => mkWide 0x0F d.enc.1 d.enc.2 imm g
  | .float op fm rm f => encEForm op.eCode fm.code rm.code none f
  | .cvt d rm sf f => encEForm 0x40 d.code rm.code (some sf.code) f
  | .cvti d rm sf f => encEForm 0x41 d.code rm.code (some sf.code) f
  | .cvtn rm sf f => encEForm 0x42 3 rm.code (some sf.code) f
  | .cvtnf sf f => encEForm 0x43 3 0 (some sf.code) f
  | .scext f => encEForm 0x44 0 0 (some 0) f
  | .npack f => encEForm 0x45 0 0 (some 0) f
  | .nunpk d rm f => encEForm 0x46 d.code rm.code (some 3) f
  | .expfn fn d rm sf f => encEForm fn.eCode d.code rm.code (some sf.code) f
  | .fdiv d rm sf f => encEForm 0x4B d.code rm.code (some sf.code) f
  | .fsqrt d rm sf f => encEForm 0x4C d.code rm.code (some sf.code) f
  | .bits op sz f => encEForm op.eCode 0 sz.code none f
  | .stream op f => encEForm op.eCode 0 0 none f
  | .ld u sz f => encEMem 0x70 ⟨u, sz, .plain, .tile⟩ f
  | .st sz f => encEMem 0x71 ⟨false, sz, .plain, .tile⟩ f
  | .ldg m f => encEMem 0x72 m f
  | .stg m f => encEMem 0x73 m f
  | .pf lv f => encEForm 0x74 0 lv.code (some 1) f
  | .tlook f => encEForm 0x75 0 0 (some 1) f
  | .tset f => encEForm 0x76 0 0 (some 1) f
  | .tclr f => encEForm 0x77 0 0 (some 1) f
  | .stmw m f => encEMem 0x78 m f
  | .atomic op m f => encEMem (0x80 + op.code) m f
  | .fence o sc g => encEForm 0x89 o.code 2 (some sc.code) (bareForm g)
  | .sig rel sc f => encEForm 0x8A (b2n rel * 2) 2 (some sc.code) f
  | .cell op f => encECell op f
  | .sample op f => encESample op f
  | .brk g => encEForm 0xF0 0 0 none (bareForm g)
  | .trig f => encEForm 0xF1 0 0 none f
  | .tmark f => encEForm 0xF2 0 0 none f

/-! ## M-space (spec/02_words.md R60, spec/14_attention.md R325) -/

/-- Register field of a microword. -/
def mReg (w lo : Nat) : Fin 16 := ⟨fld w lo 4, Nat.mod_lt _ (by decide)⟩

/-- The microword with the given fields (R60). -/
def mkMicro (op d a b x n : Nat) : Nat := op * 2 ^ 26 + d * 2 ^ 22 + a * 2 ^ 18 + b * 2 ^ 14 + x * 2 ^ 10 + n

/-- The microword of a 32-bit word whose fields are as its opcode requires; none is a poison word. -/
def decodeMRaw (w : Nat) : Option Instr :=
  let d := mReg w 22
  let a := mReg w 18
  let b := mReg w 14
  let dz := fld w 22 4 = 0
  let az := fld w 18 4 = 0
  let bz := fld w 14 4 = 0
  let x := fld w 10 4
  let n := fld w 0 10
  match fld w 26 6 with
  | 0x00 => if dz && az && bz && x = 0 && n = 0 then some .mNop else none
  | 0x01 => if bz && x = 0 && n = 0 then some (.mMov d a) else none
  | 0x02 =>
    if x = 0 && n = 0 then some (.mAdd d a b)
    else if x = 1 && bz then some (.mAddImm d a (BitVec.ofNat 10 n)) else none
  | 0x03 =>
    if x = 0 && n = 0 then some (.mSub d a b)
    else if x = 1 && bz then some (.mSubImm d a (BitVec.ofNat 10 n)) else none
  | 0x04 => some (.mLi d (BitVec.ofNat 22 (fld w 0 22)))
  | 0x05 => if dz && bz && x = 0 then some (.mBz a (BitVec.ofNat 10 n)) else none
  | 0x06 => if dz && bz && x = 0 then some (.mBnz a (BitVec.ofNat 10 n)) else none
  | 0x07 => if dz && az && bz && x = 0 then some (.mJmp (BitVec.ofNat 10 n)) else none
  | 0x08 => if az && bz && x = 0 then some (.mLoop d (BitVec.ofNat 10 n)) else none
  | 0x09 => if bz && x < 2 && n < 256 then some (.mWait (x == 1) d a (BitVec.ofNat 8 n)) else none
  | 0x0A => if dz && bz && x = 0 && n < 256 then some (.mSig a (BitVec.ofNat 8 n)) else none
  | 0x0B => if az && bz && x = 0 && n = 0 then some (.pgnext d) else none
  | 0x0C => if az && bz && x = 0 && n = 0 then some (.pgload d) else none
  | 0x0D => if dz && az && bz && x = 0 && n = 0 then some .score else none
  | 0x0E => if dz && az && bz && x = 0 && n = 0 then some .bmax else none
  | 0x0F => if dz && az && bz && x = 0 && n = 0 then some .rescale else none
  | 0x10 => if dz && az && bz && x = 0 && n = 0 then some .expp else none
  | 0x11 => if dz && az && bz && x = 0 && n = 0 then some .accpv else none
  | 0x12 => if bz && x = 0 && n = 0 then some (.fold d a) else none
  | 0x13 => if az && bz && x = 0 && n = 0 then some (.rubmrg d) else none
  | 0x14 => if dz && az && bz && x = 0 && n = 0 then some .fwd else none
  | 0x15 => if dz && bz && x = 0 && n = 0 then some (.fin a) else none
  | 0x16 => if dz && az && bz && x = 0 && n = 0 then some .mHalt else none
  | _ => none

/-- The sequencer's decoder: an unassigned word is a poison word (spec/02_words.md R67, R68). -/
def decodeM (w : Nat) : Instr := (decodeMRaw w).getD (.mPoisonWord (BitVec.ofNat 32 w))

/-- The word of a microword instruction. -/
def encodeM : Instr → Option Nat
  | .mPoisonWord w => some w.toNat
  | .mNop => some (mkMicro 0x00 0 0 0 0 0)
  | .mMov d a => some (mkMicro 0x01 d a 0 0 0)
  | .mAdd d a b => some (mkMicro 0x02 d a b 0 0)
  | .mAddImm d a i => some (mkMicro 0x02 d a 0 1 i.toNat)
  | .mSub d a b => some (mkMicro 0x03 d a b 0 0)
  | .mSubImm d a i => some (mkMicro 0x03 d a 0 1 i.toNat)
  | .mLi d i => some (0x04 * 2 ^ 26 + d.val * 2 ^ 22 + i.toNat)
  | .mBz a n => some (mkMicro 0x05 0 a 0 0 n.toNat)
  | .mBnz a n => some (mkMicro 0x06 0 a 0 0 n.toNat)
  | .mJmp n => some (mkMicro 0x07 0 0 0 0 n.toNat)
  | .mLoop d n => some (mkMicro 0x08 d 0 0 0 n.toNat)
  | .mWait take d a sem => some (mkMicro 0x09 d a 0 (b2n take) sem.toNat)
  | .mSig a sem => some (mkMicro 0x0A 0 a 0 0 sem.toNat)
  | .pgnext d => some (mkMicro 0x0B d 0 0 0 0)
  | .pgload d => some (mkMicro 0x0C d 0 0 0 0)
  | .score => some (mkMicro 0x0D 0 0 0 0 0)
  | .bmax => some (mkMicro 0x0E 0 0 0 0 0)
  | .rescale => some (mkMicro 0x0F 0 0 0 0 0)
  | .expp => some (mkMicro 0x10 0 0 0 0 0)
  | .accpv => some (mkMicro 0x11 0 0 0 0 0)
  | .fold d a => some (mkMicro 0x12 d a 0 0 0)
  | .rubmrg d => some (mkMicro 0x13 d 0 0 0 0)
  | .fwd => some (mkMicro 0x14 0 0 0 0 0)
  | .fin a => some (mkMicro 0x15 0 a 0 0 0)
  | .mHalt => some (mkMicro 0x16 0 0 0 0 0)
  | _ => none

/-! ## C-space (spec/02_words.md R61, R62, R66; spec/12_engines.md R286 to R294; 15 R347; 17 R387) -/

/-- Bits 63:0 of a record, from its type and head. -/
def encHead (type : Nat) (h : CHead) : Nat :=
  type + b2n h.waitEn * 2 ^ 8 + b2n h.sigEn * 2 ^ 9 + h.wsem.toNat * 2 ^ 16 + h.wthr.toNat * 2 ^ 24 + h.ssem.toNat * 2 ^ 40 +
    h.sinc.toNat * 2 ^ 48 + h.sscope.code * 2 ^ 56

/-- The body of an array command (R292). -/
def encExpBody (b : CExp) : Nat :=
  b.src.toNat * 2 ^ 64 + b.sfmt.code * 2 ^ 84 + b.dfmt.code * 2 ^ 86 + b.rm.code * 2 ^ 88 + b.dst.toNat * 2 ^ 128 +
    b.count.toNat * 2 ^ 192

/-- The code of a collective operation. -/
def CollOp.code : CollOp → Nat
  | .f32add => 0 | .f32max => 1 | .f32min => 2 | .s32add => 3 | .z32max => 4 | .s64add => 5

/-- A collective operation from its code; 6 and 7 are unassigned. -/
def collOpOf : Nat → Option CollOp
  | 0 => some .f32add | 1 => some .f32max | 2 => some .f32min | 3 => some .s32add | 4 => some .z32max | 5 => some .s64add
  | _ => none

/-- The body of a collective command (R294). -/
def encCollBody (b : CColl) : Nat :=
  b.src.toNat * 2 ^ 64 + b.dst.toNat * 2 ^ 128 + b.count.toNat * 2 ^ 192 + b.gid.toNat * 2 ^ 224 + b.rank.toNat * 2 ^ 232 +
    b.op.code * 2 ^ 248

/-- The 256-bit record of a command. -/
def encodeC : Instr → Option Nat
  | .cCopy h src dst dpkg desc xpkg eos => some (encHead 0x00 h + src.toNat * 2 ^ 64 + dst.toNat * 2 ^ 128 +
      dpkg.toNat * 2 ^ 184 + desc.toNat * 2 ^ 192 + b2n xpkg * 2 ^ 212 + b2n eos * 2 ^ 213)
  | .cGather h src dst dpkg idx count esz => some (encHead 0x01 h + src.toNat * 2 ^ 64 + dst.toNat * 2 ^ 128 +
      dpkg.toNat * 2 ^ 184 + idx.toNat * 2 ^ 192 + count.toNat * 2 ^ 214 + esz.toNat * 2 ^ 228)
  | .cScatter h src dst dpkg idx xpkg count esz => some (encHead 0x02 h + src.toNat * 2 ^ 64 + dst.toNat * 2 ^ 128 +
      dpkg.toNat * 2 ^ 184 + idx.toNat * 2 ^ 192 + b2n xpkg * 2 ^ 212 + count.toNat * 2 ^ 214 + esz.toNat * 2 ^ 228)
  | .cFetch h man dst nent pbase pcount => some (encHead 0x03 h + man.toNat * 2 ^ 64 + dst.toNat * 2 ^ 128 +
      nent.toNat * 2 ^ 192 + pbase.toNat * 2 ^ 208 + pcount.toNat * 2 ^ 216)
  | .cFill h pattern dst dpkg len xpkg => some (encHead 0x04 h + pattern.toNat * 2 ^ 64 + dst.toNat * 2 ^ 128 +
      dpkg.toNat * 2 ^ 184 + len.toNat * 2 ^ 192 + b2n xpkg * 2 ^ 232)
  | .cRsig h saddr inc => some (encHead 0x05 h + saddr.toNat * 2 ^ 64 + inc.toNat * 2 ^ 128)
  | .cVexp2 h b => some (encHead 0x10 h + encExpBody b)
  | .cVlog2 h b => some (encHead 0x11 h + encExpBody b)
  | .cVrcp h b => some (encHead 0x12 h + encExpBody b)
  | .cVrsqrt h b => some (encHead 0x13 h + encExpBody b)
  | .cAllred h b => some (encHead 0x20 h + encCollBody b)
  | .cAllgat h b => some (encHead 0x21 h + encCollBody b)
  | .cRedsc h b => some (encHead 0x22 h + encCollBody b)
  | .cBcast h b => some (encHead 0x23 h + encCollBody b)
  | .cQtok h src dst vid res len maxtok => some (encHead 0x30 h + src.toNat * 2 ^ 64 + vid.toNat * 2 ^ 120 +
      dst.toNat * 2 ^ 128 + res.toNat * 2 ^ 192 + len.toNat * 2 ^ 212 + maxtok.toNat * 2 ^ 236)
  | .cSdet h src dst vid res count dmax => some (encHead 0x40 h + src.toNat * 2 ^ 64 + vid.toNat * 2 ^ 120 +
      dst.toNat * 2 ^ 128 + res.toNat * 2 ^ 192 + count.toNat * 2 ^ 212 + dmax.toNat * 2 ^ 232)
  | .cBstep h lane auto => some (encHead 0x50 h + lane.toNat * 2 ^ 64 + b2n auto * 2 ^ 70)
  | .cNull h => some (encHead 0xFF h)
  | _ => none

/-- The head of a record; none for an unassigned scope. -/
def decodeHead (w : Nat) : Option CHead := do
  let sc ← scopeOf (fld w 56 3)
  some { waitEn := bitOf w 8, sigEn := bitOf w 9, wsem := BitVec.ofNat 8 (fld w 16 8), wthr := BitVec.ofNat 16 (fld w 24 16),
         ssem := BitVec.ofNat 8 (fld w 40 8), sinc := BitVec.ofNat 8 (fld w 48 8), sscope := sc }

/-- The fields of an array command. -/
def decodeExpBody (w : Nat) : CExp :=
  { src := BitVec.ofNat 20 (fld w 64 20), sfmt := floatFmtOf (fld w 84 2), dfmt := floatFmtOf (fld w 86 2),
    rm := roundingOf (fld w 88 2), dst := BitVec.ofNat 20 (fld w 128 20), count := BitVec.ofNat 15 (fld w 192 15) }

/-- The fields of a collective command; none for an unassigned operation. -/
def decodeCollBody (w : Nat) : Option CColl := do
  let op ← collOpOf (fld w 248 3)
  some { src := BitVec.ofNat 56 (fld w 64 56), dst := BitVec.ofNat 56 (fld w 128 56), count := BitVec.ofNat 32 (fld w 192 32),
         gid := BitVec.ofNat 8 (fld w 224 8), rank := BitVec.ofNat 16 (fld w 232 16), op := op }

/-- The command whose fields a record holds, before the conditions on Reserved and unused fields. -/
def decodeCRaw (w : Nat) : Option Instr := do
  let h ← decodeHead w
  let src := BitVec.ofNat 56 (fld w 64 56)
  let dst := BitVec.ofNat 56 (fld w 128 56)
  let dpkg := BitVec.ofNat 8 (fld w 184 8)
  let loc := BitVec.ofNat 20 (fld w 192 20)
  match fld w 0 8 with
  | 0x00 => some (.cCopy h src dst dpkg loc (bitOf w 212) (bitOf w 213))
  | 0x01 => some (.cGather h src dst dpkg loc (BitVec.ofNat 14 (fld w 214 14)) (BitVec.ofNat 2 (fld w 228 2)))
  | 0x02 => some (.cScatter h src dst dpkg loc (bitOf w 212) (BitVec.ofNat 14 (fld w 214 14)) (BitVec.ofNat 2 (fld w 228 2)))
  | 0x03 => some (.cFetch h src dst (BitVec.ofNat 16 (fld w 192 16)) (BitVec.ofNat 8 (fld w 208 8)) (BitVec.ofNat 9 (fld w 216 9)))
  | 0x04 => some (.cFill h (BitVec.ofNat 64 (fld w 64 64)) dst dpkg (BitVec.ofNat 40 (fld w 192 40)) (bitOf w 232))
  | 0x05 => some (.cRsig h (BitVec.ofNat 27 (fld w 64 27)) (BitVec.ofNat 32 (fld w 128 32)))
  | 0x10 => some (.cVexp2 h (decodeExpBody w))
  | 0x11 => some (.cVlog2 h (decodeExpBody w))
  | 0x12 => some (.cVrcp h (decodeExpBody w))
  | 0x13 => some (.cVrsqrt h (decodeExpBody w))
  | 0x20 => (decodeCollBody w).map (.cAllred h)
  | 0x21 => (decodeCollBody w).map (.cAllgat h)
  | 0x22 => (decodeCollBody w).map (.cRedsc h)
  | 0x23 => (decodeCollBody w).map (.cBcast h)
  | 0x30 => some (.cQtok h src dst (BitVec.ofNat 8 (fld w 120 8)) loc (BitVec.ofNat 24 (fld w 212 24)) (BitVec.ofNat 20 (fld w 236 20)))
  | 0x40 => some (.cSdet h src dst (BitVec.ofNat 8 (fld w 120 8)) loc (BitVec.ofNat 20 (fld w 212 20)) (BitVec.ofNat 24 (fld w 232 24)))
  | 0x50 => some (.cBstep h (BitVec.ofNat 6 (fld w 64 6)) (bitOf w 70))
  | 0xFF => some (.cNull h)
  | _ => none

/-- The engines' decoder: a record with an unassigned TYPE, or with a non-zero bit outside its fields, is refused
(spec/02_words.md R71). -/
def decodeC (w : Nat) : Option Instr :=
  match decodeCRaw w with
  | some i => if WellFormed i && encodeC i == some w then some i else none
  | none => none

/-! ## All spaces -/

/-- The words of an instruction that stands in a program: how many bits, and the bits. -/
def encode (i : Instr) : Option (Nat × Nat) :=
  match encodeB i with
  | some w => some (48, w)
  | none => match encodeM i with
    | some w => some (32, w)
    | none => (encodeC i).map (fun w => (256, w))

/-- What an operand reads as when only the word is known: immediates read as themselves, registers as 0. -/
def immOnly : BSrc → Nat
  | .imm6 v => wrapInt (sextNat v.toNat 6) 64
  | .imm12 v => wrapInt (sextNat v.toNat 12) 64
  | _ => 0

/-- The instruction read from the bits of an opcode-table word: 32 bits a microword, 256 bits a command record, otherwise
a banker word. -/
def decodeTableWord (nbits w : Nat) : Option Instr :=
  if nbits = 32 then some (decodeM w)
  else if nbits = 256 then decodeC w
  else some (decodeB immOnly w)

end Sys2Proof
end

