-- ==== Sys2Proof/Machine/Numbers.lean ====
section
/-!
DEFINITION. Number formats and the arithmetic of record (spec/03_numbers.md): format registers, decoding and encoding of
elements, rounding of an exact value into a format, the S20 block scale, tile packet headers and the block-local sum.
Every computation is on exact rationals and is rounded once.
-/
namespace Sys2Proof.Machine

/-! ## Formats -/

/-- A floating-point or narrow format: what R85, R87 and R92 say of it. -/
structure Fmt where
  /-- a sign bit is present -/
  sgn : Bool
  /-- exponent width -/
  e : Nat
  /-- mantissa width -/
  m : Nat
  bias : Int
  /-- subnormals on -/
  sub : Bool
  /-- infinity and NaN encoded -/
  inf : Bool
  /-- the S20 block scale, which keeps its top exponent for NaN alone -/
  s20 : Bool
deriving DecidableEq, Repr, Inhabited

/-- F32 (R85). -/
def f32Fmt : Fmt := { sgn := true, e := 8, m := 23, bias := 127, sub := true, inf := true, s20 := false }
/-- F16 (R85), with subnormals on or off. -/
def f16Fmt (sub : Bool) : Fmt := { sgn := true, e := 5, m := 10, bias := 15, sub := sub, inf := true, s20 := false }
/-- B16 (R85), with subnormals on or off. -/
def b16Fmt (sub : Bool) : Fmt := { sgn := true, e := 8, m := 7, bias := 127, sub := sub, inf := true, s20 := false }
/-- S20 (R92). -/
def s20Fmt : Fmt := { sgn := false, e := 8, m := 12, bias := 127, sub := false, inf := false, s20 := true }

/-- Width of an element. -/
def Fmt.width (f : Fmt) : Nat := b2n f.sgn + f.e + f.m

/-- What a valid format register names (R87, R88). -/
inductive EdgeFmt where
  | wide (f : Fmt)
  | int (signed : Bool) (size : Size)
  | narrow (f : Fmt)
deriving DecidableEq, Repr, Inhabited

/-- The size of an integer code's low two bits (R84). -/
def intSizeOf (c : Nat) : Size := sizeOf (c % 4)

/-- A format register decoded; none when it is invalid (R87, R88). -/
def fmtOfReg (r : Nat) : Option EdgeFmt :=
  let sgn := bitOf r 15
  let e := fld r 12 3
  let m := fld r 9 3
  let code := fld r 2 7
  let sub := bitOf r 1
  let inf := bitOf r 0
  if !sgn && e == 0 && m == 0 then
    if code = 0 then (if sub && inf then some (.wide f32Fmt) else none)
    else if code = 1 then (if inf then some (.wide (f16Fmt sub)) else none)
    else if code = 2 then (if inf then some (.wide (b16Fmt sub)) else none)
    else if 4 ≤ code ∧ code ≤ 0xB then (if sub || inf then none else some (.int (decide (code < 8)) (intSizeOf code)))
    else none
  else
    let f : Fmt := { sgn := sgn, e := e, m := m, bias := sextNat code 7, sub := sub, inf := inf, s20 := false }
    if 8 < f.width then none
    else if e = 0 then (if 1 ≤ m ∧ !sub ∧ !inf then some (.narrow f) else none)
    else if inf && (e < 2 || m < 1) then none
    else some (.narrow f)

/-- The container of a narrow element (R91). -/
def containerBits (w : Nat) : Nat := if w ≤ 1 then 1 else if w = 2 then 2 else if w ≤ 4 then 4 else 8

/-- Elements per data token of an edge (R91). -/
def EdgeFmt.perToken : EdgeFmt → Nat
  | .narrow f => 64 / containerBits f.width
  | _ => 1

/-- Whether the edge is narrow. -/
def EdgeFmt.isNarrow : EdgeFmt → Bool
  | .narrow _ => true
  | _ => false

/-- Bits an element takes in memory, the container for a narrow format. -/
def EdgeFmt.elemBits : EdgeFmt → Nat
  | .narrow f => containerBits f.width
  | .wide f => f.width
  | .int _ sz => sz.bits

/-- A wide element as the receiving channel presents it: signed integers by sign, others by zero (R91). -/
def EdgeFmt.present (f : EdgeFmt) (v : Word) : Word :=
  match f with
  | .narrow _ => v
  | .wide g => BitVec.ofNat 64 (v.toNat % 2 ^ g.width)
  | .int true sz => BitVec.ofNat 64 (wrapInt (sextNat v.toNat sz.bits) 64)
  | .int false sz => BitVec.ofNat 64 (v.toNat % 2 ^ sz.bits)

/-! ## Exact values -/

/-- An exact value: NaN, an infinity, or ±(num / den) × 2^exp. -/
inductive FVal where
  | nan
  | inf (neg : Bool)
  | fin (neg : Bool) (num den : Nat) (exp : Int)
deriving DecidableEq, Repr, Inhabited

/-- A signed zero. -/
def FVal.zero (neg : Bool) : FVal := .fin neg 0 1 0

/-- An integer. -/
def FVal.ofInt (v : Int) : FVal := .fin (decide (v < 0)) v.natAbs 1 0

/-- The value is a zero. -/
def FVal.isZero : FVal → Bool
  | .fin _ n _ _ => n == 0
  | _ => false

/-- The value is NaN. -/
def FVal.isNan : FVal → Bool
  | .nan => true
  | _ => false

/-- The sign of a value. -/
def FVal.neg? : FVal → Bool
  | .nan => false
  | .inf n => n
  | .fin n _ _ _ => n

/-- Negation. -/
def FVal.negate : FVal → FVal
  | .nan => .nan
  | .inf n => .inf (!n)
  | .fin n a b e => .fin (!n) a b e

/-- The magnitude. -/
def FVal.mag : FVal → FVal
  | .nan => .nan
  | .inf _ => .inf false
  | .fin _ a b e => .fin false a b e

/-- `n × 2^k` for a non-negative shift. -/
def shiftBy (n : Nat) (k : Int) : Nat := n * 2 ^ k.toNat

/-- Product; 0 × ∞ is invalid; a zero product has the exclusive-or of the signs (R99, R100). -/
def FVal.mul : FVal → FVal → FVal
  | .nan, _ => .nan
  | _, .nan => .nan
  | .inf s, .inf t => .inf (s != t)
  | .inf s, .fin t n _ _ => if n = 0 then .nan else .inf (s != t)
  | .fin s n _ _, .inf t => if n = 0 then .nan else .inf (s != t)
  | .fin s n d e, .fin t n' d' e' => .fin (s != t) (n * n') (d * d') (e + e')

/-- Quotient; 0/0 and ∞/∞ are invalid, a non-zero value over zero is an infinity (R100, R107). -/
def FVal.div : FVal → FVal → FVal
  | .nan, _ => .nan
  | _, .nan => .nan
  | .inf _, .inf _ => .nan
  | .inf s, .fin t _ _ _ => .inf (s != t)
  | .fin s _ _ _, .inf t => .zero (s != t)
  | .fin s n d e, .fin t n' d' e' =>
    if n' = 0 then (if n = 0 then .nan else .inf (s != t)) else .fin (s != t) (n * d') (d * n') (e - e')

/-- Sum under a rounding mode, which decides the sign of an exact zero (R99); ∞ − ∞ is invalid (R100). -/
def FVal.add (rm : Rounding) : FVal → FVal → FVal
  | .nan, _ => .nan
  | _, .nan => .nan
  | .inf s, .inf t => if s = t then .inf s else .nan
  | .inf s, .fin _ _ _ _ => .inf s
  | .fin _ _ _ _, .inf t => .inf t
  | .fin s n d e, .fin t n' d' e' =>
    let lo := min e e'
    let x : Int := (if s then -1 else 1) * (shiftBy (n * d') (e - lo) : Nat)
    let y : Int := (if t then -1 else 1) * (shiftBy (n' * d) (e' - lo) : Nat)
    let z := x + y
    if z = 0 then (if n = 0 ∧ n' = 0 ∧ s = t then .zero s else .zero (rm == .rd))
    else .fin (decide (z < 0)) z.natAbs (d * d') lo

/-- Comparison of two values that are not NaN: the sign of a − b. -/
def FVal.cmp : FVal → FVal → Int
  | .nan, _ => 0
  | _, .nan => 0
  | .inf s, .inf t => if s = t then 0 else if s then -1 else 1
  | .inf s, .fin _ _ _ _ => if s then -1 else 1
  | .fin _ _ _ _, .inf t => if t then 1 else -1
  | .fin s n d e, .fin t n' d' e' =>
    let lo := min e e'
    let x : Int := (if s then -1 else 1) * (shiftBy (n * d') (e - lo) : Nat)
    let y : Int := (if t then -1 else 1) * (shiftBy (n' * d) (e' - lo) : Nat)
    if x < y then -1 else if y < x then 1 else 0

/-! ## Decoding and encoding -/

/-- The largest exponent field of a finite value (R89, R92). -/
def Fmt.topE (f : Fmt) : Nat := if f.inf || f.s20 then 2 ^ f.e - 2 else 2 ^ f.e - 1

/-- The exponent of the last place of subnormals and of the smallest normals; of the whole grid when E = 0. -/
def Fmt.lsb (f : Fmt) : Int := if f.e = 0 then -f.bias else 1 - f.bias - (f.m : Int)

/-- The value a code has, before any block scale (R85, R89, R92). -/
def Fmt.decode (f : Fmt) (code : Nat) : FVal :=
  let m := fld code 0 f.m
  let e := fld code f.m f.e
  let s := f.sgn && bitOf code (f.m + f.e)
  if f.e = 0 then .fin s m 1 (-f.bias)
  else if f.s20 && e == 2 ^ f.e - 1 then .nan
  else if f.inf && e == 2 ^ f.e - 1 then (if m = 0 then .inf s else .nan)
  else if e = 0 then (if f.sub then .fin s m 1 f.lsb else .zero s)
  else .fin s (2 ^ f.m + m) 1 ((e : Int) - f.bias - (f.m : Int))

/-- The canonical NaN, or what stands for it (R86, R100). -/
def Fmt.nanCode (f : Fmt) : Nat :=
  if f.s20 then 0xFF000 else if f.inf then (2 ^ f.e - 1) * 2 ^ f.m + 2 ^ (f.m - 1) else 0

/-- The sign bit in place; an unsigned format has none. -/
def Fmt.signBit (f : Fmt) (neg : Bool) : Nat := if f.sgn && neg then 2 ^ (f.e + f.m) else 0

/-- The largest finite magnitude (R89). -/
def Fmt.maxCode (f : Fmt) : Nat := if f.e = 0 then 2 ^ f.m - 1 else f.topE * 2 ^ f.m + (2 ^ f.m - 1)

/-- The value of the largest finite magnitude. -/
def Fmt.maxFin (f : Fmt) : FVal := f.decode f.maxCode

/-- The code of an infinity. -/
def Fmt.infCode (f : Fmt) (neg : Bool) : Nat := f.signBit neg + (2 ^ f.e - 1) * 2 ^ f.m

/-! ## Rounding (R97) -/

/-- The exponent of the leading bit of num / den × 2^exp, for num ≠ 0. -/
def leadExp (num den : Nat) (exp : Int) : Int :=
  let k : Int := (Nat.log2 num : Int) - (Nat.log2 den : Int)
  let ge := if 0 ≤ k then decide (shiftBy den k ≤ num) else decide (den ≤ shiftBy num (-k))
  exp + (if ge then k else k - 1)

/-- The multiple of 2^g nearest to ±num / den × 2^exp in the given mode, divided by 2^g. -/
def quantise (rm : Rounding) (neg : Bool) (num den : Nat) (exp g : Int) : Nat :=
  let a := if g ≤ exp then shiftBy num (exp - g) else num
  let b := if g ≤ exp then den else shiftBy den (g - exp)
  let q := a / b
  let r := a % b
  let up : Bool :=
    match rm with
    | .rne => decide (b < 2 * r) || (2 * r == b && q % 2 == 1)
    | .rz => false
    | .ru => !neg && r != 0
    | .rd => neg && r != 0
  q + b2n up

/-- The exponent of the last place of the grid at a value. -/
def Fmt.gridExp (f : Fmt) (num den : Nat) (exp : Int) : Int :=
  if f.e = 0 then f.lsb else max (leadExp num den exp - (f.m : Int)) f.lsb

/-- Whether the rounded magnitude q × 2^g exceeds the largest finite value (R97 step 4). -/
def Fmt.exceeds (f : Fmt) (q : Nat) (g : Int) : Bool := FVal.cmp (.fin false q 1 g) f.maxFin == 1

/-- The result where the rounded value is too large (R97, the table of step 4). -/
def Fmt.overflow (f : Fmt) (rm : Rounding) (neg : Bool) : Nat :=
  if !f.inf then f.signBit neg + f.maxCode
  else match rm with
    | .rne => f.infCode neg
    | .rz => f.signBit neg + f.maxCode
    | .ru => if neg then f.signBit neg + f.maxCode else f.infCode neg
    | .rd => if neg then f.infCode neg else f.signBit neg + f.maxCode

/-- The code of the grid value q × 2^g, which is not above the largest finite value. -/
def Fmt.codeOf (f : Fmt) (neg : Bool) (q : Nat) (g : Int) : Nat :=
  if f.e = 0 then f.signBit neg + q
  else
    let up := q == 2 ^ (f.m + 1)
    let q := if up then q / 2 else q
    let g := if up then g + 1 else g
    if q < 2 ^ f.m then (if f.sub then f.signBit neg + q else f.signBit neg)
    else f.signBit neg + (g + (f.m : Int) + f.bias).toNat * 2 ^ f.m + (q - 2 ^ f.m)

/-- round(x, f, mode) as the code of the result (R97 to R100). -/
def Fmt.round (f : Fmt) (rm : Rounding) (x : FVal) : Nat :=
  match x with
  | .nan => f.nanCode
  | .inf neg =>
    if neg && !f.sgn then (if f.inf then f.nanCode else 0)
    else if f.inf then f.infCode neg else f.signBit neg + f.maxCode
  | .fin neg num den exp =>
    if num = 0 then f.signBit neg
    else
      let g := f.gridExp num den exp
      let q := quantise rm neg num den exp g
      if neg && !f.sgn then (if q = 0 then 0 else if f.inf then f.nanCode else 0)
      else if f.exceeds q g then f.overflow rm neg
      else f.codeOf neg q g

/-- A value rounded to an integer under a mode. -/
def roundInt (rm : Rounding) (neg : Bool) (num den : Nat) (exp : Int) : Int :=
  let q := quantise rm neg num den exp 0
  if neg then -(q : Int) else (q : Int)

/-- Conversion of a float to an integer type: NaN gives 0, a value outside the range the nearest end (R101). -/
def toIntType (signed : Bool) (w : Nat) (rm : Rounding) (x : FVal) : Int :=
  let lo : Int := if signed then -((2 ^ (w - 1) : Nat) : Int) else 0
  let hi : Int := if signed then ((2 ^ (w - 1) : Nat) : Int) - 1 else ((2 ^ w : Nat) : Int) - 1
  match x with
  | .nan => 0
  | .inf neg => if neg then lo else hi
  | .fin neg num den exp => min (max (roundInt rm neg num den exp) lo) hi

/-! ## The block scale -/

/-- The value of an S20 scale (R92). -/
def s20Val (c : Nat) : FVal := s20Fmt.decode c

/-- The value of an element of an edge format, in the low bits of a container. -/
def EdgeFmt.value (f : EdgeFmt) (v : Nat) : FVal :=
  match f with
  | .wide g => g.decode (v % 2 ^ g.width)
  | .narrow g => g.decode (v % 2 ^ g.width)
  | .int true sz => .ofInt (sextNat v sz.bits)
  | .int false sz => .ofInt ((v % 2 ^ sz.bits : Nat) : Int)

/-! ## The block-local sum (R102 to R105) -/

/-- The largest |int(x)| an element format can encode (R103). -/
def EdgeFmt.maxInt : EdgeFmt → Nat
  | .int true sz => 2 ^ (sz.bits - 1)
  | .int false sz => 2 ^ sz.bits - 1
  | .wide f | .narrow f => if f.e = 0 then 2 ^ f.m - 1 else (2 ^ (f.m + 1) - 1) * 2 ^ (f.topE - 1)

/-- A format narrow or an 8-bit integer: what a block cell may pair (R102, R103). -/
def EdgeFmt.blockable : EdgeFmt → Bool
  | .narrow _ => true
  | .int _ sz => sz == .b8
  | .wide _ => false

/-- Whether two formats can be block-accumulated (R103). -/
def pairable (fa fb : EdgeFmt) : Bool :=
  fa.blockable && fb.blockable && decide (64 * fa.maxInt * fb.maxInt < 2 ^ 47)

/-- The fixed power of two of a format's elements (R102). -/
def EdgeFmt.lsbExp : EdgeFmt → Int
  | .int _ _ => 0
  | .wide f | .narrow f => f.lsb

/-- int(x) of a finite element: the integer of R102. -/
def elemInt (f : EdgeFmt) (x : FVal) : Int :=
  match x with
  | .fin neg num _ exp =>
    let v : Int := (shiftBy num (exp - f.lsbExp) : Nat)
    if num = 0 then 0 else if neg then -v else v
  | _ => 0

/-- The accumulator n over the positions both blocks hold (R102). -/
def blockN (fa fb : EdgeFmt) : List FVal → List FVal → Int
  | a :: as, b :: bs => elemInt fa a * elemInt fb b + blockN fa fb as bs
  | _, _ => 0

/-- The exact products of the positions both blocks hold. -/
def blockProducts : List FVal → List FVal → List FVal
  | a :: as, b :: bs => a.mul b :: blockProducts as bs
  | _, _ => []

/-- Some product is an infinity of the given sign. -/
def hasInf (neg : Bool) (l : List FVal) : Bool := l.any (· == .inf neg)

/-- The block's result in F32 (R102, R104). -/
def blockSum (fa fb : EdgeFmt) (sa sb : Nat) (as bs : List FVal) : Nat :=
  let va := s20Val sa
  let vb := s20Val sb
  let ps := blockProducts as bs
  let anyInf := (as.zip bs).any (fun p => (match p.1 with | .inf _ => true | _ => false) ||
    (match p.2 with | .inf _ => true | _ => false))
  let scaleZeroInf := (va.isZero || vb.isZero) && anyInf
  if ps.any FVal.isNan || va.isNan || vb.isNan || scaleZeroInf then f32Fmt.nanCode
  else if hasInf true ps && hasInf false ps then f32Fmt.nanCode
  else if hasInf false ps then f32Fmt.infCode false
  else if hasInf true ps then f32Fmt.infCode true
  else
    let n := blockN fa fb as bs
    if n = 0 then 0
    else f32Fmt.round .rne ((FVal.mul (.fin (decide (n < 0)) n.natAbs 1 (fa.lsbExp + fb.lsbExp)) va).mul vb)

/-- An F32 addition, the only operation an accumulator needs (R105). -/
def f32Add (rm : Rounding) (a b : Nat) : Nat := f32Fmt.round rm (FVal.add rm (f32Fmt.decode a) (f32Fmt.decode b))

/-! ## The tile packet header (R93) -/

/-- A tile packet header, or a control token. -/
abbrev Header := BitVec 64

/-- The kind of a header (R93). -/
def hdrKind (h : Nat) : Nat := fld h 12 2
/-- CTX of a header. -/
def hdrCtx (h : Nat) : Nat := fld h 14 2
/-- NVAL of a header. -/
def hdrNval (h : Nat) : Nat := fld h 16 6
/-- BLK of a header. -/
def hdrBlk (h : Nat) : Nat := fld h 22 6
/-- FMT of a header. -/
def hdrFmt (h : Nat) : Nat := fld h 28 16
/-- SCALE of a header. -/
def hdrScale (h : Nat) : Nat := fld h 44 20

/-- A data block's header; `blk` and `nval` are the element counts minus 1 (R93, R95). -/
def mkHeader (scale fmt blk nval ctx kind : Nat) : Nat :=
  scale * 2 ^ 44 + fmt * 2 ^ 28 + blk * 2 ^ 22 + nval * 2 ^ 16 + ctx * 2 ^ 14 + kind * 2 ^ 12

/-- The scale latch as a copy is loaded: 1.0 (R94). -/
def scaleOne : Nat := 0x7F000

/-- Element `i` of a packed token (R91). -/
def tokenElem (f : EdgeFmt) (v : Nat) (i : Nat) : Nat :=
  match f with
  | .narrow g => let c := containerBits g.width; fld v (i * c) c
  | _ => v

/-- The values of the first `n` elements of a token. -/
def tokenValues (f : EdgeFmt) (v : Nat) : Nat → List FVal
  | 0 => []
  | n + 1 => tokenValues f v n ++ [f.value (tokenElem f v n)]

end Sys2Proof.Machine
end

