-- ==== Sys2Proof/Machine/Flags.lean ====
section
/-!
DEFINITION. The results of the integer instructions of rows 0x0 to 0x2 (spec/04_integer.md): how a source is read at the
operation's width, how an exact result is clamped, wrapped and extended, what each operation computes, and the truth
values the compares deliver to predicates and flags. No operation of the device sets a condition flag as a side effect.
-/
namespace Sys2Proof.Machine

/-- A source read at the operation's width, signed or unsigned (R109). -/
def aluRead (m : AluMods) (x : Word) : Int :=
  if m.uns then ((x.toNat % 2 ^ m.size.bits : Nat) : Int) else sextNat x.toNat m.size.bits

/-- Bits w−1:0 of a source. -/
def aluBits (m : AluMods) (x : Word) : Nat := x.toNat % 2 ^ m.size.bits

/-- The smallest value of the operation's type (R109). -/
def aluLo (m : AluMods) : Int := if m.uns then 0 else -((2 ^ (m.size.bits - 1) : Nat) : Int)

/-- The largest value of the operation's type (R109). -/
def aluHi (m : AluMods) : Int :=
  if m.uns then ((2 ^ m.size.bits : Nat) : Int) - 1 else ((2 ^ (m.size.bits - 1) : Nat) : Int) - 1

/-- An exact result delivered: clamped where the instruction saturates, wrapped, and extended to 64 bits (R109). -/
def aluDeliver (m : AluMods) (v : Int) : Word :=
  let v := if m.sat then min (max v (aluLo m)) (aluHi m) else v
  let bits := wrapInt v m.size.bits
  if m.uns then BitVec.ofNat 64 bits else BitVec.ofNat 64 (wrapInt (sextNat bits m.size.bits) 64)

/-- The word whose bit `i` is `f i`, for `i < n`. -/
def natOfBits : Nat → (Nat → Bool) → Nat
  | 0, _ => 0
  | n + 1, f => natOfBits n f + b2n (f n) * 2 ^ n

/-- Leading zero bits of a `w`-bit pattern (R120). -/
def clzNat : Nat → Nat → Nat
  | 0, _ => 0
  | w + 1, x => if bitOf x w then 0 else 1 + clzNat w x

/-- Trailing zero bits of a `w`-bit pattern (R120). -/
def ctzNat : Nat → Nat → Nat
  | 0, _ => 0
  | w + 1, x => if bitOf x 0 then 0 else 1 + ctzNat w (x / 2)

/-- One bits of a `w`-bit pattern (R120). -/
def popcNat : Nat → Nat → Nat
  | 0, _ => 0
  | w + 1, x => b2n (bitOf x 0) + popcNat w (x / 2)

/-- The bytes of an `n`-byte pattern in reverse order (R120). -/
def bswapNat (n x : Nat) : Nat := leNat (leBytes n x).reverse

/-- A circular index advanced with one correction (R123). -/
def wrapIndex (t c : Int) : Int :=
  if 0 < c then (if c ≤ t then t - c else if t < 0 then t + c else t) else t

/-- Quotient of the banker's division (R119). -/
def divInt (m : AluMods) (a b : Int) : Int :=
  if b = 0 then (if m.uns then aluHi m else -1) else Int.tdiv a b

/-- Remainder of the banker's division (R119). -/
def remInt (a b : Int) : Int := if b = 0 then a else Int.tmod a b

/-- The address `agen` forms (R121). -/
def agenAddr (m : AluMods) (a b c : Word) : Word :=
  BitVec.ofNat 64 (wrapInt ((a.toNat : Int) + aluRead m b * sextNat c.toNat 32) 64)

/-- The address `agen2` forms from a linear index (R122). -/
def agen2Addr (m : AluMods) (a b c : Word) : Word :=
  let i := aluBits m b
  let rl := fld c.toNat 0 16
  let rlen := if rl = 0 then 65536 else rl
  BitVec.ofNat 64 (a.toNat + (i / rlen) * fld c.toNat 32 32 + (i % rlen) * 2 ^ min (fld c.toNat 16 4) 6)

/-- The truth value of a compare (R119), or of the choice `sel` makes. -/
def aluTest (op : AluOp) (m : AluMods) (a b c : Word) : Bool :=
  match op with
  | .cmpeq => aluRead m a == aluRead m b
  | .cmpne => aluRead m a != aluRead m b
  | .cmplt => decide (aluRead m a < aluRead m b)
  | .cmple => decide (aluRead m a ≤ aluRead m b)
  | .sel => aluBits m c != 0
  | _ => false

/-- The exact result of an operation whose result R109 delivers (R116, R118 to R120, R123). -/
def aluExact (op : AluOp) (m : AluMods) (av bv cv : Word) : Int :=
  let a := aluRead m av
  let b := aluRead m bv
  let c := aluRead m cv
  let w := m.size.bits
  let x := aluBits m av
  let y := aluBits m bv
  match op with
  | .mov => a
  | .add => a + b
  | .sub => a - b
  | .neg => -a
  | .abs => (a.natAbs : Int)
  | .mul => a * b
  | .mulh => (a * b) / ((2 ^ w : Nat) : Int)
  | .mad => a * b + c
  | .min => min a b
  | .max => max a b
  | .absd => ((a - b).natAbs : Int)
  | .addsh => a + b * ((2 ^ fld cv.toNat 0 6 : Nat) : Int)
  | .clamp => min (max a b) c
  | .and => ((x &&& y : Nat) : Int)
  | .or => ((x ||| y : Nat) : Int)
  | .xor => ((x ^^^ y : Nat) : Int)
  | .andn => ((x &&& (2 ^ w - 1 - y) : Nat) : Int)
  | .not => ((2 ^ w - 1 - x : Nat) : Int)
  | .shl => a * ((2 ^ min y w : Nat) : Int)
  | .shr => ((x / 2 ^ min y w : Nat) : Int)
  | .sar => sextNat x w / ((2 ^ min y w : Nat) : Int)
  | .rol => ((x * 2 ^ (y % w) + x / 2 ^ (w - y % w) : Nat) : Int)
  | .sel => if aluTest .sel m av bv cv then a else b
  | .clz => (clzNat w x : Int)
  | .popc => (popcNat w x : Int)
  | .ctz => (ctzNat w x : Int)
  | .wrap => wrapIndex (a + b) c
  | .sext => sextNat av.toNat (min (fld bv.toNat 0 7) 64)
  | .zext => ((av.toNat % 2 ^ min (fld bv.toNat 0 7) 64 : Nat) : Int)
  | .bswap => ((bswapNat m.size.bytes x : Nat) : Int)
  | .div => divInt m a b
  | .rem => remInt a b
  | .cmpeq | .cmpne | .cmplt | .cmple => (b2n (aluTest op m av bv cv) : Int)
  | .agen | .agen2 => 0

/-- The 64-bit value an integer instruction delivers (R109, R116 to R123). -/
def aluResult (op : AluOp) (m : AluMods) (a b c : Word) : Word :=
  match op with
  | .agen => agenAddr m a b c
  | .agen2 => agen2Addr m a b c
  | .cmpeq | .cmpne | .cmplt | .cmple => BitVec.ofNat 64 (b2n (aluTest op m a b c))
  | op => aluDeliver m (aluExact op m a b c)

/-- `movi` (R117). -/
def moviValue (imm : BitVec 24) : Word := imm.signExtend 64

/-- `movhi`: the low 40 bits of the old value above the immediate (R117). -/
def movhiValue (old : Word) (imm : BitVec 24) : Word := BitVec.ofNat 64 (fld old.toNat 0 40 * 2 ^ 24 + imm.toNat)

/-- Latency of an integer instruction, other than the banker's divide (R116, R122). -/
def aluLatency : AluOp → Nat
  | .mul | .mulh | .mad => 3
  | .agen2 => 2
  | _ => 1

/-- Latency of the banker's `div` and `rem` (R113). -/
def divLatency (m : AluMods) : Nat := 2 + m.size.bits / 2

/-- The latency of an integer instruction in a banker. -/
def bankerLatency (op : AluOp) (m : AluMods) : Nat :=
  match op with
  | .div | .rem => divLatency m
  | op => aluLatency op

end Sys2Proof.Machine
end

