-- ==== Sys2Proof/Config.lean ====
section
/-!
DEFINITION. What the manual leaves open: free values. Each is a constant without a body, so no proof can see what it is.
A free value that may differ each time it is drawn is applied to the counter `State.draws`.
-/
namespace Sys2Proof.Config

/-- Who acts next when `State.agenda` is empty: any interleaving of the executors and of the outside world
(spec/01_machine.md R24, R38 bound it no further). Log entry 1. -/
opaque freeTurn : Nat → Turn

/-- Cycles until a placer that is to run again makes its pass (spec/08_launch.md R190 names none). Log entry 132. -/
opaque placerDelay : Nat → Nat

/-- Which word a full fetch cache gives up (spec/18_system.md R410 names no rule). Log entry 9. -/
opaque fetchVictim : Nat → Nat

/-- Which entry a full set of a wall TLB gives up (spec/09_memory.md R234 names no rule). Log entry 9. -/
opaque wallTlbVictim : Nat → Nat

/-- Which line a full set of reserved ways gives up (spec/09_memory.md R227 names no rule). Log entry 9. -/
opaque remoteWayVictim : Nat → Nat

/-- The delay of a plain slot load in unordered mode, drawn from the generator seeded by SEED
(spec/10_ordering.md R256 does not give the generator). Used modulo 64. Log entry 10. -/
opaque unorderedDelay : Nat → Nat → Nat

/-- Which of the edges out of a FIFO memory tile its next block goes over (spec/02_words.md R77 allows several and gives no
rule). Log entry 30. -/
opaque fifoTurn : Nat → Nat

/-- Cycles that a message is on its way to a crossbar (spec/09_memory.md R229 gives none). Log entry 136. -/
opaque travel : Nat → Nat

/-- Traffic that a crossbar output is asked for beside the accesses that are followed: the input it comes from and its flits less one, or
none (spec/09_memory.md R229). Log entry 136. -/
opaque xbarOther : Nat → Option (Nat × Nat)

/-- Traffic on a ring that is not followed: whether a slot of it stands or is to be inserted at a stop, and after how many stops it leaves
(spec/13_rings.md R296). Log entry 141. -/
opaque ringOther : Nat → Option Nat

/-- Whether the arcade ring takes a slot in a cycle (spec/13_rings.md R298 gives no rate). Log entry 141. -/
opaque arcadeTakes : Nat → Bool

/-- What another package answers to an operation of the batch former on one of its sets: the cause of an access fault, a refusal, or done
with a payload (spec/15_requests.md R349, R352). Log entry 144. -/
opaque farKv : Nat → Except Nat (Option Nat)

/-- The bytes that a cut puts into its bank (spec/18_system.md R402 does not define the layout). Log entry 131. -/
opaque cutBytes : Nat → List Byte

/-- Whether the fetch of a schedule table from the configuration store faults at a CE during a lintel sweep
(spec/08_launch.md R202), and for which `cexy`. Log entry 11. -/
opaque cfgFetchFault : Nat → Option Nat

/-- The RSA-3072 public key that signed objects are verified with: modulus and exponent (spec/19_boundary.md R425 gives none). Log
entry 12. -/
opaque rsaKey : Nat × Nat

/-- Their SLH-DSA public key: PK.seed and PK.root (spec/19_boundary.md R425 gives none). Log entry 12. -/
opaque slhKey : List Byte × List Byte

/-- Byte `i` of the RSA-3072 and SLH-DSA signatures of an attestation report (spec/19_boundary.md R426). Log entry 12. -/
opaque attestSignature : List Byte → Nat → Byte

/-- Byte `i` of the device identity (spec/19_boundary.md R426). Log entry 12. -/
opaque deviceIdentity : Nat → Byte

end Sys2Proof.Config
end

