-- ==== Sys2Proof/Machine/Tab.lean ====
section
/-!
DEFINITION. Sparse tables keyed by number, in one canonical form: keys strictly rising and no entry equal to the default,
so that equal tables are equal data. Register files, tiles and every other numbered collection of the machine are tables;
an entry that is not listed holds the default, which is the reset value.
-/
namespace Sys2Proof.Machine

/-- A table from numbers to values. -/
abbrev Tab (α : Type) := List (Nat × α)

/-- The entry of a key, or the given default. -/
def Tab.getD {α : Type} (d : α) : Tab α → Nat → α
  | [], _ => d
  | (k, v) :: t, i => if k = i then v else Tab.getD d t i

/-- The entry of a key, or the type's default. -/
def Tab.get {α : Type} [Inhabited α] (t : Tab α) (i : Nat) : α := Tab.getD default t i

/-- Insertion at a key's place. -/
def Tab.put {α : Type} : Tab α → Nat → α → Tab α
  | [], i, v => [(i, v)]
  | (k, w) :: t, i, v => if i < k then (i, v) :: (k, w) :: t else if k = i then (i, v) :: t else (k, w) :: Tab.put t i v

/-- Removal of a key. -/
def Tab.drop {α : Type} : Tab α → Nat → Tab α
  | [], _ => []
  | (k, w) :: t, i => if k = i then Tab.drop t i else (k, w) :: Tab.drop t i

/-- The table with one entry set; setting the default removes the entry. -/
def Tab.setD {α : Type} [DecidableEq α] (d : α) (t : Tab α) (i : Nat) (v : α) : Tab α :=
  if v = d then Tab.drop t i else Tab.put t i v

/-- The table with one entry set, the type's default standing for an entry that is not listed. -/
def Tab.set {α : Type} [DecidableEq α] [Inhabited α] (t : Tab α) (i : Nat) (v : α) : Tab α := Tab.setD default t i v

/-- One entry changed by a function. -/
def Tab.modify {α : Type} [DecidableEq α] [Inhabited α] (t : Tab α) (i : Nat) (f : α → α) : Tab α := Tab.set t i (f (Tab.get t i))

/-- The numbers of the listed entries. -/
def Tab.keys {α : Type} (t : Tab α) : List Nat := t.map (·.1)

/-- The i-th element of a list changed. -/
def modifyNth {α : Type} (f : α → α) : Nat → List α → List α
  | _, [] => []
  | 0, x :: l => f x :: l
  | n + 1, x :: l => x :: modifyNth f n l

end Sys2Proof.Machine
end

