-- ==== Sys2Proof/Machine/State.lean ====
section
/-!
DEFINITION. The state of the machine: one Molasteno package with everything spec/ gives it, as plain data. Numbered things
are tables (`Tab`): a tile, register or entry that is not listed holds its default, which is its reset value. Addresses and
counts are numbers; register contents are bit patterns.
-/
namespace Sys2Proof.Machine

/-! ## Values and tokens -/

/-- A value of a CE: 64 bits, a poison bit and a void bit (spec/02_words.md R69, spec/07_control.md R168). -/
structure Val where
  v : Word := 0
  poison : Bool := false
  void : Bool := false
deriving DecidableEq, Repr, Inhabited

/-- A banker or sequencer register: 64 bits and a poison bit (R68); it never holds void (R172). -/
structure PReg where
  v : Word := 0
  poison : Bool := false
deriving DecidableEq, Repr, Inhabited

/-- A predicate or flag: a bit and a poison bit (R68). -/
structure PBit where
  b : Bool := false
  poison : Bool := false
deriving DecidableEq, Repr, Inhabited

/-- The kinds of token (R168, spec/03_numbers.md R93); a plumb marker is never presented to a slot (spec/18_system.md R400). -/
inductive TokKind where
  | data | eos | marker
deriving DecidableEq, Repr, Inhabited

/-- A token of a channel: its value, the header of its block (or the control token itself), its place in its block
(spec/03_numbers.md R93, R95), and the edges that it came over last and first: 0 for the loader and for a port, else the number of the
edge in its image, plus 1. -/
structure Token where
  kind : TokKind := .data
  val : Val := {}
  hdr : Nat := 0
  pos : Nat := 0
  src : Nat := 0
  org : Nat := 0
deriving DecidableEq, Repr, Inhabited

/-- The receiving side of an input channel: the tokens taken of the block under way (0: a header comes next), and the header
it holds (R95). -/
structure InBlk where
  pos : Nat := 0
  hdr : Nat := 0
deriving DecidableEq, Repr, Inhabited

/-- The sending side of an output channel or of a loader: the open block (R94, R95) and the tokens pushed since load. -/
structure OutBlk where
  /-- elements the open block holds; 0: none open -/
  n : Nat := 0
  /-- header of the open block -/
  hdr : Nat := 0
  /-- tokens of the open block -/
  toks : Nat := 0
  /-- data tokens pushed on the edge since the copy was loaded (R169) -/
  ntok : Nat := 0
deriving DecidableEq, Repr, Inhabited

/-! ## Faults -/

/-- What a posted or precise fault carries (spec/18_system.md R394, R395). -/
structure TrapInfo where
  cause : Nat := 0
  acause : Nat := 0
  posted : Bool := false
  noroll : Bool := false
  lid : Nat := 0
  copy : Nat := 0
  info : Word := 0
  info2 : Word := 0
deriving DecidableEq, Repr, Inhabited

/-- A posted trap with its place in the order of its sources (R396). -/
structure Posted where
  trap : TrapInfo := {}
  /-- 0 regions, 1 chains, 2 the sequencer, 3 the rest -/
  rank : Nat := 0
  /-- LID and copy, or chain -/
  sub : Nat := 0
  /-- the cycle it was found in -/
  at' : Nat := 0
  /-- a late fault, whose EPC is the next word (R391) -/
  late : Bool := false
deriving DecidableEq, Repr, Inhabited

/-! ## Kernels (spec/08_launch.md R182, R183) -/

/-- An end of an edge. -/
inductive EndPt where
  | ce (cexy ch : Nat)
  | mt (i : Nat)
deriving DecidableEq, Repr, Inhabited

/-- An edge of a configuration. -/
structure Edge where
  src : EndPt
  dst : EndPt
  fmt : Nat
  /-- block length − 1 -/
  blk : Nat
deriving DecidableEq, Repr, Inhabited

/-- An initialisation entry. -/
structure InitEnt where
  all : Bool
  cexy : Nat
  kind : Nat
  idx : Nat
  value : Word
deriving DecidableEq, Repr, Inhabited

/-- A data image. -/
structure DataImg where
  mt : Nat
  eos : Bool
  off : Nat
  bytes : List Byte
deriving DecidableEq, Repr, Inhabited

/-- A configuration image, parsed. -/
structure Kernel where
  shape : Nat := 0
  ii : Nat := 1
  stage : Nat := 0
  wbuf : Bool := false
  snap : Nat := 1
  mtUse : Nat := 0
  mtFifo : Nat := 0
  mtCache : Nat := 0
  lutUse : Nat := 0
  /-- slot words of the CEs in ascending y and then x -/
  words : List (List Word48) := []
  edges : List Edge := []
  /-- (island × 256 + table, truth table) -/
  luts : List (Nat × Nat) := []
  inits : List InitEnt := []
  data : List DataImg := []
deriving DecidableEq, Repr, Inhabited

/-- An entry of the configuration store (R181, R184): the stored copy and its check code. -/
structure CfgEnt where
  live : Bool := false
  bytes : List Byte := []
  check : Nat := 0
deriving DecidableEq, Repr, Inhabited

/-! ## Regions -/

/-- A physical destination of a slot, bound at issue (R111). -/
inductive PDst where
  | none
  | k (i : Nat)
  | s (i : Nat)
  | p (i : Nat)
  | ch (i : Nat)
deriving DecidableEq, Repr, Inhabited

/-- One CE in one context (spec/01_machine.md R39). -/
structure Ce where
  /-- physical rotating registers -/
  k : Tab Val := []
  s : Tab Val := []
  p : Tab PBit := []
  result : Val := {}
  /-- the cycle in which the result register was last written, and the issue cycle of the slot that wrote it (R112) -/
  resAt : Nat := 0
  resIss : Nat := 0
  /-- scale latch of each output channel, where it differs from 1.0 (R94) -/
  latch : Tab Nat := []
  /-- sending side of each output channel -/
  out : Tab OutBlk := []
  /-- tokens sent towards each input channel and not yet queued (R170) -/
  sent : Tab Nat := []
  /-- input channel queues -/
  queue : Tab (List Token) := []
  /-- receiving side of each input channel -/
  inb : Tab InBlk := []
  /-- leased registers (R145): k as 0–63, s as 64–79 -/
  lease : List Nat := []
deriving DecidableEq, Repr, Inhabited

/-- The saved state of a copy at a cut (spec/18_system.md R401). -/
structure Cut where
  k : Nat := 0
  ces : Tab Ce := []
  fifos : Tab (List Token) := []
  v : Nat := 0
  j : Nat := 0
  base : Nat := 0
  oc : Nat := 0
  /-- the edge that a FIFO memory tile's block goes to, plus 1 -/
  fifoTo : Tab Nat := []
  /-- the address of its bank, and what was written there (R402) -/
  bankAt : Nat := 0
  bank : List Byte := []
  /-- the bytes of the owned addressed buffers: (memory tile, offset) as one number, and byte -/
  mem : List (Nat × Byte) := []
  /-- their tag tables -/
  tags : Tab (Nat × Nat) := []
deriving DecidableEq, Repr, Inhabited

end Sys2Proof.Machine

/-- What a bank of cuts restores once a program has written into it (spec/18_system.md R402 does not define its layout). Log
entry 131. -/
opaque Sys2Proof.Config.alteredCut : Nat → Sys2Proof.Machine.Cut

namespace Sys2Proof.Machine

/-- What a resident copy is doing. -/
inductive CopyPhase where
  /-- the load of R193 is under way -/
  | loading
  /-- loaded; the II counter starts when its cycle comes (R30) -/
  | waiting
  | running
  /-- stopped after instance TRIP − 1 (R194), or by lcancel (R197) -/
  | stopped
  /-- held by a fault: with or without a rollback, resumable or not (R403) -/
  | held (resumable : Bool)
  /-- a fault has stopped it: at the end of the cycle what its firings have still to do takes place, and then its last complete cut is
  restored (R403) -/
  | failing
  /-- held by `brk` (R409) -/
  | broken
  /-- a staged copy (R200) -/
  | staged
  /-- the old context of a sweep after s0 (R201) -/
  | sweeping
deriving DecidableEq, Repr, Inhabited

/-- A resident copy: one context of a region (spec/01_machine.md R25–R31). -/
structure Copy where
  ref : CopyRef := default
  tile : Nat := 0
  /-- slot index -/
  slot : Nat := 0
  /-- pages, ascending -/
  pages : List Nat := []
  kern : Kernel := {}
  phase : CopyPhase := .loading
  /-- the earliest cycle in which the load can be over (R193) -/
  loadAt : Nat := 0
  /-- the cut that the load restores (spec/18_system.md R408) -/
  restore : Option Cut := none
  /-- slot words, per cexy; staged copies get theirs in the sweep -/
  table : Tab (List Word48) := []
  ces : Tab Ce := []
  fifos : Tab (List Token) := []
  /-- tokens sent towards a FIFO-role memory tile and not yet queued (R170) -/
  fifoSent : Tab Nat := []
  /-- the edge that the block leaving a FIFO memory tile goes to, plus 1 (log entry 30) -/
  fifoTo : Tab Nat := []
  /-- tokens that each boundary output edge, by number, has delivered since the cut recorded last, and between the cut before
  it and that one (spec/18_system.md R403) -/
  pushed : Tab Nat := []
  pushedPrev : Tab Nat := []
  /-- pushes on each boundary output edge still to be discarded (R403) -/
  skip : Tab Nat := []
  v : Nat := 0
  j : Nat := 0
  base : Nat := 0
  oc : Nat := 0
  dc : Nat := 0
  /-- the last cycle in which the copy fired, plus 1 -/
  fired : Nat := 0
  /-- the first cycle in which it may fire again, after a cut, a resumption or an acquire -/
  resumeAt : Nat := 0
  /-- number and instance index of the cut recorded last -/
  cutK : Nat := 0
  cutJ : Nat := 0
  /-- last complete cut -/
  done : Option Cut := none
  /-- cut being written -/
  writing : Option Cut := none
  /-- tokens taken from boundary input queues since the last cut, newest last: (memory tile, token) (R401) -/
  log : List (Nat × Token) := []
  /-- the log of the cut before the one being written -/
  logPrev : List (Nat × Token) := []
  /-- it holds at the cut being written, and leaves its region when that is complete (R408) -/
  leave : Bool := false
  /-- the log cannot be relied on: a log write faulted (R401) -/
  logBad : Bool := false
  /-- a fence of R244 holds the region: for loads, for stores; and it is an acquire -/
  fenceLd : Bool := false
  fenceSt : Bool := false
  fenceAcq : Bool := false
  /-- the cycle in which the last slot load's data is written -/
  ldUntil : Nat := 0
  /-- the cycle of the last acquire: in unordered mode no load returns what stood before it (spec/10_ordering.md R256) -/
  floor : Nat := 0
deriving DecidableEq, Repr, Inhabited

/-! ## Launches (spec/08_launch.md) -/

/-- STATE of a launch (R197). -/
inductive LState where
  | queued | loading | running | staged | sweeping | evicted | ended | cancelled
deriving DecidableEq, Repr, Inhabited

/-- An action put off by a sweep (R203). -/
inductive Deferred where
  | pri (lid p : Nat)
  | evict (lid : Nat)
  | cancel (lid : Nat)
deriving DecidableEq, Repr, Inhabited

/-- The sweep of one copy (R201, R202). -/
structure SweepCopy where
  started : Bool := false
  /-- what the old context was before it started: running, stopped after its last instance, or held -/
  was : CopyPhase := .running
  s0 : Nat := 0
  /-- diagonals that have switched -/
  diag : Nat := 0
  complete : Bool := false
  /-- diagonals still to reverse -/
  back : Nat := 0
  /-- the lintel token on its way through the copy (R202) -/
  token : Nat := 0
deriving DecidableEq, Repr, Inhabited

/-- A sweep, kept with the old launch. -/
structure Sweep where
  newLid : Nat := 0
  copies : Tab SweepCopy := []
  reversing : Bool := false
  /-- the faulting CE's loc -/
  loc : Word := 0
  deferred : List Deferred := []
deriving DecidableEq, Repr, Inhabited

/-- An entry of a launch table (R186, R189): `accepted` is the cycle of acceptance, `offs` holds O_c and D_c of each copy. -/
structure Launch where
  used : Bool := false
  handle : Nat := 0
  state : LState := .queued
  pri : Nat := 0
  trip : Nat := 0
  csem : Nat := 0
  ncopies : Nat := 1
  staged : Bool := false
  partner : Nat := 0
  offs : List (Nat × Nat) := []
  accepted : Nat := 0
  /-- place in the order of ends, from 1; the least is reclaimed first -/
  endOrder : Nat := 0
  orphans : Nat := 0
  /-- cancelled, and its copies' writes and acknowledgements are awaited (R197) -/
  cancelling : Bool := false
  /-- copies evicted: their cuts (spec/18_system.md R408) -/
  saved : Tab (Option Cut) := []
  /-- copies that move at their next cut, to (tile, pages, slot) (R205) -/
  leaving : Tab (Option (Nat × List Nat × Nat)) := []
  /-- every copy is evicted at its next cut (R204) -/
  evicting : Bool := false
  sweep : Option Sweep := none
deriving DecidableEq, Repr, Inhabited

/-- A token parked for a port, in arrival order (R195). -/
structure Parked where
  ref : CopyRef := default
  mt : Nat := 0
  tok : Token := {}
deriving DecidableEq, Repr, Inhabited

/-- A compaction in progress on a wall (R205). -/
structure Compaction where
  moves : List CopyRef := []
  tile : Nat := 0
  sem : Nat := 0
  sigEn : Bool := false
  /-- accesses of the copies moved so far that the signal comes after -/
  waits : List (Nat × Nat) := []
deriving DecidableEq, Repr, Inhabited

/-! ## Memory paths (spec/09_memory.md) -/

/-- Who issued an access (spec/10_ordering.md R249). -/
inductive Issuer where
  | banker
  | region (c : CopyRef)
  | engine
  | sequencer
deriving DecidableEq, Repr, Inhabited

/-- Where translation of an access stands. -/
inductive Xlat where
  /-- waits for the walk of a 64 KiB virtual page -/
  | walking (page : Nat)
  | done (pa : Nat) (nc w : Bool)
  | failed (cause : Nat)
deriving DecidableEq, Repr, Inhabited

/-- A read-modify-write in flight. -/
structure Rmw where
  op : AtomicOp := .aadd
  uns : Bool := false
  b : Word := 0
  e : Word := 0
deriving DecidableEq, Repr, Inhabited

/-- An entry of a load table: a global load, or a global atomic (R216, R238). -/
structure LoadEnt where
  id : Nat := 0
  who : Issuer := .banker
  /-- the destination: a physical register of a CE, or a banker register -/
  ce : Nat := 0
  dst : PDst := .none
  g : Nat := 32
  va : Nat := 0
  size : Size := .b64
  uns : Bool := false
  order : Order := .plain
  scope : Scope := .tile
  xlat : Xlat := .failed 0
  rmw : Option Rmw := none
  /-- loc or PC of the instruction -/
  loc : Word := 0
  /-- stores that must be acknowledged first, by id (release atomics) -/
  after : List Nat := []
  cycle : Nat := 0
  /-- 0 not yet on its way; 1 in a crossbar; 2 past it, or served without one (R229) -/
  xb : Nat := 0
deriving DecidableEq, Repr, Inhabited

/-- What an entry of a store queue does when it is performed. -/
inductive StoreKind where
  | store (bytes : List Byte)
  /-- an `stmw` that has not left the ring stop: group, offset, data, and the copies counted for it at issue (R223) -/
  | fan (gid off : Nat) (bytes : List Byte) (copies : Nat)
  /-- a mirrored copy for a member tile: group, offset, data (R223) -/
  | mirror (member gid off : Nat) (bytes : List Byte)
  /-- a release increment of the own tile (R241) -/
  | sem (idx inc : Nat)
  /-- a remote increment (R242) -/
  | remote (xpkg : Bool) (pkg tile sem inc : Nat)
deriving DecidableEq, Repr, Inhabited

/-- An entry of a store queue (R216). -/
structure StoreEnt where
  id : Nat := 0
  /-- its place in the order of issue; the copies of an `stmw` keep that of the instruction -/
  seq : Nat := 0
  who : Issuer := .banker
  va : Nat := 0
  order : Order := .plain
  scope : Scope := .tile
  xlat : Xlat := .done 0 false true
  kind : StoreKind := .store []
  /-- bytes counted in TILE.SBPEND -/
  pend : Nat := 0
  loc : Word := 0
  /-- entries that must be over before this one leaves -/
  after : List Nat := []
  cycle : Nat := 0
  /-- 0 not yet on its way; 1 in a crossbar; 2 past it, or served without one (R229) -/
  xb : Nat := 0
  /-- sent to another package, whose acknowledgement is awaited -/
  sent : Bool := false
deriving DecidableEq, Repr, Inhabited

/-- A prefetch under way (R219). -/
structure PfEnt where
  id : Nat := 0
  level : PfLevel := .cb
  va : Nat := 0
deriving DecidableEq, Repr, Inhabited

/-- A translation (R232, R234): page number in units of 2^bits, page base, NC, W, X. -/
structure Tlb where
  bits : Nat := 16
  vpn : Nat := 0
  pa : Nat := 0
  nc : Bool := false
  w : Bool := false
  x : Bool := false
deriving DecidableEq, Repr, Inhabited

/-- A line of a tile cache bank or of a reserved way: physical line number, bytes, masks (R226, R227). -/
structure Line where
  line : Nat := 0
  /-- valid bytes: offset and byte -/
  bytes : Tab Byte := []
  /-- dirty bytes: offset, and the number of the store that wrote it, from 1 -/
  dirty : Tab Nat := []
  /-- order of use; larger is more recent -/
  use : Nat := 0
deriving DecidableEq, Repr, Inhabited

/-- A message in a wall crossbar or on its way to one (R229): the access it belongs to, its crossings to come as (wall, input,
output), the crossing it made last, its flits, and the cycle from which it lies in its injection buffer. -/
structure XMsg where
  tile : Nat := 0
  id : Nat := 0
  legs : List (Nat × Nat × Nat) := []
  last : Nat × Nat × Nat := (0, 0, 0)
  flits : Nat := 1
  at' : Nat := 0
deriving DecidableEq, Repr, Inhabited

/-- The shared port of a memory tile (R210): the cycle from which it is free, the requesters served so far (0 banker, 1 copy engine,
2 exponent engine, 3 sequencer, 4 crossbar), least recent first, and those that asked in vain, with the cycle. -/
structure Port where
  free : Nat := 0
  order : List Nat := []
  asks : List (Nat × Nat) := []
deriving DecidableEq, Repr, Inhabited

/-- An entry of a tag table (R220). -/
structure TagEnt where
  valid : Bool := false
  tag : Nat := 0
  use : Nat := 0
deriving DecidableEq, Repr, Inhabited

/-! ## Banker -/

/-- What a stalled banker waits for: the stalls that an event ends. -/
inductive Stall where
  | none
  /-- `wait`: semaphore, threshold, take, destination (R243) -/
  | wait (sem thr : Nat) (take acq : Bool) (d : BDst)
  /-- `sbar` (R247) -/
  | sbar (bar : Nat) (d : BDst)
  /-- `edrain` (R284) -/
  | edrain (chain : Nat) (d : BDst)
  /-- a reply of another tile, of the record store or of another package (`far`); bytes counted in TILE.SBPEND, and the
  owner slot of a KV write (spec/13_rings.md R308) -/
  | reply (d : BDst) (far : Bool) (pend : Nat) (slot : Option Nat)
  /-- the reply of an operation on a record that reads it, an acquire (spec/15_requests.md R342) -/
  | record (d : BDst)
  /-- an access to a system register outside the own tile's block (spec/18_system.md R418) -/
  | sysreg (wr : Bool) (off : Nat) (v : Word) (d : BDst)
  /-- `sysrdt` of another tile (spec/18_system.md R419) -/
  | traceRead (tile entry : Nat) (d : BDst)
deriving DecidableEq, Repr, Inhabited

/-- The banker's registers (spec/01_machine.md R39, spec/07_control.md R163). -/
structure Regs where
  g : Tab PReg := []
  f : Tab PBit := []
  lc : Tab Nat := []
  start : Tab Word := []
  stop : Tab Word := []
  active : Tab Bool := []
deriving DecidableEq, Repr, Inhabited

/-- `emul` under way: the handler's own registers, where its result goes, and the word (spec/18_system.md R411). -/
structure Emul where
  regs : Regs := {}
  pc : Word := 0
  /-- the frame's registers and EPC as they were taken up -/
  frame : Regs := {}
  epc : Word := 0
  d : BDst := .none
  word : Nat := 0
  /-- the word has been executed; its result is awaited -/
  ran : Bool := false
deriving DecidableEq, Repr, Inhabited

/-- A banker. -/
structure Banker where
  r : Regs := {}
  pc : Word := 0
  lbvalid : Bool := false
  lbbase : Word := 0
  lblen : Nat := 0
  lb : Tab Word := []
  /-- fetch cache: (word address, word) (R410) -/
  fcache : List (Nat × Nat) := []
  /-- cycles from which registers are ready: g 0–31, f 32–39, lc 40–42 (R113) -/
  ready : Tab Nat := []
  nextIssue : Nat := 0
  divBusy : Nat := 0
  stall : Stall := .none
  emul : Option Emul := none
  /-- answer of a remote operation, waiting for REPLY_ARRIVAL: a value, or the cause and the address of a fault -/
  answer : Option (List Nat) := none
  /-- BCTL.STATE: 0 running, 1 halted, 2 idle, 3 double-faulted (R417) -/
  mode : Nat := 1
  /-- BCTL.PC as written -/
  bctlPc : Word := 0
  /-- barrier arrivals: barrier → (epoch + 1 of the recorded arrival, sent) (R247, R248) -/
  arrived : Tab (Nat × Bool) := []
  /-- barrier releases received: barrier → epoch + 1 -/
  released : Tab Nat := []
deriving DecidableEq, Repr, Inhabited

/-! ## Engines -/

/-- Where a started command of a chain stands (spec/12_engines.md R280). -/
inductive Run where
  | idle
  /-- it waits on its semaphore -/
  | waiting
  /-- started; its accesses are under way -/
  | started
  /-- all its accesses are over: it completes at the start of the next cycle, where its increment arrives (R280) -/
  | ending
deriving DecidableEq, Repr, Inhabited

/-- A command chain (R278, R279). -/
structure Chain where
  en : Bool := false
  flt : Bool := false
  hold : Bool := false
  mt : Nat := 0
  base : Nat := 0
  sz : Nat := 0
  issued : Nat := 0
  done : Nat := 0
  run : Run := .idle
  /-- the record of the running command, as it was read (R280) -/
  record : Nat := 0
  /-- accesses of the running command performed so far: elements, or pieces of an area -/
  pos : Nat := 0
  /-- double words of the running copy's shape descriptor (R287) -/
  shape : List Nat := []
  /-- every access of the running command has been issued -/
  fin : Bool := false
  /-- the cycle from which the engine makes its next access -/
  next : Nat := 0
  /-- bytes counted in TILE.SBPEND and not yet acknowledged -/
  pend : Nat := 0
  /-- writes and tokens sent to another package and not yet acknowledged: number, bytes, and whether the running command sent it -/
  remote : List (Nat × Nat × Bool) := []
  /-- tokens a port copy has still to deliver: port address and token -/
  port : List (Word × Token) := []
  /-- exponent results still to be written -/
  results : Nat := 0
  /-- object stripes still to arrive: TAG -/
  stripes : List Nat := []
  /-- a collective instance the command has joined: (GID, instance) -/
  coll : Option (Nat × Nat) := none
deriving DecidableEq, Repr, Inhabited

/-- A request of an exponent lane (spec/05_float.md R143): a slot's, with its cycle of issue, a chain's or the sequencer's. -/
inductive ExpReq where
  | slot (c : CopyRef) (ce : Nat) (dst : PDst) (v : Word) (iss : Nat)
  | chain (mt off : Nat) (bytes : List Byte)
  | seq
deriving DecidableEq, Repr, Inhabited

/-- A lane of an exponent engine. -/
structure Lane where
  slots : List ExpReq := []
  chain : List ExpReq := []
  /-- consecutive cycles a chain request has waited -/
  waited : Nat := 0
  /-- requests started, with the cycle in which their result returns -/
  flight : List (Nat × ExpReq) := []
  /-- results of a chain that wait for the shared port of their memory tile: memory tile, offset, bytes -/
  back : List (Nat × Nat × List Byte) := []
deriving DecidableEq, Repr, Inhabited

/-- A participant of a collective instance (R294). -/
structure CollMember where
  tile : Nat := 0
  type : Nat := 0
  body : CColl := { src := 0, dst := 0, count := 0, gid := 0, rank := 0, op := .f32add }
  /-- in a group that spans packages: the bytes of SRC as they were read at the start of the command, or the cause of its fault -/
  src : Option (List Byte) := none
  fault : Nat := 0
deriving DecidableEq, Repr

/-- A stripe of a fetch that has been asked for (R290, R430). -/
structure Stripe where
  tag : Nat := 0
  tile : Nat := 0
  va : Nat := 0
  len : Nat := 0
  /-- bytes received: offset and byte -/
  got : Tab Byte := []
deriving DecidableEq, Repr, Inhabited

/-! ## Rings, KV unit and sequencer -/

/-- A query token diverted into the query FIFO, with its side data (spec/14_attention.md R327). -/
structure QTok where
  /-- first entry and bytes -/
  start : Nat := 0
  size : Nat := 0
  ret : Bool := false
  e : Nat := 0
  list : Nat := 0
  lfirst : Nat := 0
  lcm1 : Nat := 0
  /-- LI, once `pgnext` has set it (R328) -/
  li : Option Nat := none
  /-- the ring message whose slots are still being written into the FIFO; 0: it is whole -/
  msg : Nat := 0
deriving DecidableEq, Repr, Inhabited

/-- A slot of a ring (spec/13_rings.md R296): slot `k` of the `n` of a message, counted as on a course ring, where a slot of a wall ring
carries two; and where it is addressed. Message 0 is traffic that is not followed, which leaves the ring after `hops` stops. -/
structure RSlot where
  msg : Nat := 0
  k : Nat := 0
  n : Nat := 1
  /-- it belongs to a query token, which travels clockwise -/
  query : Bool := false
  pkg : Nat := 0
  tile : Nat := 0
  hops : Nat := 0
deriving DecidableEq, Repr, Inhabited

/-- A stop of a ring in one direction (R296, R297). -/
structure RStop where
  /-- slots to be inserted: a tile's injection queue, or what has crossed to this ring (R298) -/
  queue : List RSlot := []
  /-- a slot of traffic that is not followed is ready: the stops it has to go -/
  other : Option Nat := none
  /-- such traffic was granted last -/
  turn : Bool := true
  /-- consecutive occupied slots that have passed while a slot was ready -/
  pass : Nat := 0
  latch : Option RSlot := none
  /-- the cycle of the last splice, plus 1 -/
  spliced : Nat := 0
deriving DecidableEq, Repr, Inhabited

/-- A slot in the package gateway's buffer, or on a link of the package ring behind it (R298): the wall it left, 4 for the plinth; whether
it is on the link, in which direction (0 clockwise, 1 counter-clockwise, 2 a spoke), and until when. -/
structure LinkSlot where
  slot : RSlot := {}
  wall : Nat := 0
  sent : Bool := false
  dir : Nat := 0
  at' : Nat := 0
deriving DecidableEq, Repr, Inhabited

/-- What the first slot of a query token decided at a stop, for the slots behind it (R304). -/
inductive RingWay where
  | taken
  | gone
  | lap
  | onward (pkg tile : Nat)
deriving DecidableEq, Repr, Inhabited

/-- An operation on a KV set (R307, R308, R316). -/
inductive KvOp where
  | alloc (slot inc : Nat)
  | ref (set : Nat)
  | free (set : Nat)
  | pin (set : Nat)
  | unpin (set : Nat)
  | write (set slot inc page pos : Nat) (tent : Bool) (row : List Byte)
  | commit (set slot inc : Nat) (mask : Word)
  /-- the entry and the bytes of a set, read for a spill; its masks, and its bytes, written by a recall (spec/15_requests.md R352) -/
  | image (set : Nat)
  | masks (set vmask tmask : Nat)
  | fill (set : Nat) (bytes : List Byte)
deriving DecidableEq, Repr, Inhabited

/-- An operation on its way to a KV unit. -/
structure KvMsg where
  op : KvOp := .ref 0
  /-- the tile of the issuing banker; none for an operation whose answer nobody waits for -/
  from' : Option Nat := none
deriving DecidableEq, Repr, Inhabited

/-- Registers of a tile's KV pool, match unit and query FIFO. -/
structure RingStop where
  rscfg : Word := 0
  qdrop : Nat := 0
  qskip : Nat := 0
  /-- match entries, 128 bits -/
  entries : Tab Nat := []
  kvpool : Word := 0
  kvstat : Word := 0
  nset : Nat := 0
  /-- KVFREE.HEAD -/
  head : Nat := 0xFFFFF
  kvq : List KvMsg := []
  /-- query FIFO: tokens in arrival order, entries in use, next entry -/
  fifo : List QTok := []
  used : Nat := 0
  next : Nat := 0
deriving DecidableEq, Repr, Inhabited

/-- A microword that has begun and waits between two of its accesses. -/
inductive SeqMid where
  | none
  /-- `pgload`: its set is pinned, and its page waits to be streamed: set, address of the page, VAL (R329) -/
  | page (set pa : Nat) (vals : List Byte)
  /-- `fold`: its set is pinned: set, address of the page, block, d, positions still to fold, their number so far, and bytes counted in
  TILE.SBPEND (R334) -/
  | fold (set pa rub dim : Nat) (left : List Nat) (n pend : Nat)
deriving DecidableEq, Repr, Inhabited

/-- An attention sequencer (spec/14_attention.md R318–R320). -/
structure Seq where
  a : Tab PReg := []
  pc : Nat := 0
  store : Tab Nat := []
  ascfg : Word := 0
  entry : Nat := 0
  /-- 0 idle, 1 running, 2 waiting, 3 faulted -/
  st : Nat := 0
  cause : Nat := 0
  acause : Nat := 0
  /-- the cycle from which it may issue -/
  nextIssue : Nat := 0
  /-- a stop is asked for (`asstat` operation 2) -/
  stopReq : Bool := false
  /-- a start is on its way (R320) -/
  starting : Bool := false
  /-- the test `mwait` waits on: semaphore, threshold, take, destination -/
  mwSem : Nat := 0
  mwThr : Nat := 0
  mwTake : Bool := false
  mwDst : Nat := 0
  /-- exponent requests not yet returned -/
  engine : Nat := 0
  mid : SeqMid := .none
deriving DecidableEq, Repr, Inhabited

/-! ## Tile -/

/-- A traced event of the current cycle: its place in the order of R414, its entry, whether the entry is recorded, and, when it
fires the trigger, whether TRIG is posted and VALUE (spec/18_system.md R412 to R414). -/
structure TraceItem where
  key : Nat := 0
  entry : Nat := 0
  kept : Bool := false
  fire : Option (Bool × Nat) := none
deriving DecidableEq, Repr, Inhabited

/-- Trap, snapshot and debug registers of a tile (spec/18_system.md). -/
structure TileSys where
  tvec : Word := 0
  tfbase : Word := 0
  ebrk : Bool := false
  ten : Bool := false
  snapbase : Word := 0
  /-- TRACECTL without FROZEN -/
  tracectl : Word := 0
  frozen : Bool := false
  trigctl : Word := 0
  fired : Bool := false
  /-- entries still to record after the trigger, plus 1; 0: not triggered -/
  post : Nat := 0
  lost : Nat := 0
  wrap : Bool := false
  wptr : Nat := 0
  trace : Tab Nat := []
  /-- events of the current cycle (R414) -/
  traceBuf : List TraceItem := []
  platch : Tab Word := []
  platchB : Word := 0
  posted : List Posted := []
  /-- faults waiting for a place in the queue (R396) -/
  posters : List Posted := []
deriving DecidableEq, Repr, Inhabited

/-- Memory registers and queues of a tile. -/
structure TileMem where
  /-- BKMT.MASK (R209) -/
  bkmt : Nat := 1
  mwin : Tab Word := []
  mwdrop : Nat := 0
  ports : Tab Port := []
  tags : Tab TagEnt := []
  /-- the cycle of the last change of a tag table, plus 1, and what the tables held at the start of that cycle -/
  tagsAt : Nat := 0
  tagsWas : Tab TagEnt := []
  loads : List LoadEnt := []
  stores : List StoreEnt := []
  pfs : List PfEnt := []
  nextId : Nat := 0
  tlb : List Tlb := []
  lines : List Line := []
  useClock : Nat := 0
  /-- lines that an issuer has read past the bank's copy of them -/
  reread : List (Issuer × Nat) := []
  /-- in unordered mode: the cycle in which an issuer last passed an acquire (spec/10_ordering.md R256) -/
  floors : List (Issuer × Nat) := []
  /-- in unordered mode: the cycle in which an issuer last had a read return or a `wait` pass (R244, R256) -/
  seen : List (Issuer × Nat) := []
  /-- memory tiles given up by their owner while accesses were still queued at their ports (spec/09_memory.md R208) -/
  closing : List Nat := []
  /-- walks that a fetch, an engine, the sequencer or a prefetch of the tile waits for, by page × 8 + who asks: 1 under way, 2 failed, 3
  failed on an uncorrectable error; 4 and 5 the same once the asker has had a turn since (spec/09_memory.md R234; log entry 137) -/
  asked : Tab Nat := []
  sbpend : Nat := 0
deriving DecidableEq, Repr, Inhabited

/-- A tile. -/
structure Tile where
  bk : Banker := {}
  seq : Seq := {}
  ring : RingStop := {}
  sys : TileSys := {}
  mem : TileMem := {}
  sem : Tab Nat := []
  launches : Tab Launch := []
  /-- identifiers given or skipped since reset; modulo 2^16 the identifier counter (R189) -/
  lidNext : Nat := 0
  /-- launches ended since reset -/
  ends : Nat := 0
  orphan : Nat := 0
  wheel : List Nat := []
  occ : Tab Nat := []
  chains : Tab Chain := []
  lanes : Tab Lane := []
  /-- cycle from which the block cell of each CE, by its position in the tile, is free (spec/11_systolic.md R265) -/
  cellFree : Tab Nat := []
  /-- instance counts of collective groups (R293) -/
  collCount : Tab Nat := []
  /-- what bytes of the memory tiles held before the writes of this cycle (R211), in unordered mode of the last 64 cycles (R256),
  oldest first: cycle, memory tile × 65,536 + offset, the byte, and the writing CE -/
  hist : List (Nat × Nat × Byte × Option (CopyRef × Nat)) := []
deriving DecidableEq, Repr, Inhabited

/-! ## Wall -/

/-- A page walk to be made: the miss of a 64 KiB virtual page (R234). -/
structure Walk where
  page : Nat := 0
deriving DecidableEq, Repr, Inhabited

/-- A wall. -/
structure Wall where
  wayres : Nat := 0
  tlb : List Tlb := []
  walks : List Walk := []
  /-- lines in reserved ways -/
  lines : List Line := []
  /-- crossbar: per output the cycle from which it is free, and the inputs it has granted, least recent first (R229) -/
  xfree : Tab Nat := []
  xorder : Tab (List Nat) := []
  compaction : Option Compaction := none
  /-- the launch being evicted for another: (issuer, LID) -/
  evicting : Option (Nat × Nat) := none
deriving DecidableEq, Repr, Inhabited

/-! ## Plinth -/

/-- An operation on the request-record store (spec/15_requests.md R342, R354; 16 R369–R371; 17 R386, R388). -/
inductive RecOp where
  | read (ref : Nat) (i : Nat)
  | write (ref : Nat) (i : Nat) (v : Nat)
  | fault (ref : Nat) (code : Nat)
  | state (ref : Nat)
  | cancel (ref : Nat)
  | faults (ref : Nat)
  | spill (ref : Nat)
  | recall (ref : Nat)
  | admitImg (img : List Byte) (slot : Nat) (any : Bool)
  | commit (slot inc kind first n nacc : Nat) (y : List Nat)
  | rngblk (ref : Nat) (p : Nat) (rsv : Bool) (dst : Nat)
  | close (ref : Nat)
deriving DecidableEq, Repr, Inhabited

/-- A record operation on its way to the store; `from'` is the issuing tile, none where no answer is awaited. -/
structure RecMsg where
  op : RecOp := .state 0
  from' : Option Nat := none
deriving DecidableEq, Repr, Inhabited

/-- A request frame that a Quarry works on, once its checks are passed (spec/17_text.md R379). -/
inductive QHold where
  | none
  /-- it waits for a prompt buffer: port, peer, frame, token sequence -/
  | buffer (port : Nat) (peer : Word) (frame : List Byte) (seq : List Nat)
  /-- its tokens lie in its buffer; its image waits for a place in the arrival queue -/
  | post (img : List Byte)
deriving DecidableEq, Repr, Inhabited

/-- A Quarry (spec/17_text.md R388). -/
structure Quarry where
  /-- 0 idle, 1 listening, 2 stopping -/
  st : Nat := 0
  ports : Nat := 0
  posted : Nat := 0
  errors : Nat := 0
  lastErr : Nat := 0
  held : QHold := .none
deriving DecidableEq, Repr, Inhabited

/-- A Setter (R383, R388). -/
structure Setter where
  running : Bool := false
  sent : Nat := 0
  wakes : List Nat := []
deriving DecidableEq, Repr, Inhabited

/-- A vocabulary in memory on the plinth (R376, R377). -/
structure Vocab where
  vid : Nat := 0
  bytes : List Byte := []
deriving DecidableEq, Repr, Inhabited

/-- A superstep barrier (spec/10_ordering.md R246). -/
structure Sbar where
  epoch : Nat := 0
  en : Bool := false
  arr : Nat := 0
  count : Nat := 0
  /-- arrivals sent and not yet counted, oldest first; tiles counted in this step -/
  queue : List Nat := []
  tiles : List Nat := []
deriving DecidableEq, Repr, Inhabited

/-- A collective group: CGRP and the instances under way (spec/12_engines.md R293, R294). -/
structure Group where
  cgrp : Word := 0
  insts : Tab (List CollMember) := []
deriving DecidableEq, Repr, Inhabited

/-- Registers and queues of the batch former (R345). -/
structure Bf where
  cfg : Word := 0
  model : Word := 0
  avail : Nat := 0
  man : Word := 0
  spill : Word := 0
  pass : Nat := 0
  bad : Nat := 0
  /-- staged images, oldest first -/
  arrq : List (List Byte) := []
  course : Tab Word := []
deriving DecidableEq, Repr, Inhabited

/-- The plinth. -/
structure Plinth where
  ptroot : Word := 0
  sigdrop : Nat := 0
  seed : Nat := 0
  unord : Bool := false
  /-- the mode as written, while it waits (R255) -/
  unordReq : Option Bool := none
  frz : Bool := false
  frozen : Bool := false
  scansel : Word := 0
  qrbuf : Word := 0
  sampcfg : Word := 0
  salt : Tab Word := []
  sbar : Tab Sbar := []
  bf : Bf := {}
  cgrp : Tab Group := []
  /-- the configuration store -/
  cfg : Tab CfgEnt := []
  parked : List Parked := []
  recq : List RecMsg := []
  quarry : Tab Quarry := []
  setter : Tab Setter := []
  vocabs : List Vocab := []
  /-- prompt buffers taken -/
  bufs : List Nat := []
  /-- stripes of fetches in flight and the next TAG -/
  stripes : List Stripe := []
  nextTag : Nat := 1
deriving DecidableEq, Repr, Inhabited

/-- A CXL port (spec/19_boundary.md R422, R433). -/
structure Cxl where
  en : Bool := false
  up : Bool := false
  size : Nat := 0
  /-- the link was lost after it had been populated (R433) -/
  lost : Bool := false
  /-- a write of EN = 0 that waits for the port's accepted accesses -/
  off : Option Word := none
deriving DecidableEq, Repr, Inhabited

/-- The management block (R422). -/
structure Mgmt where
  booterr : Nat := 0
  bank : Nat := 0
  rcause : Nat := 0
  state : Nat := 0
  pend : Bool := false
  /-- the cycle from which a pending reset is taken -/
  resetAt : Nat := 0
  pwrCur : Nat := 0
  pwrReq : Nat := 0
  droop : Nat := 0
  /-- a droop episode is under way: cycles stretched in it -/
  sag : Option Nat := none
  arcEn : Bool := false
  arcUp : Bool := false
  arcDup : Bool := false
  arcSize : Nat := 0
  arcNum : Nat := 0
  arcList : List Nat := []
  /-- events, oldest first: code and data -/
  evq : List (Nat × Nat) := []
  evlost : Nat := 0
  cxl : Tab Cxl := []
  flashSt : Nat := 0
  flashErr : Nat := 0
  flashAddr : Nat := 0
  /-- the operation under way -/
  flashOp : Nat := 0
  attestGo : Bool := false
  attestDone : Bool := false
  attestAddr : Nat := 0
  srv : Tab Word := []
deriving DecidableEq, Repr, Inhabited

/-- What the flash holds, and what the device was built with (R424–R426, R433, R434). -/
structure Hw where
  bank0 : List Byte := []
  bank1 : List Byte := []
  active : Nat := 0
  config : List Byte := []
  table : List Byte := []
  /-- minimum SVN of kinds 1 to 3 -/
  minSvn : Tab Nat := []
  /-- the degradation table in force: a list of 384 bytes, empty for none retired -/
  shape : List Byte := []
  /-- on-module second tier, GB -/
  modGb : Nat := 3072
deriving DecidableEq, Repr, Inhabited

/-- A message to another package. -/
inductive ArcMsg where
  | store (id : Nat) (va : Nat) (bytes : List Byte)
  | sem (id : Nat) (tile sem inc : Nat)
  | port (id : Nat) (dst : Nat) (value : Nat) (i total : Nat)
  /-- the acknowledgement of another package's write, token or increment, with the cause of its fault, 0 for none -/
  | ack (id : Nat) (cause : Nat)
  | query (src tile : Nat) (bytes : List Byte)
  /-- a query token that a stop of the other package sent was discarded here (spec/13_rings.md R304) -/
  | dropped (stop : Nat)
  | kv (tile : Nat) (op : KvOp)
  /-- a KV unit's answer: status and payload, or the cause and the address of a fault -/
  | kvAnswer (status payload : Nat)
  /-- a request fault for another package's record -/
  | fault (ref code : Nat)
  | coll (gid : Nat) (m : CollMember) (src : List Byte)
  /-- a participant here has faulted an instance (spec/12_engines.md R294) -/
  | collFault (gid : Nat) (cause : Nat)
deriving DecidableEq, Repr

/-- What leaves the package, oldest first: frames (port, peer, bytes), object-read requests (SRV and packet), messages to other packages
and answers of KV units to them, with the arcade port that they leave by (spec/19_boundary.md R431), and answers to the host. -/
inductive OutMsg where
  | frame (port : Nat) (peer : Word) (bytes : List Byte)
  | objRead (srv : Nat) (packet : List Byte)
  | hello (nums : List Nat)
  | arcade (port pkg : Nat) (m : ArcMsg)
  | hostData (bytes : List Byte)
  | hostAbort
  /-- the poisoned response to a CXL.mem read that faulted (spec/19_boundary.md R421) -/
  | hostPoison
  | hostReg (v : Word)
  /-- MSI-X vector 0 (R421) -/
  | interrupt
deriving DecidableEq, Repr

/-- What a message on the rings is: a query token, a store-queue entry of a tile, an operation for a KV unit, or a message to another
package. -/
inductive RingLoad where
  | query (bytes : List Byte)
  | store (tile id : Nat)
  | kv (m : KvMsg)
  | out (m : OutMsg)
deriving DecidableEq, Repr

/-- A message on the rings: its number, the tile that injected it, 1024 for the plinth, and, of a query token, what was decided at the
stops that its slots still pass. -/
structure RingMsg where
  id : Nat := 0
  load : RingLoad := .query []
  src : Nat := 0
  ways : Tab RingWay := []
deriving DecidableEq, Repr

/-- The rings (spec/01_machine.md R20, spec/13_rings.md R296 to R298): course rings 0 to 63 and wall rings 64 to 67, of 17 stops each; of a
course ring stop 16 is the bridge, of a wall ring the gateway. Only rings that carry a message that is followed are kept. -/
structure Net where
  /-- rings kept, with the direction: 0 clockwise -/
  live : List (Nat × Nat) := []
  /-- by (2 × ring + direction) × 17 + stop -/
  slots : Tab (Option RSlot) := []
  stops : Tab RStop := []
  links : List LinkSlot := []
  /-- the plinth's buffer towards the arcade ring (R298) -/
  outq : List RSlot := []
  msgs : List RingMsg := []
  nextMsg : Nat := 1
  /-- tiles whose stop has a first slot to examine in this cycle -/
  exams : List Nat := []
deriving DecidableEq, Repr, Inhabited

/-! ## Acts: what lands at a fixed later cycle -/

/-- An access to a cell record or a sampling list at t + 1 (spec/11_systolic.md R264). -/
structure CellAct where
  ref : CopyRef := default
  ce : Nat := 0
  entry : Nat := 0
  op : CellOp := .sclr
  /-- `stopk` instead of `op` -/
  topk : Bool := false
  mt : Nat := 0
  off : Nat := 0
  b : Word := 0
  c : Word := 0
  tok : Token := {}
  /-- format of `sfeedw`; format register of `sfeed`'s edge -/
  fmt : Nat := 0
  dst : PDst := .none
deriving DecidableEq, Repr, Inhabited

/-- What takes place at the start of a later cycle. -/
inductive Act where
  /-- a value reaches a CE's result register and its destination (R50, R112); `keep` leaves the result register -/
  | write (c : CopyRef) (ce : Nat) (dst : PDst) (v : Val) (keep : Bool)
  /-- end-of-stream reaches an edge (R174) -/
  | eos (c : CopyRef) (ce : Nat) (ch : Nat)
  /-- the plumb marker of a cut reaches an edge (spec/18_system.md R400) -/
  | marker (c : CopyRef) (ce : Nat) (ch : Nat) (cut : Nat)
  /-- a scale latch is written (R137) -/
  | latch (c : CopyRef) (ce : Nat) (ch : Nat) (scale : Nat)
  /-- bytes of a memory tile are written -/
  | store (who : Option (CopyRef × Nat)) (tile mt off : Nat) (bytes : List Byte)
  /-- a decompressed panel is written (R264) -/
  | panel (c : CopyRef) (ce : Nat) (tile mt off : Nat) (bytes : List Byte)
  /-- an origin reaches its context slot's latch, if that is empty (spec/18_system.md R399) -/
  | origin (c : CopyRef) (o : Word)
  | tset (who : Option CopyRef) (tile mt slot tag : Nat)
  | tclr (who : Option CopyRef) (tile mt slot : Nat)
  | tuse (who : Option CopyRef) (tile mt slot : Nat)
  /-- a slot atomic on a memory tile (R238) -/
  | atomic (c : CopyRef) (ce : Nat) (tile mt off : Nat) (sz : Size) (m : Rmw) (dst : PDst)
  | cell (a : CellAct)
  | semAdd (tile sem inc : Nat)
  | semTake (tile sem n : Nat)
  /-- the running command of a chain completes (spec/12_engines.md R280) -/
  | cmdDone (tile chain : Nat)
deriving DecidableEq, Repr, Inhabited

/-- An act with its cycle, its place among the acts of that cycle (results 0, signals 1, slot writes 2, scale latches 3; then
ascending `key`), and the cycle its slot was issued in (R112). -/
structure Due where
  at' : Nat := 0
  phase : Nat := 0
  key : Nat := 0
  iss : Nat := 0
  act : Act := default
deriving DecidableEq, Repr, Inhabited

/-- A semaphore increment made as a release: it comes when the accesses before it are over, given by tile and number. -/
structure Signal where
  tile : Nat := 0
  sem : Nat := 0
  waits : List (Nat × Nat) := []
deriving DecidableEq, Repr, Inhabited

/-! ## The machine -/

/-- The state of the package. -/
structure State where
  /-- fabric cycles since reset (spec/02_words.md R58) -/
  cyc : Nat := 0
  /-- who acts next; empty: `Config.freeTurn` chooses (the model's own field, log entry 1) -/
  agenda : List Turn := []
  /-- free values drawn so far (the model's own field, log entry 1) -/
  draws : Nat := 0
  /-- tile and chain of the executor acting (the model's own field, log entry 1) -/
  actor : Nat := 0
  actorChain : Nat := 0
  /-- the cycle of the last turn, plus 1: regions fire before the turns of their cycle (the model's own field, log entry 1) -/
  turnAt : Nat := 0
  /-- physical memory: addresses rising, no listed zero (spec/01_machine.md R39, R41) -/
  mem : List Host.Cell := []
  tiles : Tab Tile := []
  walls : Tab Wall := []
  plinth : Plinth := {}
  mgmt : Mgmt := {}
  hw : Hw := {}
  copies : List Copy := []
  due : List Due := []
  /-- number of the store that made a byte dirty last -/
  stamp : Nat := 0
  /-- in unordered mode: what bytes of memory held before the writes performed at their home in the last 64 cycles, oldest first: cycle,
  address, byte, and the issuer of the write, a banker or a region with its tile (spec/10_ordering.md R256) -/
  was : List (Nat × Nat × Byte × Option (Nat × Issuer)) := []
  /-- messages in the crossbars, in the order injected (spec/09_memory.md R229) -/
  xbar : List XMsg := []
  /-- the rings -/
  net : Net := {}
  /-- the error that an access of storage of the turn is still to meet, in the form of `Turn.ecc` (the model's own field, log entries 1
  and 139) -/
  strike : Nat := 0
  /-- shared ports, by tile and memory tile, that accesses of the turn have taken already: its next access there follows in the next cycle
  (the model's own field, log entry 138) -/
  held : List (Nat × Nat) := []
  /-- releases at wall scope that wait for accesses of others (spec/10_ordering.md R254) -/
  signals : List Signal := []
  /-- events whose cycle is fixed -/
  sched : List (Nat × Instr) := []
  out : List OutMsg := []
deriving DecidableEq, Repr, Inhabited

/-- Reasons a step may stop. No instruction of this device stops the model: every exception the spec describes is taken as
a next state, and a double fault stops one banker only (R398). -/
inductive Fault where
  /-- Raised by nothing. Safe. -/
  | none
deriving DecidableEq, Repr, Inhabited

/-- Reasons an instruction has no meaning. -/
inductive Refusal where
  /-- Raised by `exec` for an instruction that is not modelled. Safe. -/
  | notModelled (mnemonic : String)
deriving DecidableEq, Repr, Inhabited

/-- The machine right after reset: every field at the value of the Reset column, nothing loaded, every banker halted. -/
def State.reset : State := {}

end Sys2Proof.Machine
end

