-- ==== Sys2Proof/Machine/Memory.lean ====
section
/-!
DEFINITION. The byte memory behind every physical address: one list of cells in canonical form (addresses strictly rising,
no zero listed, an unlisted address reads zero, spec/01_machine.md R39), and the physical map of R41: which part of the
package an address belongs to, and whether it is populated (R42).
-/
namespace Sys2Proof.Machine

/-- The byte at an address; zero where none is listed (R39; log entry 2 for CXL memory). -/
def readByte : List Host.Cell → Nat → Byte
  | [], _ => 0
  | (k, v) :: m, a => if k = a then v else readByte m a

/-- Insertion of a byte at its place. -/
def putByte : List Host.Cell → Nat → Byte → List Host.Cell
  | [], a, b => [(a, b)]
  | (k, v) :: m, a, b => if a < k then (a, b) :: (k, v) :: m else if k = a then (a, b) :: m else (k, v) :: putByte m a b

/-- Removal of the byte at an address. -/
def dropByte : List Host.Cell → Nat → List Host.Cell
  | [], _ => []
  | (k, v) :: m, a => if k = a then dropByte m a else (k, v) :: dropByte m a

/-- The memory with one byte written; zero is what an unlisted address reads as, so it is not listed. -/
def writeByte (m : List Host.Cell) (a : Nat) (b : Byte) : List Host.Cell := if b = 0 then dropByte m a else putByte m a b

/-- The memory with consecutive bytes written. -/
def writeBytes : List Host.Cell → Nat → List Byte → List Host.Cell
  | m, _, [] => m
  | m, a, b :: bs => writeBytes (writeByte m a b) (a + 1) bs

/-- `n` bytes from an address. -/
def readBytes (m : List Host.Cell) : Nat → Nat → List Byte
  | _, 0 => []
  | a, n + 1 => readByte m a :: readBytes m (a + 1) n

/-- Every address listed is at least `lo`, they rise strictly, and no byte is zero. -/
def cellsFrom : Nat → List Host.Cell → Bool
  | _, [] => true
  | lo, (k, v) :: m => decide (lo ≤ k) && decide (v ≠ 0) && cellsFrom (k + 1) m

/-- The canonical form of memory. -/
def Memory.wf (m : List Host.Cell) : Bool := cellsFrom 0 m

/-- Cells from `lo` on with an address below `hi` removed: what zero-filling an area leaves. -/
def clearCells (lo hi : Nat) : List Host.Cell → List Host.Cell
  | [] => []
  | (k, v) :: m => if lo ≤ k ∧ k < hi then clearCells lo hi m else (k, v) :: clearCells lo hi m

/-- The listed cells of an area, with their addresses relative to it. -/
def cellsOf (lo hi : Nat) : List Host.Cell → List (Nat × Byte)
  | [] => []
  | (k, v) :: m => if lo ≤ k ∧ k < hi then (k - lo, v) :: cellsOf lo hi m else cellsOf lo hi m

/-- Cells written one by one at a base. -/
def writeCells (base : Nat) : List (Nat × Byte) → List Host.Cell → List Host.Cell
  | [], m => m
  | (k, v) :: l, m => writeCells base l (writeByte m (base + k) v)

/-- A little-endian number read from memory. -/
def readNat (m : List Host.Cell) (a n : Nat) : Nat := leNat (readBytes m a n)

/-! ## The shape in force (spec/19_boundary.md R434, R432) -/

/-- Bit `i` of the degradation table from byte offset `off`. -/
def shapeBit (h : Hw) (off i : Nat) : Bool :=
  match h.shape with
  | [] => false
  | l => bitOf ((l.getD (off + i / 8) 0).toNat) (i % 8)

/-- Retired bits among `n` from bit `i` of the area at `off`. -/
def shapeCount (h : Hw) (off i : Nat) : Nat → Nat
  | 0 => 0
  | n + 1 => b2n (shapeBit h off (i + n)) + shapeCount h off i n

/-- Live lanes of ring link `k` in a direction (0 clockwise). -/
def ringLanes (h : Hw) (k d : Nat) : Nat := 64 - shapeCount h 0x110 (128 * k + 64 * d) 64

/-- Live lanes of the spoke of wall `w` in a direction (0 towards the plinth). -/
def spokeLanes (h : Hw) (w d : Nat) : Nat := 32 - shapeCount h 0x150 (64 * w + 32 * d) 32

/-- The code of a width: 0 down, 1 to 4 quarters of the full width (R432, R434). -/
def widthCode (lanes full : Nat) : Nat := 4 * lanes / full

/-- A wall that can reach neither the plinth nor a neighbour (R432). -/
def wallCut (h : Hw) (w : Nat) : Bool :=
  let up := widthCode (spokeLanes h w 0) 32 == 0
  let cw := widthCode (ringLanes h w 0) 64 == 0
  let ccw := widthCode (ringLanes h ((w + 3) % 4) 1) 64 == 0
  up && cw && ccw

/-- The tile of physical index `i` is retired (R17, R432). -/
def retired (h : Hw) (i : Nat) : Bool :=
  match h.shape with
  | [] => false
  | _ => shapeBit h 0 i || wallCut h (i / 256)

/-- Live tiles among physical indexes below `n`. -/
def liveBelow (h : Hw) : Nat → Nat
  | 0 => 0
  | n + 1 => liveBelow h n + b2n (!retired h n)

/-- Number of logical tiles (R17). -/
def tileCount (h : Hw) : Nat :=
  match h.shape with
  | [] => 1024
  | _ => liveBelow h 1024

/-- The physical index from which on `n` live tiles are still to be skipped. -/
def physFrom (h : Hw) : Nat → Nat → Nat → Nat
  | 0, i, _ => i
  | k + 1, i, n => if retired h i then physFrom h k (i + 1) n else match n with
    | 0 => i
    | n + 1 => physFrom h k (i + 1) n

/-- The physical index of logical tile `n` (R17). -/
def physOf (h : Hw) (n : Nat) : Nat :=
  match h.shape with
  | [] => n
  | _ => physFrom h 1024 0 n

/-- The wall of a logical tile. -/
def wallOf (h : Hw) (n : Nat) : Nat := physOf h n / 256

/-- Live pseudo-channels of slice `j` of wall `w` (spec/09_memory.md R227). -/
def sliceChannels (h : Hw) (w j : Nat) : Nat :=
  match h.shape with
  | [] => 18
  | _ => 18 - shapeCount h 0x080 (w * 288 + 18 * j) 18

/-- The least of `sliceChannels` over slices below `n`. -/
def minChannels (h : Hw) (w : Nat) : Nat → Nat
  | 0 => 18
  | n + 1 => min (sliceChannels h w n) (minChannels h w n)

/-- Populated bytes of a wall's HBM4E: 16 × NMIN × 635 MiB (R227, R434). -/
def hbmBytes (h : Hw) (w : Nat) : Nat :=
  let n := match h.shape with
    | [] => 18
    | _ => minChannels h w 16
  16 * n * 635 * 2 ^ 20

/-! ## The physical map (R41) -/

/-- Where a physical address lies. -/
inductive Place where
  | hbm (wall off : Nat)
  | tileMem (tile mt off : Nat)
  | weight (tile off : Nat)
  | record (slot off : Nat)
  | module (off : Nat)
  | cxl (port off : Nat)
  /-- outside every populated part: BUS_HOLE (R42) -/
  | hole
deriving DecidableEq, Repr, Inhabited

/-- The base of tile memory, of the weight buffers and of the record store. -/
def tileMemBase : Nat := 0x10000000000
/-- Base of the weight buffers. -/
def weightBase : Nat := 0x10040000000
/-- Base of the request-record store. -/
def recordBase : Nat := 0x10080000000
/-- Base of the on-module second tier. -/
def moduleBase : Nat := 0x100000000000
/-- Base of the CXL windows. -/
def cxlBase : Nat := 0x140000000000

/-- The place of a physical address. -/
def placeOf (h : Hw) (cx : Tab Cxl) (pa : Nat) : Place :=
  if 2 ^ 45 ≤ pa then .hole
  else if pa < tileMemBase then
    let w := pa / 2 ^ 38
    let off := pa % 2 ^ 38
    if off < hbmBytes h w then .hbm w off else .hole
  else if pa < weightBase then
    let x := pa - tileMemBase
    let t := x / 2 ^ 20
    if t < tileCount h then .tileMem t (x / 2 ^ 16 % 16) (x % 2 ^ 16) else .hole
  else if pa < weightBase + 2 ^ 27 then
    let x := pa - weightBase
    let t := x / 2 ^ 17
    if t < tileCount h then .weight t (x % 2 ^ 17) else .hole
  else if recordBase ≤ pa ∧ pa < recordBase + 2 ^ 22 then
    let x := pa - recordBase
    .record (x / 2 ^ 10) (x % 2 ^ 10)
  else if moduleBase ≤ pa ∧ pa < cxlBase then
    let x := pa - moduleBase
    if x < h.modGb * 10 ^ 9 then .module x else .hole
  else if cxlBase ≤ pa ∧ pa < cxlBase + 6 * 2 ^ 41 then
    let x := pa - cxlBase
    let p := x / 2 ^ 41
    let c := cx.get p
    if (c.en && (c.up || c.lost)) && decide (x % 2 ^ 41 < c.size * 2 ^ 30) then .cxl p (x % 2 ^ 41) else .hole
  else .hole

/-- The physical address of a byte of a memory tile. -/
def mtAddr (tile mt off : Nat) : Nat := tileMemBase + tile * 2 ^ 20 + mt * 2 ^ 16 + off

/-- The physical address of a byte of a weight-buffer quarter. -/
def weightAddr (tile page off : Nat) : Nat := weightBase + tile * 2 ^ 17 + page * 2 ^ 15 + off

/-- The physical address of a byte of a request record. -/
def recordAddr (slot off : Nat) : Nat := recordBase + slot * 2 ^ 10 + off

end Sys2Proof.Machine
end

