-- ==== Sys2Proof/Machine/Ops.lean ====
section
/-!
DEFINITION. The named operations over the machine that every meaning uses: access to tiles, counters, semaphores, events
and trace, the roles of memory tiles (spec/09_memory.md R208, R209), poison origins (spec/02_words.md R69), and taking a
trap and returning from one, as one operation each (spec/18_system.md R391 to R398).
-/
namespace Sys2Proof.Machine

/-! ## Tiles and walls -/

/-- A tile. -/
def State.tile (s : State) (t : Nat) : Tile := Tab.get s.tiles t

/-- The state with one tile changed. -/
def State.modTile (s : State) (t : Nat) (f : Tile → Tile) : State := { s with tiles := Tab.set s.tiles t (f (s.tile t)) }

/-- The state with one tile's banker changed. -/
def State.modBk (s : State) (t : Nat) (f : Banker → Banker) : State := s.modTile t fun x => { x with bk := f x.bk }

/-- The state with one banker's registers changed. -/
def State.modRegs (s : State) (t : Nat) (f : Regs → Regs) : State := s.modBk t fun b => { b with r := f b.r }

/-- The state with one tile's trap and debug registers changed. -/
def State.modSys (s : State) (t : Nat) (f : TileSys → TileSys) : State := s.modTile t fun x => { x with sys := f x.sys }

/-- The state with one tile's memory registers and queues changed. -/
def State.modMem (s : State) (t : Nat) (f : TileMem → TileMem) : State := s.modTile t fun x => { x with mem := f x.mem }

/-- The state with one tile's ring stop changed. -/
def State.modRing (s : State) (t : Nat) (f : RingStop → RingStop) : State := s.modTile t fun x => { x with ring := f x.ring }

/-- The state with one tile's sequencer changed. -/
def State.modSeq (s : State) (t : Nat) (f : Seq → Seq) : State := s.modTile t fun x => { x with seq := f x.seq }

/-- The state with one chain changed. -/
def State.modChain (s : State) (t c : Nat) (f : Chain → Chain) : State :=
  s.modTile t fun x => { x with chains := Tab.modify x.chains c f }

/-- The state with one launch-table entry changed. -/
def State.modLaunch (s : State) (t lid : Nat) (f : Launch → Launch) : State :=
  s.modTile t fun x => { x with launches := Tab.modify x.launches lid f }

/-- A wall. -/
def State.wall (s : State) (w : Nat) : Wall := Tab.get s.walls w

/-- The state with one wall changed. -/
def State.modWall (s : State) (w : Nat) (f : Wall → Wall) : State := { s with walls := Tab.set s.walls w (f (s.wall w)) }

/-- The state with the plinth changed. -/
def State.modPlinth (s : State) (f : Plinth → Plinth) : State := { s with plinth := f s.plinth }

/-- The state with the management block changed. -/
def State.modMgmt (s : State) (f : Mgmt → Mgmt) : State := { s with mgmt := f s.mgmt }

/-- The place of a physical address in the package as it stands. -/
def State.place (s : State) (pa : Nat) : Place := placeOf s.hw s.mgmt.cxl pa

/-- The wall of a tile. -/
def State.wallOf (s : State) (t : Nat) : Nat := Machine.wallOf s.hw t

/-- A logical tile number is assigned (spec/01_machine.md R17). -/
def State.tileOk (s : State) (t : Nat) : Bool := decide (t < tileCount s.hw)

/-- A copy by its reference. -/
def State.copy? (s : State) (c : CopyRef) : Option Copy := s.copies.find? (fun x => x.ref = c)

/-- The state with one copy changed. -/
def State.modCopy (s : State) (c : CopyRef) (f : Copy → Copy) : State :=
  { s with copies := s.copies.map fun x => if x.ref = c then f x else x }

/-- The state with a copy removed. -/
def State.dropCopy (s : State) (c : CopyRef) : State := { s with copies := s.copies.filter fun x => x.ref ≠ c }

/-- A message leaves the package. -/
def State.send (s : State) (m : OutMsg) : State := { s with out := s.out ++ [m] }

/-! ## Counters, events, semaphores -/

/-- A 32-bit count that saturates. -/
def satAdd32 (n k : Nat) : Nat := min (n + k) (2 ^ 32 - 1)

/-- MSI-X vector 0 is raised, for the event queue is not empty: after each event queued, and each one popped that leaves others
(spec/19_boundary.md R421, log entry 146). -/
def State.tell (s : State) : State := if s.mgmt.evq = [] then s else s.send .interrupt

/-- An event for the host; beyond 1,024 it is counted in EVLOST (spec/19_boundary.md R428). -/
def pushEvent (s : State) (code data : Nat) : State :=
  (s.modMgmt fun m => if m.evq.length < 1024 then { m with evq := m.evq ++ [(code, data)] }
    else { m with evlost := satAdd32 m.evlost 1 }).tell

/-- A semaphore of a tile. -/
def State.semOf (s : State) (t i : Nat) : Nat := Tab.get (s.tile t).sem i

/-- An increment arrives at a semaphore, modulo 2^32 (spec/10_ordering.md R240). -/
def semAdd (s : State) (t i n : Nat) : State :=
  s.modTile t fun x => { x with sem := Tab.modify x.sem i fun v => (v + n) % 2 ^ 32 }

/-- A successful `.take` subtracts (R240, phase 3). -/
def semTake (s : State) (t i n : Nat) : State :=
  s.modTile t fun x => { x with sem := Tab.modify x.sem i fun v => (v + 2 ^ 32 - n % 2 ^ 32) % 2 ^ 32 }

/-- An act is due in a later cycle, behind the acts already due with the same cycle, phase and key. -/
def addDue (s : State) (d : Due) : State := { s with due := s.due ++ [d] }

/-- An increment of a semaphore is made now: it arrives in the next cycle, in phase 1, before any test of that cycle
(R240, log entry 133). -/
def semRaise (s : State) (t i n : Nat) : State := addDue s { at' := s.cyc + 1, phase := 1, iss := s.cyc, act := .semAdd t i n }

/-- An increment made as a release, once the given accesses are over (spec/10_ordering.md R254). -/
def raiseAfter (s : State) (t i : Nat) (waits : List (Nat × Nat)) : State :=
  if waits.isEmpty then semRaise s t i 1 else { s with signals := s.signals ++ [{ tile := t, sem := i, waits := waits }] }

/-- An access is over: the releases that waited for nothing else take place. -/
def accessOver (s : State) (t id : Nat) : State :=
  let l := s.signals.map fun g => { g with waits := g.waits.filter (· != (t, id)) }
  (l.filter (·.waits.isEmpty)).foldl (fun s g => semRaise s g.tile g.sem 1) { s with signals := l.filter fun g => !g.waits.isEmpty }

/-- An event whose cycle is fixed, kept in order of cycle. -/
def insertSched (e : Nat × Instr) : List (Nat × Instr) → List (Nat × Instr)
  | [] => [e]
  | x :: l => if e.1 < x.1 then e :: x :: l else x :: insertSched e l

/-- The state with such an event added. -/
def schedule (s : State) (at' : Nat) (i : Instr) : State := { s with sched := insertSched (at', i) s.sched }

/-! ## Memory tiles and their roles (spec/09_memory.md R208, R209) -/

/-- The role of a memory tile. -/
inductive MtRole where
  | free
  | banker
  | buffer (c : CopyRef)
  | fifo (c : CopyRef)
  | cache (c : CopyRef)
deriving DecidableEq, Repr, Inhabited

/-- Memory tile `i` is reserved to the banker. -/
def State.reserved (s : State) (t i : Nat) : Bool := bitOf (s.tile t).mem.bkmt i

/-- The region number of physical memory tile `i` in a copy, if one of its pages holds it (spec/08_launch.md R192). -/
def regionMt (c : Copy) (i : Nat) : Option Nat :=
  (c.pages.findIdx? (· == i / 4)).map fun k => 4 * k + i % 4

/-- The physical memory tile of a region number. -/
def physMt (c : Copy) (m : Nat) : Nat := 4 * c.pages.getD (m / 4) 0 + m % 4

/-- The copy holds the role of physical memory tile `i` on tile `t`. -/
def Copy.ownsMt (c : Copy) (t i : Nat) : Bool :=
  c.tile == t && c.phase != .loading &&
    (match regionMt c i with
     | some m => bitOf c.kern.mtUse m
     | none => false)

/-- The role of a memory tile; one that is being released keeps its old role until its port queues are empty (R208). -/
def State.roleOf (s : State) (t i : Nat) : MtRole :=
  if s.reserved t i then .banker
  else match s.copies.find? (fun c => c.ownsMt t i) with
    | none => if (s.tile t).mem.closing.contains i then .buffer default else .free
    | some c =>
      let m := (regionMt c i).getD 0
      if bitOf c.kern.mtFifo m then .fifo c.ref else if bitOf c.kern.mtCache m then .cache c.ref else .buffer c.ref

/-- The banker, the engines and the crossbar reach an addressed buffer, or a memory tile reserved to the banker. -/
def MtRole.isBuffer : MtRole → Bool
  | .banker | .buffer _ => true
  | _ => false

/-- Bytes of a memory tile written; what they held is kept: of this cycle for those that read its start (R211), in unordered mode of
64 cycles (spec/10_ordering.md R256). -/
def writeMt (s : State) (t mt off : Nat) (bytes : List Byte) (who : Option (CopyRef × Nat)) : State :=
  let base := mtAddr t mt off
  let old := readBytes s.mem base bytes.length
  let s := s.modTile t fun x => { x with hist := x.hist ++ (old.zip (List.range bytes.length)).map fun (b, i) =>
    (s.cyc, mt * 65536 + off + i, b, who) }
  { s with mem := writeBytes s.mem base bytes }

/-- Bytes of a memory tile as they stand. -/
def readNow (s : State) (t mt off n : Nat) : List Byte := readBytes s.mem (mtAddr t mt off) n

/-- What a byte of a memory tile held at the start of cycle `u`: the oldest value kept of the writes since. -/
def byteAt (s : State) (t mt off u : Nat) : Byte :=
  match (s.tile t).hist.find? fun h => h.2.1 == mt * 65536 + off && decide (u ≤ h.1) with
  | some h => h.2.2.1
  | none => readByte s.mem (mtAddr t mt off)

/-- Bytes of a memory tile as they stood at the start of the cycle (R211). -/
def startMt (s : State) (t mt off n : Nat) : List Byte :=
  match (s.tile t).hist with
  | [] => readNow s t mt off n
  | _ => (List.range n).map fun i => byteAt s t mt (off + i) s.cyc

/-- What a shared-port access sees of a byte: no slot write performed in the same cycle (R211). Another access of the port comes in
another cycle (R210), so that what one has written stands for the next (log entry 23). -/
def portByte (s : State) (t mt off : Nat) : Byte :=
  let now := (s.tile t).hist.filter fun h => h.2.1 == mt * 65536 + off && decide (s.cyc ≤ h.1)
  match now with
  | h :: _ => if now.any (·.2.2.2.isNone) then readByte s.mem (mtAddr t mt off) else h.2.2.1
  | [] => readByte s.mem (mtAddr t mt off)

/-- Bytes of a memory tile as a shared-port access sees them. -/
def readMt (s : State) (t mt off n : Nat) : List Byte :=
  match (s.tile t).hist with
  | [] => readNow s t mt off n
  | _ => (List.range n).map fun i => portByte s t mt (off + i)

/-! ## The shared port (R210) -/

/-- How recently a requester was served: those never served come first, in the order listed. -/
def Port.rank (p : Port) (r : Nat) : Nat := if p.order.contains r then 5 + p.order.idxOf r else r

/-- A port of a tile. -/
def State.port (s : State) (t mt : Nat) : Port := Tab.get (s.tile t).mem.ports mt

/-- A port serves a requester in this cycle: it has served nobody yet, and none that asked in this cycle or the last was served
less recently. -/
def Port.serves (p : Port) (cyc r : Nat) : Bool :=
  decide (p.free ≤ cyc) && p.asks.all fun a => a.1 == r || decide (a.2 + 1 < cyc) || decide (p.rank r < p.rank a.1)

/-- A requester has held the port for some cycles from this one. -/
def usePort (s : State) (t mt r n : Nat) : State :=
  s.modMem t fun m => { m with ports := Tab.modify m.ports mt fun p =>
    { free := s.cyc + n, order := p.order.filter (· != r) ++ [r], asks := p.asks.filter fun a => a.1 != r && decide (s.cyc ≤ a.2 + 1) } }

/-- A requester that is not served asks again. -/
def askPort (s : State) (t mt r : Nat) : State :=
  s.modMem t fun m => { m with ports := Tab.modify m.ports mt fun p => { p with asks := p.asks.filter (·.1 != r) ++ [(r, s.cyc)] } }

/-- An access through the shared port: what it does once it holds the port, or what its requester does meanwhile. -/
def withPort {α : Type} (s : State) (t mt r : Nat) (wait go : State → α) : α :=
  if (s.port t mt).serves s.cyc r then go (usePort s t mt r 1) else wait (askPort s t mt r)

/-- An access that cannot be put off stands behind those that hold the port, for one cycle. -/
def queuePort (s : State) (t mt r : Nat) : State := usePort s t mt r (max (s.port t mt).free s.cyc - s.cyc + 1)

/-- Accesses stand in the port queue of a memory tile: somebody asked in this cycle or the last, or results of the exponent engine wait
for it (R208; log entry 164). -/
def queueBusy (s : State) (t mt : Nat) : Bool :=
  (s.port t mt).asks.any (fun a => decide (s.cyc ≤ a.2 + 1)) || (s.tile t).lanes.any fun l => l.2.back.any fun b => b.1 == mt

/-- Some memory tiles are released: those whose port queues are not empty keep their role until they are (R208, step 1). -/
def closeMts (s : State) (t : Nat) (mts : List Nat) : State :=
  let busy := mts.filter (queueBusy s t)
  if busy = [] then s else s.modMem t fun m => { m with closing := m.closing ++ busy }

/-! ## Errors of storage (spec/19_boundary.md R428) -/

/-- The turn's next access meets an uncorrectable error. -/
def State.ue (s : State) : Bool := s.strike == 2 || s.strike == 4

/-- A local address in physical numbering, checked for an area of `n` bytes aligned to `al` (R214): the cause of the fault,
or memory tile and offset. -/
def localCheck (s : State) (t : Nat) (a : Nat) (n al : Nat) : Except Nat (Nat × Nat) :=
  let mt := fld a 16 4
  let off := fld a 0 16
  if a / 2 ^ 20 ≠ 0 ∨ 65536 < off + n then .error 0x0B
  else if !(s.roleOf t mt).isBuffer then .error 0x0C
  else if off % al ≠ 0 then .error 0x0D
  else .ok (mt, off)

/-! ## Trace and trigger (spec/18_system.md R412 to R414) -/

/-- A trace entry (R413). -/
def traceEntry (cyc typ : Nat) (bk : Bool) (ctx cexy data : Nat) : Nat :=
  (cyc % 2 ^ 48) * 2 ^ 80 + typ * 2 ^ 76 + b2n bk * 2 ^ 75 + ctx * 2 ^ 73 + cexy * 2 ^ 67 + data % 2 ^ 64

/-- The tile is recording. -/
def TileSys.recording (x : TileSys) : Bool := bitOf x.tracectl.toNat 63 && !x.frozen

/-- Insertion by key, behind equal keys. -/
def insertItem (e : TraceItem) : List TraceItem → List TraceItem
  | [] => [e]
  | x :: l => if e.key < x.key then e :: x :: l else x :: insertItem e l

/-- One event of a cycle at its place in the order, `n` entries having come before it: its entry goes to WPTR, or is counted in
LOST beyond four; after POST entries since the trigger nothing more is recorded. A trigger counts its POST entries from here,
and its index is that of its entry (R414, R395). -/
def writeItem (p : TileSys × Nat × List (Bool × Nat × Nat)) (i : TraceItem) : TileSys × Nat × List (Bool × Nat × Nat) :=
  let (x, n, fires) := p
  let idx := x.wptr
  let x := if !i.kept || x.frozen || x.post == 1 then x
    else if n < 4 then { x with trace := Tab.setD 0 x.trace x.wptr i.entry, wptr := (x.wptr + 1) % 16384,
                                wrap := x.wrap || x.wptr == 16383, post := x.post - 1 }
    else { x with lost := min (x.lost + 1) 65535 }
  match i.fire with
  | some (trap, v) => ({ x with post := fld x.tracectl.toNat 32 16 + 1 }, n + b2n i.kept, fires ++ [(trap, v, idx)])
  | none => (x, n + b2n i.kept, fires)

/-- The events of a cycle written at its end, the banker's first and then the regions' by slot and CE; and what fired the trigger:
whether TRIG is posted, VALUE, and the entry index (R414). -/
def flushTrace (x : TileSys) : TileSys × List (Bool × Nat × Nat) :=
  let l := x.traceBuf.foldl (fun l e => insertItem e l) []
  let (x, _, fires) := l.foldl writeItem ({ x with traceBuf := [] }, 0, [])
  (x, fires)

/-! ## Posted traps (spec/18_system.md R391, R396, R398) -/

/-- The order of posted traps: cycle, kind of source, source (R396). -/
def Posted.before (p q : Posted) : Bool :=
  decide (p.at' < q.at') || (p.at' == q.at' && (decide (p.rank < q.rank) || (p.rank == q.rank && decide (p.sub < q.sub))))

/-- Insertion of a posted trap at its place. -/
def insertPosted (p : Posted) : List Posted → List Posted
  | [] => [p]
  | q :: l => if p.before q then p :: q :: l else q :: insertPosted p l

/-- A banker stops in the double-fault state and the host is told (R398). -/
def doubleFault (s : State) (t : Nat) : State :=
  pushEvent (s.modBk t fun b => { b with mode := 3, stall := .none, emul := none }) 0x04 t

/-- A banker idle with a trap it may take issues again (R419, `idle`). -/
def wakeIdle (s : State) (t : Nat) : State :=
  let x := s.tile t
  if x.bk.mode = 2 ∧ x.sys.ten ∧ x.sys.posted ≠ [] then s.modBk t fun b => { b with mode := 0 } else s

/-- A fault is posted to a tile's banker: queued up to 32, beyond that it waits with its poster (R396); a late fault while
traps are off is a double fault (R398). -/
def postTrap (s : State) (t : Nat) (p : Posted) : State :=
  if p.late && !(s.tile t).sys.ten then doubleFault s t
  else
    let p := { p with at' := s.cyc }
    wakeIdle (s.modSys t fun x =>
      if x.posted.length < 32 then { x with posted := insertPosted p x.posted } else { x with posters := insertPosted p x.posters }) t

/-- What an armed trigger does at an event: source code and value (R412). -/
def trigFires (x : TileSys) (src value : Nat) : Option (Bool × Nat) :=
  let c := x.trigctl.toNat
  let want := if src = 0 then fld c 0 16 else if src = 2 then fld c 0 8 else fld c 0 56
  if bitOf c 63 && fld c 59 2 == src && want == value then some (bitOf c 62, fld c 0 56) else none

/-- A traced event: tested against the trigger, whether its class is enabled or not, and recorded when it is (R412, R414). The
banker's have key 0, regions' follow by slot and CE. -/
def traceEvent (s : State) (t : Nat) (src : Option (Nat × Nat)) (enabled : Bool) (key entry : Nat) : State :=
  let x := (s.tile t).sys
  let fire := src.bind fun p => trigFires x p.1 p.2
  let item : TraceItem := { key := key, entry := entry, kept := enabled && x.recording, fire := fire }
  if !item.kept && fire.isNone then s
  else s.modSys t fun x =>
    { x with traceBuf := x.traceBuf ++ [item], fired := x.fired || fire.isSome
             trigctl := if fire.isSome then BitVec.ofNat 64 (setFld x.trigctl.toNat 63 1 0) else x.trigctl }

/-- TRACECTL bit `i` of a tile. -/
def State.traceBit (s : State) (t i : Nat) : Bool := bitOf (s.tile t).sys.tracectl.toNat i

/-- A memory event: kind 0 load, 1 store, 2 atomic, 3 `stmw` (R413). -/
def traceMemory (s : State) (t : Nat) (bk : Bool) (ctx cexy kind addr : Nat) : State :=
  let key := if bk then 0 else 1 + ctx * 64 + cexy
  traceEvent s t (some (1, addr % 2 ^ 56)) (s.traceBit t 13) key
    (traceEntry s.cyc 3 bk ctx cexy (kind * 2 ^ 56 + addr % 2 ^ 56))

/-! ## Poison origins (spec/02_words.md R68, R69; spec/18_system.md R399) -/

/-- The origin of a banker's poison word. -/
def originB (t : Nat) (pc : Word) : Word := BitVec.ofNat 64 (1 * 2 ^ 62 + t * 2 ^ 48 + fld pc.toNat 0 48)

/-- The origin of a microword's poison. -/
def originM (t pc : Nat) : Word := BitVec.ofNat 64 (2 * 2 ^ 62 + t * 2 ^ 48 + (pc % 1024) * 2 ^ 38)

/-- The origin of a slot's poison, and the location "loc" of a slot: context slot, CE position in the tile, table entry. -/
def originE (t slot y x entry : Nat) : Word :=
  BitVec.ofNat 64 (t * 2 ^ 48 + slot * 2 ^ 46 + y * 2 ^ 43 + x * 2 ^ 40 + entry * 2 ^ 34)

/-- A latch filled, if it is empty; bit 58 says that it is full (R399). -/
def fillLatch (old origin : Word) : Word := if bitOf old.toNat 58 then old else BitVec.ofNat 64 (origin.toNat ||| 2 ^ 58)

/-- The origin a latch holds. -/
def latchOrigin (l : Word) : Word := BitVec.ofNat 64 (setFld l.toNat 58 1 0)

/-! ## Banker registers -/

/-- A register whose value is still to come from outside the banker: no cycle is known (R113, R216). -/
def pendingReg : Nat := 2 ^ 64

/-- The place of a destination in the interlock table. -/
def dstSlot : BDst → Nat
  | .none => 99
  | .g i => i.val
  | .f i => 32 + i.val
  | .lc i => 40 + i.val

/-- Some destination of the banker awaits a value from outside, or a division is in progress: no trap is taken now (R113, log
entry 20). -/
def Banker.hasPending (b : Banker) (cyc : Nat) : Bool := decide (cyc < b.divBusy) || b.ready.any fun p => p.2 == pendingReg

/-- A value reaches a destination: all bits of a `g` register, bits 31:0 of a loop counter, a flag's bit; `f7` discards it
(spec/04_integer.md R110, spec/02_words.md R57). -/
def Regs.write (r : Regs) (d : BDst) (v : PReg) : Regs :=
  match d with
  | .none => r
  | .g i => { r with g := Tab.set r.g i.val v }
  | .f i => if i.val = 7 then r else { r with f := Tab.set r.f i.val { b := if v.poison then false else bitOf v.v.toNat 0, poison := v.poison } }
  | .lc i => { r with lc := Tab.set r.lc i.val (fld v.v.toNat 0 32) }

/-- A flag of the banker; `f7` reads 1 (spec/02_words.md R57). -/
def Regs.flag (r : Regs) (i : Nat) : PBit := if i = 7 then { b := true } else Tab.get r.f i

/-- A value written to a tile's banker, ready from a cycle on; a poisoned flag fills the banker's latch (R68). -/
def writeB (s : State) (t : Nat) (d : BDst) (v : PReg) (ready : Nat) : State :=
  let s := s.modBk t fun b => { b with r := b.r.write d v, ready := Tab.set b.ready (dstSlot d) ready }
  match d with
  | .f i => if v.poison && i.val != 7 then s.modSys t fun x => { x with platchB := fillLatch x.platchB v.v } else s
  | _ => s

/-! ## The trap frame (spec/18_system.md R394) -/

/-- The number whose bit `i` is `f i`, for `i < n`, as a mask. -/
def maskOf (n : Nat) (f : Nat → Bool) : Nat := natOfBits n f

/-- The 48 double words written at entry. -/
def frameWords (r : Regs) (tr : TrapInfo) (epc : Word) : List Nat :=
  [tr.cause + tr.acause * 2 ^ 8 + b2n tr.posted * 2 ^ 16 + b2n tr.noroll * 2 ^ 17 + tr.lid * 2 ^ 32 + tr.copy * 2 ^ 48,
   epc.toNat, tr.info.toNat, tr.info2.toNat,
   maskOf 8 (fun i => (r.flag i).b) + maskOf 3 (fun i => Tab.get r.active i) * 2 ^ 8] ++
  (List.range 3).map (fun i => Tab.get r.lc i) ++
  (List.range 3).map (fun i => (Tab.get r.start i).toNat) ++
  (List.range 3).map (fun i => (Tab.get r.stop i).toNat) ++
  [maskOf 32 (fun i => (Tab.get r.g i).poison) + maskOf 8 (fun i => (r.flag i).poison) * 2 ^ 32, 0] ++
  (List.range 32).map (fun i => (Tab.get r.g i).v.toNat)

/-- Double words as bytes. -/
def wordsBytes (l : List Nat) : List Byte := l.flatMap (leBytes 8)

/-- A table of the values of `f` below `n`. -/
def tabOf {α : Type} [DecidableEq α] [Inhabited α] (n : Nat) (f : Nat → α) : Tab α :=
  (List.range n).foldl (fun t i => Tab.set t i (f i)) []

/-- The registers a frame restores: g0–g31, f0–f6, poison bits, loop counters, start, end and active (R397). -/
def frameRegs (m : List Host.Cell) (base : Nat) : Regs :=
  let w (off : Nat) : Nat := readNat m (base + off) 8
  { g := tabOf 32 fun i => { v := BitVec.ofNat 64 (w (0x80 + 8 * i)), poison := bitOf (w 0x70) i }
    f := tabOf 7 fun i => { b := bitOf (w 0x20) i, poison := bitOf (w 0x70) (32 + i) }
    lc := tabOf 3 fun i => fld (w (0x28 + 8 * i)) 0 32
    start := tabOf 3 fun i => BitVec.ofNat 64 (w (0x40 + 8 * i))
    stop := tabOf 3 fun i => BitVec.ofNat 64 (w (0x58 + 8 * i))
    active := tabOf 3 fun i => bitOf (w 0x20) (8 + i) }

/-- EPC of a frame. -/
def frameEpc (m : List Host.Cell) (base : Nat) : Word := BitVec.ofNat 64 (readNat m (base + 8) 8)

/-- The memory tile of a tile's trap frame, and the frame's offset in it (R392). -/
def State.frameAt (s : State) (t : Nat) : Nat × Nat :=
  let a := (s.tile t).sys.tfbase.toNat
  (fld a 16 4, fld a 9 7 * 512)

/-- The physical address of a tile's trap frame. -/
def State.frameBase (s : State) (t : Nat) : Nat := mtAddr t (s.frameAt t).1 (s.frameAt t).2

/-- The address of a cause's vector (R392). -/
def State.vector (s : State) (t cause : Nat) : Word :=
  BitVec.ofNat 64 (fld (s.tile t).sys.tvec.toNat 9 47 * 512 + 8 * cause)

/-- Taking a trap (R393): the frame written, loops and traps switched off, the pc at the cause's vector; a double fault where
traps are off or the frame's memory tile is not the banker's (R398). The 48 double words take 48 cycles of the shared port. -/
def enterTrap (s : State) (t : Nat) (tr : TrapInfo) (epc : Word) : State :=
  let x := s.tile t
  if !x.sys.ten || !s.reserved t (s.frameAt t).1 then doubleFault s t
  else
    let s := writeMt s t (s.frameAt t).1 (s.frameAt t).2 (wordsBytes (frameWords x.bk.r tr epc)) none
    let s := traceEvent s t (some (2, tr.cause)) (s.traceBit t 12) 0
      (traceEntry s.cyc 6 true 0 0 (tr.cause + fld epc.toNat 0 56 * 2 ^ 8))
    let s := usePort s t (s.frameAt t).1 0 48
    let s := s.modSys t fun x => { x with ten := false }
    s.modBk t fun b =>
      { b with r := { b.r with active := [] }, pc := s.vector t tr.cause, stall := .none, emul := none,
               nextIssue := s.cyc + 48 }

/-- The oldest posted trap is taken, and a waiting poster queues its own (R396). -/
def takePosted (s : State) (t : Nat) : State :=
  match (s.tile t).sys.posted with
  | [] => s
  | p :: rest =>
    let s := s.modSys t fun x => match x.posters with
      | [] => { x with posted := rest }
      | q :: qs => { x with posted := insertPosted q rest, posters := qs }
    enterTrap s t p.trap (s.tile t).bk.pc

/-- Returning from a trap (R397): the registers and the pc restored, traps on; the instruction takes 50 cycles. -/
def leaveTrap (s : State) (t : Nat) : State :=
  let base := s.frameBase t
  let r := frameRegs s.mem base
  let pc := frameEpc s.mem base
  let s := s.modSys t fun x => { x with ten := true }
  wakeIdle (s.modBk t fun b => { b with r := r, pc := pc, ready := [], nextIssue := s.cyc + 50 }) t

/-! ## The end test of loops (spec/07_control.md R165) -/

/-- The end test at word `e` on one level: whether it looped back, the registers, the next pc. -/
def endLevel (r : Regs) (e : Word) (n : Nat) : Option (Regs × Option Word) :=
  if Tab.get r.active n && Tab.get r.stop n == e then
    if 1 < Tab.get r.lc n then some ({ r with lc := Tab.set r.lc n (Tab.get r.lc n - 1) }, some (Tab.get r.start n))
    else some ({ r with lc := Tab.set r.lc n 0, active := Tab.set r.active n false }, none)
  else none

/-- The end test, innermost level first: the registers, and the start of the level that loops back, if one does. -/
def endTest (r : Regs) (e : Word) : Nat → Regs × Option Word
  | 0 => (r, none)
  | n + 1 => match endLevel r e n with
    | some (r', some pc) => (r', some pc)
    | some (r', none) => endTest r' e n
    | none => endTest r e n

/-- The word is held in the loop buffer (R167). -/
def Banker.inBuffer (b : Banker) (pc : Word) : Bool :=
  b.lbvalid && decide (b.lbbase.toNat ≤ pc.toNat) && decide (pc.toNat < b.lbbase.toNat + 8 * b.lblen)

/-- Cycles until the word at a transfer's target issues (R162). -/
def Banker.transferTime (b : Banker) (target : Word) : Nat := if b.inBuffer target then 1 else 4

/-- The emulated word is done: the handler's own registers return with the result in `d`, and the handler goes on behind
its `emul` (R411). -/
def endEmul (b : Banker) (cyc : Nat) (e : Emul) (result : Nat) : Banker :=
  let (r, loop) := endTest (e.regs.write e.d { v := BitVec.ofNat 64 result }) e.pc 3
  { b with r := r, pc := loop.getD (e.pc + 8), emul := none, ready := [], nextIssue := cyc + 8, stall := .none }

/-- A fault of an emulated word: FAULT with the cause in bits 15:8, the frame as it was (R411). -/
def emulFault (s : State) (t : Nat) (e : Emul) (cause : Nat) : State :=
  s.modBk t fun b => endEmul b s.cyc e (2 + cause * 2 ^ 8)

/-- A precise fault of a banker's instruction or fetch (R391): the instruction has no effect and its trap is taken, or its
emulation ends with FAULT. -/
def preciseFault (s : State) (t : Nat) (tr : TrapInfo) (epc : Word) : State :=
  match (s.tile t).bk.emul with
  | some e => emulFault s t e tr.cause
  | none => enterTrap s t tr epc

/-- A late fault of a banker's access (R391): address, and the pc of the instruction. -/
def lateFault (s : State) (t cause : Nat) (addr : Nat) (pc : Word) : State :=
  postTrap s t { trap := { cause := cause, posted := true, info := BitVec.ofNat 64 addr, info2 := pc }, rank := 3, late := true }

/-- The unit of an error at an address: 1 for a slice, where the error lies there (spec/19_boundary.md R428). -/
def eccUnit (s : State) (pa : Nat) : Nat :=
  match s.place pa with
  | .tileMem .. => 0
  | .hbm .. => if 3 ≤ s.strike then 1 else 2
  | .weight .. => 3
  | .record .. => 4
  | .module _ | .cxl .. => 5
  | .hole => 2

/-- An uncorrectable error is reported to the host with its unit and address (spec/19_boundary.md R428). -/
def eccEvent (s : State) (pa : Nat) : State :=
  pushEvent { s with strike := 0 } 0x02 (eccUnit s pa * 2 ^ 48 + pa % 2 ^ 48)

/-- A corrected error of the turn's access is reported (R428). -/
def eccNote (s : State) (pa : Nat) : State :=
  if 8 ≤ s.strike then { s with strike := s.strike - 8 }
  else if s.strike == 1 || s.strike == 3 then pushEvent { s with strike := 0 } 0x01 (eccUnit s pa * 2 ^ 48 + pa % 2 ^ 48) else s

end Sys2Proof.Machine
end

