-- ==== Sys2Proof/Machine/Access.lean ====
section
/-!
DEFINITION. Global accesses (spec/09_memory.md R216 to R234): what the home of an address does, the reserved ways of a
wall's slices, the cache banks of a tile, the scopes of loads, stores and atomics, translation, and areas read and written
at package scope by engines and the plinth. A home slice is never told apart from the memory it fronts, because every
access that meets a line there meets the same bytes; so only lines in tile cache banks and in reserved ways are held.
-/
namespace Sys2Proof.Machine

/-! ## The home -/

/-- A resident context owns a weight-buffer quarter (spec/11_systolic.md R261). -/
def State.ownsWeight (s : State) (t page : Nat) : Bool :=
  s.copies.any fun c => c.tile == t && c.kern.wbuf && c.pages.contains page && c.phase != .loading

/-- A memory tile in the addressed-buffer role: what a global access and a mirrored copy reach; one reserved to the banker is none
(R207, R223). -/
def State.isOwned (s : State) (t mt : Nat) : Bool :=
  match s.roleOf t mt with
  | .buffer _ => true
  | _ => false

/-- The cause an access at the home meets, if any: BUS_HOLE (spec/01_machine.md R42), MEM_ROLE (R207, R261), or ECC_UE behind a
CXL link that was lost (spec/19_boundary.md R433). -/
def homeFault (s : State) (pa : Nat) : Option Nat :=
  match s.place pa with
  | .hole => some 0x13
  | .tileMem t mt _ => if s.isOwned t mt then none else some 0x0C
  | .weight t off => if s.ownsWeight t (off / 2 ^ 15) then none else some 0x0C
  | .cxl p _ => if (Tab.get s.mgmt.cxl p).up then none else some 0x14
  | _ => none

/-- The fault of an area of physical memory that lies in one part of the map, or crosses into the next. -/
def areaFault (s : State) (a n : Nat) : Option Nat :=
  match homeFault s a with
  | some c => some c
  | none => homeFault s (a + n - 1)

/-- Bytes read at the home; in a tile's window through the memory tile's shared port. -/
def homeRead (s : State) (pa n : Nat) : List Byte :=
  match s.place pa with
  | .tileMem t mt off => readMt s t mt off n
  | _ => readBytes s.mem pa n

/-- Bytes at the home as they stand, for a read-modify-write. -/
def homeNow (s : State) (pa n : Nat) : List Byte := readBytes s.mem pa n

/-- An address whose lines caches may hold: HBM4E and second tier; the windows of tile memory, weight buffers and records
are served where they lie (R207; log entry 21). -/
def State.cacheable (s : State) (pa : Nat) : Bool :=
  match s.place pa with
  | .hbm .. | .module _ | .cxl .. => true
  | _ => false

/-! ## Lines (R226, R227) -/

/-- A valid byte of a line. -/
def Line.byte? (l : Line) (off : Nat) : Option Byte := (l.bytes.find? (fun p => p.1 == off)).map (·.2)

/-- Bytes `off … off + n − 1` are all valid. -/
def Line.holds (l : Line) (off n : Nat) : Bool := (List.range n).all fun i => (l.byte? (off + i)).isSome

/-- Bytes of a line, zero where not valid. -/
def Line.read (l : Line) (off n : Nat) : List Byte := (List.range n).map fun i => (l.byte? (off + i)).getD 0

/-- Bytes written into a line: valid, and dirty by store `st`, or clean for 0. -/
def Line.write (l : Line) (off st : Nat) : List Byte → Line
  | [] => l
  | b :: bs => Line.write { l with bytes := Tab.put l.bytes off b, dirty := Tab.set l.dirty off st } (off + 1) st bs

/-- A line fetched: all its bytes but the dirty ones are replaced (R226). -/
def Line.fill (l : Line) (bytes : List Byte) : Line :=
  { l with bytes := ((List.range 128).zip bytes).foldl (fun t (i, b) => if Tab.get l.dirty i = 0 then Tab.put t i b else t) l.bytes }

/-- Dirty bytes of a line at an offset that stores before `st` wrote become clean: a later store to them has been performed further
out, and theirs is behind it in coherence order (spec/10_ordering.md R251). -/
def Line.settle (l : Line) (st : Nat) : Nat → Nat → Line
  | _, 0 => l
  | off, n + 1 => Line.settle (if Tab.get l.dirty off < st then { l with dirty := Tab.set l.dirty off 0 } else l) st (off + 1) n

/-- Settling of the bytes from an address on, in a list of lines; the bytes lie within one line. -/
def settleLines (ls : List Line) (pa n st : Nat) : List Line :=
  ls.map fun l => if l.line == pa / 128 then l.settle st (pa % 128) n else l

/-- Settling in the banks of some tiles. -/
def settleBanks (s : State) (pa n st : Nat) (ts : List Nat) : State :=
  (ts.filter fun t => (s.tile t).mem.lines != []).foldl (fun s t => s.modMem t fun m => { m with lines := settleLines m.lines pa n st }) s

/-- Settling in the reserved ways of every wall. -/
def settleWays (s : State) (pa n st : Nat) : State :=
  ([0, 1, 2, 3].filter fun w => (s.wall w).lines != []).foldl
    (fun s w => s.modWall w fun x => { x with lines := settleLines x.lines pa n st }) s

/-- In unordered mode, what the home of some bytes held before they were written is kept in the state after (spec/10_ordering.md
R256). -/
def keepWas (s : State) (pa : Nat) (bytes : List Byte) (after : State) : State :=
  if s.plinth.unord then
    { after with was := s.was ++ (List.range bytes.length).map fun i => (s.cyc, pa + i, readByte s.mem (pa + i), none) }
  else after

/-! ## Fields of a record, and wakes (spec/15_requests.md R339, spec/17_text.md R383) -/

/-- A number in a record. -/
def rqNat (s : State) (k off n : Nat) : Nat := readNat s.mem (recordAddr k off) n

/-- A field of a double word of a record. -/
def rqFld (s : State) (k off lo n : Nat) : Nat := fld (rqNat s k off 8) lo n

/-- STATE. -/
def rqState (s : State) (k : Nat) : Nat := rqFld s k 0 0 3
/-- OUTW. -/
def rqOutw (s : State) (k : Nat) : Nat := rqFld s k 0x200 0 32

/-- A wake for a slot posted to the Setter of its reply flow, at most one per slot. -/
def postWake (s : State) (k : Nat) : State :=
  if !bitOf (rqNat s k 0x190 8) 12 then s
  else
    let add (x : Setter) : Setter := if x.wakes.contains k then x else { x with wakes := x.wakes ++ [k] }
    s.modPlinth fun p => { p with setter := Tab.modify p.setter (rqFld s k 0x190 8 4) add }

/-- Bytes stored into the record store by any path: a wake is posted where OUTW has risen or STATE has become draining or faulted
(R383). -/
def recordWake (old s : State) (pa : Nat) : State :=
  match s.place pa with
  | .record k _ =>
    let x := rqState s k
    if rqOutw old k < rqOutw s k ∨ (x ≠ rqState old k ∧ (x = 4 ∨ x = 5)) then postWake s k else s
  | _ => s

/-- Bytes written at the home, by the store numbered `st`; in a tile's window through the memory tile. -/
def homePut (s : State) (pa st : Nat) (bytes : List Byte) : State :=
  match s.place pa with
  | .tileMem t mt off => writeMt s t mt off bytes none
  | .hole => s
  | _ =>
    let s := settleWays (settleBanks s pa bytes.length st (Tab.keys s.tiles)) pa bytes.length st
    recordWake s (keepWas s pa bytes { s with mem := writeBytes s.mem pa bytes }) pa

/-- Bytes written at the home by a store that is performed there now. -/
def homeWrite (s : State) (pa : Nat) (bytes : List Byte) : State := homePut s pa (s.stamp + 1) bytes

/-- A line by its number. -/
def findLine (ls : List Line) (n : Nat) : Option Line := ls.find? (fun l => l.line == n)

/-- The lines with one replaced or added. -/
def putLine (ls : List Line) (l : Line) : List Line :=
  if ls.any (fun x => x.line == l.line) then ls.map (fun x => if x.line == l.line then l else x) else ls ++ [l]

/-- The dirty bytes of a line, as addresses, bytes and stores. -/
def Line.dirtyCells (l : Line) : List (Nat × Byte × Nat) := l.dirty.map fun p => (l.line * 128 + p.1, (l.byte? p.1).getD 0, p.2)

/-! ## Reserved ways of a wall (R227, R228) -/

/-- N of WALL.WAYRES. -/
def State.ways (s : State) (w : Nat) : Nat := (s.wall w).wayres

/-- An access of wall `w` to this address is served by a reserved way: its home is elsewhere, N is not 0, and the page may
be cached. -/
def State.usesWay (s : State) (w pa : Nat) (nc : Bool) : Bool :=
  (match s.place pa with
   | .hbm w' _ => w' != w
   | .module _ | .cxl .. => true
   | _ => false) && s.ways w != 0 && !nc

/-- Cells written back to the home one by one. What stood there before is not kept for the loads of unordered mode, for the stores that
are written back may be the loading issuer's own (log entry 155). -/
def homeCells (s : State) : List (Nat × Byte × Nat) → State
  | [] => s
  | (a, b, st) :: l =>
    let s := homePut s a st [b]
    homeCells { s with was := s.was.filter (·.2.1 != a) } l

/-- A reserved-way line of wall `w` written back to its home. -/
def cleanWay (s : State) (w : Nat) (l : Line) : State :=
  (homeCells s l.dirtyCells).modWall w fun x => { x with lines := putLine x.lines { l with dirty := [] } }

/-- A reserved-way line removed. -/
def dropWay (s : State) (w n : Nat) : State := s.modWall w fun x => { x with lines := x.lines.filter (fun l => l.line != n) }

/-- Room for a line among the reserved ways of its set; which line gives way is not stated (log entry 9). -/
def roomWay (s : State) (w n : Nat) : State :=
  let same := (s.wall w).lines.filter fun l => l.line % (16 * 2048) == n % (16 * 2048)
  if same.length < s.ways w then s
  else match same[Config.remoteWayVictim s.draws % same.length]? with
    | some l => dropWay (cleanWay { s with draws := s.draws + 1 } w l) w l.line
    | none => s

/-- The line of wall `w`, present after allocation. -/
def allocWay (s : State) (w n : Nat) : State × Line :=
  match findLine (s.wall w).lines n with
  | some l => (s, l)
  | none => (roomWay s w n, { line := n })

/-- A read served by the issuing wall: its reserved way, or the home. -/
def wallRead (s : State) (w pa n : Nat) (nc : Bool) : State × List Byte :=
  if s.usesWay w pa nc then
    let (s, l) := allocWay s w (pa / 128)
    let l := if l.holds (pa % 128) n then l else l.fill (homeRead s (pa / 128 * 128) 128)
    (s.modWall w fun x => { x with lines := putLine x.lines l }, l.read (pa % 128) n)
  else (s, homeRead s pa n)

/-- A write performed at the issuing wall by the store numbered `st`: in its reserved way, or at the home. -/
def wallPut (s : State) (w pa st : Nat) (bytes : List Byte) (nc : Bool) : State :=
  if s.usesWay w pa nc then
    let (s, l) := allocWay s w (pa / 128)
    let s := settleBanks s pa bytes.length st ((Tab.keys s.tiles).filter fun t => s.wallOf t == w)
    { s with stamp := max s.stamp st }.modWall w fun x => { x with lines := putLine x.lines (l.write (pa % 128) st bytes) }
  else homePut s pa st bytes

/-- A write of a store that is performed at the issuing wall now. -/
def wallWrite (s : State) (w pa : Nat) (bytes : List Byte) (nc : Bool) : State := wallPut s w pa (s.stamp + 1) bytes nc

/-- Wall lines among those a test picks written back, and removed where asked. -/
def flushWays (s : State) (w : Nat) (pick : Nat → Bool) (invalidate : Bool) : State :=
  ((s.wall w).lines.filter (fun l => pick l.line)).foldl
    (fun s l => let s := cleanWay s w l; if invalidate then dropWay s w l.line else s) s

/-! ## Cache banks of a tile (R226) -/

/-- Number of cache banks of a tile. -/
def State.bankCount (s : State) (t : Nat) : Nat :=
  ((List.range 16).filter fun i => match s.roleOf t i with
    | .cache _ => true
    | _ => false).length

/-- Cells written back from a bank to the wall. -/
def wallCells (s : State) (w : Nat) : List (Nat × Byte × Nat) → State
  | [] => s
  | (a, b, st) :: l => wallCells (wallPut s w a st [b] false) w l

/-- A bank line written back. -/
def cleanLine (s : State) (t : Nat) (l : Line) : State :=
  (wallCells s (s.wallOf t) l.dirtyCells).modMem t fun m => { m with lines := putLine m.lines { l with dirty := [] } }

/-- A bank line removed. -/
def dropLine (s : State) (t n : Nat) : State := s.modMem t fun m => { m with lines := m.lines.filter (fun l => l.line != n) }

/-- Bank lines among those a test picks written back, and removed where asked. -/
def flushLines (s : State) (t : Nat) (pick : Nat → Bool) (invalidate : Bool) : State :=
  ((s.tile t).mem.lines.filter (fun l => pick l.line)).foldl
    (fun s l => let s := cleanLine s t l; if invalidate then dropLine s t l.line else s) s

/-- The least recently used of some lines. -/
def lruLine : List Line → Option Line
  | [] => none
  | l :: ls => match lruLine ls with
    | some m => if m.use < l.use then some m else some l
    | none => some l

/-- The bank line, present after allocation; replacement within a set of four is least recently used. -/
def allocLine (s : State) (t n : Nat) : State × Line :=
  match findLine (s.tile t).mem.lines n with
  | some l => (s, l)
  | none =>
    let k := s.bankCount t
    let same := (s.tile t).mem.lines.filter fun l => l.line % k == n % k && l.line / k % 128 == n / k % 128
    if same.length < 4 then (s, { line := n })
    else match lruLine same with
      | some l => (dropLine (cleanLine s t l) t l.line, { line := n })
      | none => (s, { line := n })

/-- A line stored as most recently used. -/
def touchLine (s : State) (t : Nat) (l : Line) : State :=
  s.modMem t fun m => { m with lines := putLine m.lines { l with use := m.useClock }, useClock := m.useClock + 1 }

/-- The tile's banks may hold the line. -/
def State.inBanks (s : State) (t pa : Nat) (nc : Bool) : Bool := s.bankCount t != 0 && !nc && s.cacheable pa

/-! ## Performing loads, stores and atomics at their scope (R218, R238) -/

/-- The scope reaches beyond the tile. -/
def wideScope : Scope → Bool
  | .region | .tile => false
  | _ => true

/-- A bank copy, where there is one, takes bytes that are written through, or read further out. -/
def updateBank (s : State) (t pa : Nat) (bytes : List Byte) : State :=
  match findLine (s.tile t).mem.lines (pa / 128) with
  | some l => s.modMem t fun m => { m with lines := putLine m.lines (l.write (pa % 128) 0 bytes) }
  | none => s

/-- A reserved-way copy, where there is one, takes bytes that are written through, or read at the home. -/
def updateWay (s : State) (w pa : Nat) (bytes : List Byte) : State :=
  match findLine (s.wall w).lines (pa / 128) with
  | some l => s.modWall w fun x => { x with lines := putLine x.lines (l.write (pa % 128) 0 bytes) }
  | none => s

/-- An order that is an acquire. -/
def isAcquire : Order → Bool
  | .acquire | .acqRel => true
  | _ => false

/-- An order that is a release. -/
def isRelease : Order → Bool
  | .release | .acqRel => true
  | _ => false

/-- A load at its scope; the address lies in a populated part. An acquire renews the copies nearer by of what it reads: a later load
of its issuer returns nothing older (spec/10_ordering.md R252, rule 3). -/
def perfLoadAs (s : State) (t : Nat) (sc : Scope) (acq : Bool) (pa n : Nat) (nc : Bool) : State × List Byte :=
  let w := s.wallOf t
  match sc with
  | .region | .tile =>
    if s.inBanks t pa nc then
      let (s, l) := allocLine s t (pa / 128)
      if l.holds (pa % 128) n then (touchLine s t l, l.read (pa % 128) n)
      else
        let (s, b) := wallRead s w (pa / 128 * 128) 128 nc
        let l := l.fill b
        (touchLine s t l, l.read (pa % 128) n)
    else wallRead s w pa n nc
  | .wall =>
    let (s, b) := wallRead (flushLines s t (· == pa / 128) false) w pa n nc
    (if acq then updateBank s t pa b else s, b)
  | .package | .arcade =>
    let s := flushWays (flushLines s t (· == pa / 128) false) w (· == pa / 128) false
    let b := homeRead s pa n
    (if acq then updateWay (updateBank s t pa b) w pa b else s, b)

/-- A plain load at its scope. -/
def perfLoad (s : State) (t : Nat) (sc : Scope) (pa n : Nat) (nc : Bool) : State × List Byte := perfLoadAs s t sc false pa n nc

/-- A store at its scope. -/
def perfStore (s : State) (t : Nat) (sc : Scope) (pa : Nat) (bytes : List Byte) (nc : Bool) : State :=
  let w := s.wallOf t
  match sc with
  | .region | .tile =>
    if s.inBanks t pa nc then
      let (s, l) := allocLine s t (pa / 128)
      touchLine { s with stamp := s.stamp + 1 } t (l.write (pa % 128) (s.stamp + 1) bytes)
    else wallWrite s w pa bytes nc
  | .wall => wallWrite (updateBank s t pa bytes) w pa bytes nc
  | .package | .arcade => homeWrite (updateWay (updateBank s t pa bytes) w pa bytes) pa bytes

/-- The values of a read-modify-write (spec/10_ordering.md R239): the new bytes' value, if any, and what `d` receives. -/
def rmwResult (m : Rmw) (sz : Size) (old : Nat) : Option Nat × Word :=
  let w := sz.bits
  let b := m.b.toNat % 2 ^ w
  let rd (x : Nat) : Int := if m.uns then (x : Int) else sextNat x w
  let new : Option Nat := match m.op with
    | .aadd => some ((old + b) % 2 ^ w)
    | .aand => some (old &&& b)
    | .aor => some (old ||| b)
    | .axor => some (old ^^^ b)
    | .amin => some (if rd old ≤ rd b then old else b)
    | .amax => some (if rd b ≤ rd old then old else b)
    | .axchg => some b
    | .acas => if old = m.e.toNat % 2 ^ w then some b else none
    | .afadd => some (f32Add .rne old b)
  (new, if m.uns || m.op == .afadd then BitVec.ofNat 64 old else BitVec.ofNat 64 (wrapInt (sextNat old w) 64))

/-- An atomic at wall scope or wider: never in a cache bank; its line leaves the tile's banks first (R238). -/
def perfAtomic (s : State) (t : Nat) (sc : Scope) (pa : Nat) (sz : Size) (nc : Bool) (m : Rmw) : State × Word :=
  let w := s.wallOf t
  let n := sz.bytes
  let s := flushLines s t (· == pa / 128) true
  match sc with
  | .package | .arcade =>
    let s := flushWays s w (· == pa / 128) true
    let (new, d) := rmwResult m sz (leNat (homeNow s pa n))
    (match new with
     | some v => homeWrite s pa (leBytes n v)
     | none => s, d)
  | _ =>
    let (s, old) := if s.usesWay w pa nc then wallRead s w pa n nc else (s, homeNow s pa n)
    let (new, d) := rmwResult m sz (leNat old)
    (match new with
     | some v => wallWrite s w pa (leBytes n v) nc
     | none => s, d)

/-! ## Translation (R231 to R234) -/

/-- Bits of an address that index level `l`, and where they start. -/
def levelShift : Nat → Nat × Nat
  | 0 => (48, 8)
  | 1 => (39, 9)
  | 2 => (30, 9)
  | 3 => (21, 9)
  | _ => (16, 5)

/-- The condition of R233 that an entry with V = 1 fails, if any. -/
def entryBad (l e : Nat) : Bool :=
  let leaf := bitOf e 1
  let pal := fld e 8 4
  fld e 48 16 != 0 || fld e 6 2 != 0 || bitOf e 4 ||
  (leaf && decide (l ≤ 1)) || (!leaf && l == 4) ||
  (if leaf then pal != 0 || fld e 12 36 % 2 ^ ((levelShift l).1 - 12) != 0
   else (l != 3 && pal != 0) || fld e 2 4 != 0)

/-- The walk from a table at level `l` by a walker of wall `w`: the state, and a translation or a cause. An entry is read at package
scope, so a copy of it in the wall's reserved ways is written back first (R218, R233). One that lies in no part of memory, or in tile
memory that is no addressed buffer, or whose read meets an uncorrectable error, is bad (R233; log entry 159). -/
def walkFrom (s : State) (w va : Nat) : Nat → Nat → Nat → State × Except Nat Tlb
  | 0, _, _ => (s, .error 0x10)
  | fuel + 1, l, table =>
    let (lo, n) := levelShift l
    let a := table + 8 * fld va lo n
    match homeFault s a with
    | some _ => (s, .error 0x10)
    | none => if s.ue then (eccEvent s a, .error 0x10) else
      let s := flushWays (eccNote s a) w (· == a / 128) false
      let e := leNat (homeRead s a 8)
      if !bitOf e 0 then (s, .error 0x0F)
      else if entryBad l e then (s, .error 0x10)
      else if bitOf e 1 then
        (s, .ok { bits := lo, vpn := va / 2 ^ lo, pa := fld e 12 36 * 4096, nc := bitOf e 5, w := bitOf e 2, x := bitOf e 3 })
      else walkFrom s w va fuel (l + 1) (fld e 12 36 * 4096 + (if l = 3 then fld e 8 4 * 256 else 0))

/-- The walk of the tables PTROOT names. -/
def walk (s : State) (w va : Nat) : State × Except Nat Tlb :=
  let r := s.plinth.ptroot.toNat
  if !bitOf r 0 then (s, .error 0x0F) else walkFrom s w va 5 0 (fld r 12 36 * 4096)

/-- The TLB entry that maps an address. -/
def tlbFind (l : List Tlb) (va : Nat) : Option Tlb := l.find? fun e => e.vpn == va / 2 ^ e.bits

/-- An entry installed in a tile TLB: 64 entries, least recently used last (R234). -/
def tlbTouch (s : State) (t : Nat) (e : Tlb) : State :=
  s.modMem t fun m => { m with tlb := (e :: m.tlb.filter (fun x => !(x.bits == e.bits && x.vpn == e.vpn))).take 64 }

/-- An entry installed in a wall TLB: 2,048 sets of eight. R234 does not say which set a page falls in, here its number modulo 2,048 (log
entry 162), nor which entry gives way (log entry 9). -/
def wallTlbPut (s : State) (w : Nat) (e : Tlb) : State :=
  let l := (s.wall w).tlb.filter fun x => !(x.bits == e.bits && x.vpn == e.vpn)
  let same := l.filter fun x => x.vpn % 2048 == e.vpn % 2048
  if same.length < 8 then s.modWall w fun x => { x with tlb := e :: l }
  else
    let v := same[Config.wallTlbVictim s.draws % 8]?
    { s with draws := s.draws + 1 }.modWall w fun x => { x with tlb := e :: l.filter (fun y => some y != v) }

/-- The translation of an address by an entry. -/
def Tlb.map (e : Tlb) (va : Nat) : Nat := e.pa + va % 2 ^ e.bits

/-- The translation a TLB holds: the tile's, then the wall's (R234). With EN = 0 every access faults XLATE (R231). -/
def tlbLookup (s : State) (t va : Nat) : Option (State × Tlb) :=
  match tlbFind (s.tile t).mem.tlb va with
  | some e => some (tlbTouch s t e, e)
  | none => (tlbFind (s.wall (s.wallOf t)).tlb va).map fun e => (tlbTouch s t e, e)

/-- Translation of an access at issue: found in a TLB, or waiting on a walk, a new one unless the page has one; none when
the wall's 512 misses are all taken (R234). -/
def xlatIssue (s : State) (t va : Nat) : Option (State × Xlat) :=
  if !bitOf s.plinth.ptroot.toNat 0 then some (s, .failed 0x0F)
  else match tlbLookup s t va with
    | some (s, e) => some (s, .done (e.map va) e.nc e.w)
    | none =>
      let w := s.wallOf t
      let page := va / 2 ^ 16
      let ws := (s.wall w).walks
      if ws.any (fun x => x.page == page) then some (s, .walking page)
      else if 512 ≤ ws.length then none
      else some (s.modWall w fun x => { x with walks := x.walks ++ [{ page := page }] }, .walking page)

/-- The first read of a walk meets an uncorrectable error: the error is reported, and the entry is bad (R233, spec/19_boundary.md R428). -/
def walkStruck (s : State) (w va : Nat) : State × Except Nat Tlb := walk { s with strike := 2 } w va

/-! ### The misses of fetches, engines, sequencers and prefetches

Each asks for a walk of its page and waits; `r` says who asks: 0 the banker, 1 to 4 the chains, 5 the sequencer, 6 a prefetch, 7 what
comes from outside the tile for one of its commands (R234; log entry 137). -/

/-- Where a miss is kept: page and asker. -/
def askKey (r va : Nat) : Nat := va / 2 ^ 16 * 8 + r

/-- What an asker knows of the walk of its page (`TileMem.asked`). -/
def State.askedOf (s : State) (t r va : Nat) : Nat := Tab.get (s.tile t).mem.asked (askKey r va)

/-- Somebody of the tile has been told that the walk of a page met an uncorrectable error. -/
def struckPage (s : State) (t va : Nat) : Bool := (List.range 8).any fun r => let x := s.askedOf t r va; x == 3 || x == 5

/-- Translation that is complete at once: a TLB holds it, or the tables are walked (log entry 137). -/
def xlatNow (s : State) (t va : Nat) : Except Nat (State × Tlb) :=
  if !bitOf s.plinth.ptroot.toNat 0 then .error 0x0F
  else match tlbLookup s t va with
    | some r => .ok r
    | none => if struckPage s t va then .error 0x10 else match walk s (s.wallOf t) va with
      | (_, .error c) => .error c
      | (s, .ok e) => .ok (tlbTouch (wallTlbPut s (s.wallOf t) e) t e, e)

/-- Nothing is left to wait for before the translation of an address: a TLB holds it, its walk has failed, or it is refused without one
(R231, R234). -/
def xlatFree (s : State) (t r va : Nat) : Bool :=
  decide (2 ^ 56 ≤ va) || !bitOf s.plinth.ptroot.toNat 0 || (tlbLookup s t va).isSome || decide (2 ≤ s.askedOf t r va)

/-- An asker that must wait has the walk of its page made: it joins one that is pending, or takes one of the 512 misses, if one is left
(R234). -/
def askWalk (s : State) (t r va : Nat) : State :=
  let w := s.wallOf t
  let page := va / 2 ^ 16
  let ws := (s.wall w).walks
  let mark (s : State) : State := s.modMem t fun m => { m with asked := Tab.set m.asked (askKey r va) 1 }
  if xlatFree s t r va then s
  else if ws.any (·.page == page) then mark s
  else if 512 ≤ ws.length then s
  else mark (s.modWall w fun x => { x with walks := x.walks ++ [{ page := page }] })

/-- The memory tile that a piece of a virtual area lies in, where it is known. -/
def pieceTile (s : State) (t va : Nat) : Option (Nat × Nat) :=
  (tlbLookup s t va).bind fun r => match s.place (r.2.map va) with
    | .tileMem k mt _ => some (k, mt)
    | _ => none

/-- The memory tiles of both ends of an area. -/
def areaTiles (s : State) (t va n : Nat) : List (Nat × Nat) := ((pieceTile s t va).toList ++ (pieceTile s t (va + n - 1)).toList).eraseDups

/-- An area can be accessed now: both its ends can be translated, and the shared ports of the memory tiles it lies in serve the crossbar
(R210, R234). -/
def areaFree (s : State) (t r va n : Nat) : Bool :=
  xlatFree s t r va && xlatFree s t r (va + n - 1) &&
    (areaTiles s t va n).all fun p => (s.port p.1 p.2).serves s.cyc 4 || s.held.contains p

/-- What is still to wait for is asked for: the walks, and then the ports. -/
def askArea (s : State) (t r va n : Nat) : State :=
  if xlatFree s t r va && xlatFree s t r (va + n - 1) then
    ((areaTiles s t va n).filter fun p => !(s.port p.1 p.2).serves s.cyc 4).foldl (fun s p => askPort s p.1 p.2 4) s
  else askWalk (askWalk s t r va) t r (va + n - 1)

/-- An asker has a turn: what it knows of failed walks is kept for this turn and no longer. -/
def ageAsked (s : State) (t r : Nat) : State :=
  if (s.tile t).mem.asked == [] then s
  else s.modMem t fun m => { m with asked := (m.asked.filter fun p => !(p.1 % 8 == r && decide (4 ≤ p.2))).map fun p =>
    if (p.1 % 8 == r && decide (2 ≤ p.2)) then (p.1, p.2 + 2) else p }

/-- What some askers know of a page is forgotten. -/
def forgetAsked (s : State) (t : Nat) (pick : Nat → Bool) : State :=
  if (s.tile t).mem.asked == [] then s else s.modMem t fun m => { m with asked := m.asked.filter fun p => !pick p.1 }

/-- Those of a tile that wait for the walk of a page learn its end. -/
def tellAsked (s : State) (t page : Nat) (struck ok : Bool) : State :=
  if (s.tile t).mem.asked == [] then s
  else s.modMem t fun m => { m with asked := if ok then m.asked.filter (·.1 / 8 != page) else m.asked.map fun p =>
    if (p.1 / 8 == page && p.2 == 1) then (p.1, if struck then 3 else 2) else p }

/-- A piece that lies in a memory tile takes its shared port for one cycle more (R210). -/
def holdHome (s : State) (pa : Nat) : State :=
  match s.place pa with
  | .tileMem k mt _ => { queuePort s k mt 4 with held := (k, mt) :: s.held }
  | _ => s

/-! ## Areas at package scope -/

/-- Length of the piece of an area that stays within one line. -/
def pieceLen (a n : Nat) : Nat := min n (128 - a % 128)

/-- The bytes of an area read at package scope through translation (R217, R285), or the cause and address of the first
failure. Pieces are lines; `fuel` bounds them. -/
def readArea (t : Nat) : Nat → State → Nat → Nat → Except (Nat × Nat) (State × List Byte)
  | _, s, _, 0 => .ok (s, [])
  | 0, s, _, _ => .ok (s, [])
  | fuel + 1, s, va, n + 1 =>
    let k := pieceLen va (n + 1)
    if 2 ^ 56 ≤ va then .error (0x0E, va)
    else match xlatNow s t va with
      | .error c => .error (c, va)
      | .ok (s, e) =>
        let pa := e.map va
        match homeFault s pa with
        | some c => .error (c, va)
        | none => if s.ue then .error (0x14, va) else
          let (s, b) := perfLoad (holdHome (eccNote s pa) pa) t .package pa k e.nc
          match readArea t fuel s (va + k) (n + 1 - k) with
          | .error x => .error x
          | .ok (s, bs) => .ok (s, b ++ bs)

/-- A failed access of a virtual area met the turn's uncorrectable error, in its page walk or in its data: the error is reported. -/
def reportUe (s : State) (t : Nat) (f : Nat × Nat) : State :=
  let u := { s with strike := s.strike % 8 }
  if !u.ue then s
  else if f.1 = 0x10 then (walk u (s.wallOf t) f.2).1
  else if f.1 = 0x14 then match xlatNow { s with strike := 0 } t f.2 with
    | .ok (_, e) => if (homeFault s (e.map f.2)).isSome then s else eccEvent u (e.map f.2)
    | .error _ => s
  else s

/-- The bytes of a virtual area. -/
def vRead (s : State) (t va n : Nat) : Except (Nat × Nat) (State × List Byte) := readArea t (n / 128 + 2) s va n

/-- An area written at package scope through translation: the state so far, and the failure if there is one. -/
def writeArea (t : Nat) : Nat → State → Nat → List Byte → State × Option (Nat × Nat)
  | _, s, _, [] => (s, none)
  | 0, s, _, _ => (s, none)
  | fuel + 1, s, va, b :: bs =>
    let k := pieceLen va (bs.length + 1)
    if 2 ^ 56 ≤ va then (s, some (0x0E, va))
    else match xlatNow s t va with
      | .error c => (s, some (c, va))
      | .ok (s, e) =>
        let pa := e.map va
        if !e.w then (s, some (0x11, va))
        else match homeFault s pa with
          | some c => (s, some (c, va))
          | none => if s.ue then (eccEvent s pa, some (0x14, va)) else
            writeArea t fuel (perfStore (holdHome (eccNote s pa) pa) t .package pa ((b :: bs).take k) e.nc) (va + k) ((b :: bs).drop k)

/-- Bytes written to a virtual area. -/
def vWrite (s : State) (t va : Nat) (bytes : List Byte) : State × Option (Nat × Nat) :=
  writeArea t (bytes.length / 128 + 2) s va bytes

end Sys2Proof.Machine
end

