-- ==== Sys2Proof/Machine/Copies.lean ====
section
/-!
DEFINITION. Resident copies of launches: their place in a tile (spec/08_launch.md R192), their channels, blocks and headers
(spec/07_control.md R168 to R172, spec/03_numbers.md R91 to R96), their cuts, and what a region fault does (spec/18_system.md
R401 to R406).
-/
namespace Sys2Proof.Machine

/-! ## Geometry (R25, R192) -/

/-- Columns and rows of a shape. -/
def shapeDims : Nat → Nat × Nat
  | 0 => (4, 4)
  | 1 => (8, 4)
  | 2 => (4, 8)
  | _ => (8, 8)

/-- The placements of a shape, in order (spec/01_machine.md R25). -/
def placements : Nat → List (List Nat)
  | 0 => [[0], [1], [2], [3]]
  | 1 => [[0, 1], [2, 3]]
  | 2 => [[0, 2], [1, 3]]
  | _ => [[0, 1, 2, 3]]

/-- The CEs of a shape as `cexy`, ascending y and then x (spec/02_words.md R49). -/
def ceList (shape : Nat) : List Nat :=
  let (w, h) := shapeDims shape
  (List.range h).flatMap fun y => (List.range w).map fun x => y * 8 + x

/-- Column of a copy's CE in the tile. -/
def ceX (c : Copy) (ce : Nat) : Nat := ce % 8 + (if c.pages.getD 0 0 % 2 = 1 then 4 else 0)

/-- Row of a copy's CE in the tile. -/
def ceY (c : Copy) (ce : Nat) : Nat := ce / 8 + (if 2 ≤ c.pages.getD 0 0 then 4 else 0)

/-- The page of a copy's CE. -/
def cePage (c : Copy) (ce : Nat) : Nat := ceX c ce / 4 + 2 * (ceY c ce / 4)

/-- The location of a slot in the layout of R69. -/
def copyLoc (c : Copy) (ce entry : Nat) : Word := originE c.tile c.slot (ceY c ce) (ceX c ce) entry

/-- A CE of a copy. -/
def Copy.ce (c : Copy) (x : Nat) : Ce := Tab.get c.ces x

/-- The copy with one CE changed. -/
def Copy.modCe (c : Copy) (x : Nat) (f : Ce → Ce) : Copy := { c with ces := Tab.modify c.ces x f }

/-! ## Edges -/

/-- The edge into an input channel. -/
def Copy.inEdge (c : Copy) (x ch : Nat) : Option Edge := c.kern.edges.find? fun e => e.dst == .ce x ch

/-- The edge out of an output channel. -/
def Copy.outEdge (c : Copy) (x ch : Nat) : Option Edge := c.kern.edges.find? fun e => e.src == .ce x ch

/-- The format of an edge; an image with an invalid one is never launched (R184). -/
def edgeFmt (e : Edge) : EdgeFmt := (fmtOfReg e.fmt).getD (.wide f32Fmt)

/-- A sink: a FIFO-role memory tile that is the destination of an edge and the source of none (R193). -/
def Kernel.isSink (k : Kernel) (m : Nat) : Bool :=
  bitOf k.mtFifo m && k.edges.any (fun e => e.dst == .mt m) && !k.edges.any (fun e => e.src == .mt m)

/-- The sinks of a kernel. -/
def Kernel.sinks (k : Kernel) : List Nat := (List.range 16).filter k.isSink

/-- The number of the edge out of an output channel, plus 1; 0 where there is none. -/
def Copy.outEdgeIx (c : Copy) (x ch : Nat) : Nat :=
  match c.kern.edges.findIdx? fun e => e.src == .ce x ch with
  | some i => i + 1
  | none => 0

/-- A boundary output edge: one into a sink, whose tokens are for the outside (spec/18_system.md R401, log entry 130). -/
def Copy.isOutput (c : Copy) (e : Edge) : Bool :=
  match e.dst with
  | .mt m => c.kern.isSink m
  | .ce _ _ => false

/-- The queue at an edge's destination. -/
def Copy.queueOf (c : Copy) (e : Edge) : List Token :=
  match e.dst with
  | .mt i => Tab.get c.fifos i
  | .ce x ch => Tab.get (c.ce x).queue ch

/-- The head of an input channel. -/
def Copy.head (c : Copy) (x ch : Nat) : Option Token := (Tab.get (c.ce x).queue ch).head?

/-- The edge that a token of a channel came over. -/
def Copy.tokenEdge (c : Copy) (t : Token) : Edge := c.kern.edges.getD (t.src - 1) default

/-- Tokens of the block of a header (R95). -/
def blockTokens (e : Edge) (hdr : Nat) : Nat := (hdrNval hdr + (edgeFmt e).perToken) / (edgeFmt e).perToken

/-- The header of the block that the head of a channel belongs to: the receiver holds it while it delivers the block (R95). -/
def Copy.heldHdr (c : Copy) (x ch : Nat) (t : Token) : Nat :=
  if t.kind == .data && t.pos != 0 then (Tab.get (c.ce x).inb ch).hdr else t.hdr

/-- What an input channel receives, in order, as far as it is known: its queue, and the FIFO memory tile behind it. -/
def Copy.upcoming (c : Copy) (x ch : Nat) : List Token :=
  Tab.get (c.ce x).queue ch ++ (match c.inEdge x ch with
    | some { src := .mt i, .. } => Tab.get c.fifos i
    | _ => [])

/-- A data token whose header says that its block is short (R96). -/
def shortHead (t : Token) : Bool := t.kind == .data && t.pos == 0 && decide (hdrNval t.hdr < hdrBlk t.hdr)

/-- The header at the head of a channel is bad: the four tests on its fields, a short block that something other than
end-of-stream follows, and a block that another one breaks into (R96; spec/12_engines.md R288; spec/07_control.md R169). -/
def Copy.badHead (c : Copy) (x ch : Nat) : Bool :=
  match c.head x ch with
  | none => false
  | some t =>
    let e := c.tokenEdge t
    match t.kind with
    | .data =>
      t.pos != (Tab.get (c.ce x).inb ch).pos ||
      (t.pos == 0 && (fld t.hdr 0 12 != 0 || hdrFmt t.hdr != e.fmt || hdrBlk t.hdr != e.blk || decide (hdrBlk t.hdr < hdrNval t.hdr))) ||
      (shortHead t && (match ((c.upcoming x ch).drop (blockTokens e t.hdr)).head? with
        | some n => n.kind != .eos
        | none => false))
    | _ => fld t.hdr 22 10 != 0 || fld t.hdr 0 12 != 0

/-- The head of a channel begins a short block, and what follows that block has not come: the header's last test waits for it
(R96, log entry 116). -/
def Copy.headWaits (c : Copy) (x ch : Nat) : Bool :=
  match c.head x ch with
  | none => false
  | some t => shortHead t && decide ((c.upcoming x ch).length ≤ blockTokens (c.tokenEdge t) t.hdr)

/-- The receiving side once a token is taken. -/
def InBlk.take (b : InBlk) (e : Edge) (t : Token) : InBlk :=
  match t.kind with
  | .data =>
    let h := if t.pos = 0 then t.hdr else b.hdr
    { pos := if blockTokens e h ≤ t.pos + 1 then 0 else t.pos + 1, hdr := h }
  | _ => {}

/-- The head of an input channel consumed. -/
def Copy.pop (c : Copy) (x ch : Nat) : Copy :=
  match c.head x ch with
  | none => c
  | some t =>
    let e := c.tokenEdge t
    c.modCe x fun k => { k with queue := Tab.modify k.queue ch List.tail, inb := Tab.modify k.inb ch fun b => b.take e t }

/-- Capacity of an edge's receiving queue (R170). -/
def edgeCap (e : Edge) : Nat :=
  match e.dst with
  | .mt _ => 1024
  | .ce _ _ => 4

/-- Tokens sent towards an edge's queue and not yet queued. -/
def Copy.onWay (c : Copy) (e : Edge) : Nat :=
  match e.dst with
  | .mt i => Tab.get c.fifoSent i
  | .ce x ch => Tab.get (c.ce x).sent ch

/-- Tokens queued on an edge and sent towards its queue. -/
def Copy.load (c : Copy) (e : Edge) : Nat := (c.queueOf e).length + c.onWay e

/-- An output channel can accept a token (R170). -/
def Copy.room (c : Copy) (x ch : Nat) : Bool :=
  match c.outEdge x ch with
  | some e => decide (c.load e < edgeCap e)
  | none => false

/-- The count of tokens on their way to an edge's queue changed. -/
def Copy.modOnWay (c : Copy) (e : Edge) (f : Nat → Nat) : Copy :=
  match e.dst with
  | .mt i => { c with fifoSent := Tab.modify c.fifoSent i f }
  | .ce x ch => c.modCe x fun k => { k with sent := Tab.modify k.sent ch f }

/-- A token on its way to an edge's queue: counted at issue. -/
def Copy.sending (c : Copy) (x ch : Nat) : Copy :=
  match c.outEdge x ch with
  | some e => c.modOnWay e (· + 1)
  | none => c

/-- Some tokens appended to an edge's queue. -/
def Copy.enqueue (c : Copy) (e : Edge) (f : List Token → List Token) : Copy :=
  match e.dst with
  | .mt i => { c with fifos := Tab.modify c.fifos i f }
  | .ce x ch => c.modCe x fun k => { k with queue := Tab.modify k.queue ch f }

/-- A pushed token arrives at its edge's queue. On a boundary output edge the first pushes after a rollback are discarded, and the
others are counted (spec/18_system.md R403). -/
def Copy.receive (c : Copy) (x ch : Nat) (e : Edge) (t : Token) : Copy :=
  let i := c.outEdgeIx x ch
  let c := c.modOnWay e (· - 1)
  let t := { t with src := i, org := i }
  if !c.isOutput e then c.enqueue e (· ++ [t])
  else if Tab.get c.skip i = 0 then { c with pushed := Tab.modify c.pushed i (· + 1) }.enqueue e (· ++ [t])
  else { c with skip := Tab.modify c.skip i (· - 1) }

/-! ## FIFO memory tiles -/

/-- The edges out of a FIFO memory tile, by number. -/
def Kernel.edgesFrom (k : Kernel) (m : Nat) : List Nat :=
  (List.range k.edges.length).filter fun i => (k.edges.getD i default).src == .mt m

/-- The head of a FIFO memory tile goes to the channel of edge `i`, if that has room. A token that came from outside enters the
input log (spec/18_system.md R401, log entry 130). -/
def Copy.forward (c : Copy) (m i : Nat) : Option Copy :=
  let e := c.kern.edges.getD i default
  match Tab.get c.fifos m with
  | [] => none
  | t :: q =>
    if edgeCap e ≤ c.load e then none
    else some ({ c with fifos := Tab.set c.fifos m q, fifoTo := Tab.set c.fifoTo m (i + 1),
                        log := if t.src = 0 then c.log ++ [(m, t)] else c.log }.enqueue e (· ++ [{ t with src := i + 1 }]))

/-- The edge that the head of a FIFO memory tile goes to: the one edge out of it; with several, a free one for each block, and for
end-of-stream that of the token before it. `n` draws have been made. -/
def Copy.fifoEdge (c : Copy) (m n : Nat) : Option (Nat × Nat) :=
  match c.kern.edgesFrom m, Tab.get c.fifos m with
  | [], _ | _, [] => none
  | [i], _ => some (i, n)
  | l, t :: _ =>
    if Tab.get c.fifoTo m ≠ 0 ∧ (t.pos ≠ 0 ∨ t.kind = .eos) then some (Tab.get c.fifoTo m - 1, n)
    else some (l.getD (Config.fifoTurn n % l.length) 0, n + 1)

/-- A FIFO memory tile feeds its channels as far as they have room. -/
def Copy.feedFrom (m : Nat) : Nat → Copy × Nat → Copy × Nat
  | 0, p => p
  | k + 1, (c, n) => match c.fifoEdge m n with
    | none => (c, n)
    | some (i, n') => match c.forward m i with
      | some c' => Copy.feedFrom m k (c', n')
      | none => (c, n)

/-- All FIFO memory tiles of a copy feed their channels: at most 4 tokens an edge. -/
def Copy.feed (c : Copy) (n : Nat) : Copy × Nat :=
  c.fifos.foldl (fun p q => if q.2 = [] then p else Copy.feedFrom q.1 (4 * c.kern.edges.length) p) (c, n)

/-! ## Blocks (R94, R95) -/

/-- The value a data token carries on an edge: the containers of a packed token that the block has no place for are sent as zero
(R95). -/
def carried (e : Edge) (n : Nat) (v : Val) : Val :=
  if v.poison || v.void then v
  else match edgeFmt e with
    | .narrow f =>
      let c := containerBits f.width
      { v with v := BitVec.ofNat 64 (fld v.v.toNat 0 (min (64 / c) (e.blk + 1 - n) * c)) }
    | _ => v

/-- A data token joins the sender's open block, or opens one under the latch as it stands: the token and the sender. The header of
an open block shows NVAL as BLK until the block is closed (log entry 116). -/
def blockToken (e : Edge) (slot latch : Nat) (o : OutBlk) (v : Val) : Token × OutBlk :=
  let f := edgeFmt e
  let hdr := if o.n = 0 then mkHeader (if f.isNarrow then latch else scaleOne) e.fmt e.blk e.blk slot 0 else o.hdr
  let n := o.n + min f.perToken (e.blk + 1 - o.n)
  let tok : Token := { kind := .data, val := carried e o.n v, hdr := hdr, pos := if o.n = 0 then 0 else o.toks }
  let toks := tok.pos + 1
  (tok, if n = e.blk + 1 then { n := 0, hdr := 0, toks := 0, ntok := (o.ntok + 1) % 2 ^ 32 }
        else { n := n, hdr := hdr, toks := toks, ntok := (o.ntok + 1) % 2 ^ 32 })

/-- In a queue read from its end, the tokens of the last block that an edge's sender pushed take its final NVAL. -/
def fixBack (org nval : Nat) : List Token → List Token
  | [] => []
  | t :: q =>
    if t.org = org ∧ t.kind = .data then
      let t' := { t with hdr := setFld t.hdr 16 6 nval }
      if t.pos = 0 then t' :: q else t' :: fixBack org nval q
    else t :: fixBack org nval q

/-- The tokens of the last block pushed on edge `org` (R95) take its final NVAL where they are still queued. -/
def fixNval (org nval : Nat) (q : List Token) : List Token := (fixBack org nval q.reverse).reverse

/-- The channel queue that a FIFO memory tile feeds its block under way into. -/
def Copy.fedBy (c : Copy) (m : Nat) : Option Edge :=
  if Tab.get c.fifoTo m = 0 then none else some (c.kern.edges.getD (Tab.get c.fifoTo m - 1) default)

/-- The tokens of the last block pushed on edge `org` take its final NVAL wherever they wait to be presented: in the queue of the edge,
and, of an edge into a FIFO memory tile, in the channel that the tile has begun to feed the block into (R95). -/
def Copy.fixQueued (c : Copy) (e : Edge) (org nval : Nat) : Copy :=
  match e.dst with
  | .ce .. => c.enqueue e (fixNval org nval)
  | .mt m => match c.fedBy m with
    | none => c.enqueue e (fixNval org nval)
    | some f =>
      let n := (c.queueOf f).length
      let q := fixNval org nval (c.queueOf f ++ c.queueOf e)
      (c.enqueue f fun _ => q.take n).enqueue e fun _ => q.drop n

/-- The end-of-stream token (R169). -/
def eosToken (ntok origin slot : Nat) : Token :=
  { kind := .eos, val := { void := true }, hdr := ntok % 2 ^ 32 * 2 ^ 32 + origin * 2 ^ 16 + slot * 2 ^ 14 + 1 * 2 ^ 12 }

/-- The plumb marker of a cut (spec/18_system.md R400). -/
def markerToken (cut origin slot : Nat) : Token :=
  { kind := .marker, val := { void := true }, hdr := cut % 2 ^ 32 * 2 ^ 32 + origin * 2 ^ 16 + slot * 2 ^ 14 + 2 * 2 ^ 12 }

/-- A slot's data token lands in its edge's queue. -/
def Copy.landToken (c : Copy) (x ch : Nat) (v : Val) : Copy :=
  match c.outEdge x ch with
  | none => c
  | some e =>
    let k := c.ce x
    let latch := match k.latch.find? (fun p => p.1 == ch) with
      | some p => p.2
      | none => scaleOne
    let (tok, o) := blockToken e c.slot latch (Tab.get k.out ch) v
    (c.modCe x fun k => { k with out := Tab.set k.out ch o }).receive x ch e tok

/-- The open block of an output channel closed (R95). -/
def Copy.closeBlock (c : Copy) (x ch : Nat) (e : Edge) : Copy :=
  let o := Tab.get (c.ce x).out ch
  if o.n = 0 then c
  else (c.fixQueued e (c.outEdgeIx x ch) (o.n - 1)).modCe x fun k =>
    { k with out := Tab.set k.out ch { n := 0, hdr := 0, toks := 0, ntok := o.ntok } }

/-- A slot's end-of-stream lands: the open block is closed first (R95). -/
def Copy.landEos (c : Copy) (x ch : Nat) : Copy :=
  match c.outEdge x ch with
  | none => c
  | some e => (c.closeBlock x ch e).receive x ch e (eosToken (Tab.get (c.ce x).out ch).ntok x c.slot)

/-- The format and block length the edges of a FIFO memory tile share (spec/02_words.md R77). -/
def Kernel.fifoEdge (k : Kernel) (m : Nat) : Option Edge := k.edges.find? fun e => e.src == .mt m || e.dst == .mt m

/-- Double words cut into blocks and queued, as the loader does (R82, R95). -/
def imageTokens (e : Edge) (slot : Nat) : OutBlk → List Nat → List Token × OutBlk
  | o, [] => ([], o)
  | o, w :: ws =>
    let (t, o) := blockToken e slot scaleOne o { v := BitVec.ofNat 64 w }
    let (ts, o) := imageTokens e slot o ws
    (t :: ts, o)

/-- The double words of some bytes. -/
def wordsOf : Nat → List Byte → List Nat
  | 0, _ => []
  | n + 1, bs => leNat (bs.take 8) :: wordsOf n (bs.drop 8)

/-- The loader's open block closed. -/
def closeImage (q : List Token) (o : OutBlk) : List Token × OutBlk :=
  if o.n = 0 then (q, o) else (fixNval 0 (o.n - 1) q, { ntok := o.ntok })

/-- A data image joins the tokens of its FIFO memory tile, which are one stream cut into blocks; end-of-stream where asked, with
the values queued before it (R95, R178). -/
def imageJoin (e : Edge) (slot : Nat) (p : List Token × OutBlk) (d : DataImg) : List Token × OutBlk :=
  let (ts, o) := imageTokens e slot p.2 (wordsOf (d.bytes.length / 8) d.bytes)
  if d.eos then
    let (q, o) := closeImage (p.1 ++ ts) o
    (q ++ [eosToken o.ntok 0 slot], o)
  else (p.1 ++ ts, o)

/-- The tokens of the data images of a FIFO memory tile; a block still open behind the last image is closed there (log
entry 116). -/
def imageQueue (e : Edge) (slot : Nat) (l : List DataImg) : List Token :=
  let (q, o) := l.foldl (imageJoin e slot) ([], {})
  (closeImage q o).1

/-! ## Cuts (spec/18_system.md R401, R402) -/

/-- Cuts are written on the copy's tile. -/
def State.snapOn (s : State) (t : Nat) : Bool := bitOf (s.tile t).sys.snapbase.toNat 0

/-- Memory tiles of a copy in the addressed-buffer role, in region numbering. -/
def Copy.buffers (c : Copy) : List Nat :=
  (List.range 16).filter fun m => bitOf c.kern.mtUse m && !bitOf c.kern.mtFifo m && !bitOf c.kern.mtCache m

/-- What a copy's owned buffers hold: (memory tile × 65,536 + offset, byte). -/
def copyMem (s : State) (c : Copy) : List (Nat × Byte) :=
  c.buffers.flatMap fun m =>
    let a := mtAddr c.tile (physMt c m) 0
    (cellsOf a (a + 65536) s.mem).map fun p => (m * 65536 + p.1, p.2)

/-- The tag tables of a copy's buffers: (memory tile × 256 + entry) to tag and use order. -/
def copyTags (s : State) (c : Copy) : Tab (Nat × Nat) :=
  c.buffers.flatMap fun m =>
    (List.range 256).filterMap fun e =>
      let x := Tab.get (s.tile c.tile).mem.tags (physMt c m * 256 + e)
      if x.valid then some (m * 256 + e, (x.tag, x.use)) else none

/-- The state of a copy as a cut records it. -/
def cutOf (s : State) (c : Copy) (k : Nat) : Cut :=
  { k := k, ces := c.ces, fifos := c.fifos, v := c.v, j := c.j, base := c.base, oc := c.oc, fifoTo := c.fifoTo, mem := copyMem s c, tags := copyTags s c }

/-- The cells of all of a copy's buffers removed. -/
def clearMem (s : State) (c : Copy) : State :=
  c.buffers.foldl (fun s m =>
    let a := mtAddr c.tile (physMt c m) 0
    { s with mem := clearCells a (a + 65536) s.mem }) s

/-- A copy's buffers and tag tables as a cut recorded them. -/
def restoreMem (s : State) (c : Copy) (k : Cut) : State :=
  let s := clearMem s c
  let s := (k.mem.filter fun p => c.buffers.contains (p.1 / 65536)).foldl (fun s p =>
    { s with mem := writeByte s.mem (mtAddr c.tile (physMt c (p.1 / 65536)) (p.1 % 65536)) p.2 }) s
  s.modMem c.tile fun m =>
    let keep := m.tags.filter fun p => !(c.buffers.any fun b => physMt c b == p.1 / 256)
    { m with tags := k.tags.foldl (fun t p =>
        Tab.set t (physMt c (p.1 / 256) * 256 + p.1 % 256) { valid := true, tag := p.2.1, use := p.2.2 }) keep }

/-- The copy an act belongs to. -/
def Act.copy? : Act → Option CopyRef
  | .write c .. | .eos c .. | .marker c .. | .latch c .. | .panel c .. | .atomic c .. | .origin c .. => some c
  | .store who .. => who.map (·.1)
  | .tset who .. | .tclr who .. | .tuse who .. => who
  | .cell a => some a.ref
  | .semAdd .. | .semTake .. | .cmdDone .. => none

/-- A copy has writes that have not landed. -/
def State.inFlight (s : State) (c : CopyRef) : Bool := s.due.any fun d => d.act.copy? == some c

/-- A copy holds no lease. -/
def Copy.noLease (c : Copy) : Bool := c.ces.all fun p => p.2.lease == []

/-! ## Region faults (spec/18_system.md R391, R403, R406) -/

/-- Bytes of a load-table entry counted in TILE.SBPEND: those of an atomic of wide scope (spec/10_ordering.md R245). -/
def LoadEnt.pend (e : LoadEnt) : Nat := if e.rmw.isSome && wideScope e.scope then e.size.bytes else 0

/-- Requests of a copy discarded: in the exponent engine's lanes and in the load table (R403). -/
def discardRequests (s : State) (c : Copy) : State :=
  let mine (r : ExpReq) : Bool := match r with
    | .slot x .. => x == c.ref
    | _ => false
  let gone := (s.tile c.tile).mem.loads.filter fun e => e.who == .region c.ref
  let s := s.modTile c.tile fun x =>
    { x with
      lanes := x.lanes.map fun p => (p.1, { p.2 with slots := p.2.slots.filter (!mine ·), flight := p.2.flight.filter fun q => !mine q.2 })
      mem := { x.mem with loads := x.mem.loads.filter fun e => e.who != .region c.ref
                          sbpend := x.mem.sbpend - (gone.map LoadEnt.pend).sum } }
  let s := { s with xbar := s.xbar.filter fun m => !(m.tile == c.tile && gone.any (·.id == m.id)) }
  gone.foldl (fun s e => accessOver s c.tile e.id) s

/-- Leases dropped. -/
def Copy.dropLeases (c : Copy) : Copy := { c with ces := c.ces.map fun p => (p.1, { p.2 with lease := [] }) }

/-- A FIFO memory tile after a rollback: what it held at the cut, and behind that the tokens that have come from outside since, the
consumed ones from the input log first (R403). -/
def replayQueue (c : Copy) (k : Cut) (m : Nat) : List Token :=
  let held := Tab.get k.fifos m
  let outside := ((c.logPrev ++ c.log).filter (fun p => p.1 == m)).map (·.2) ++ (Tab.get c.fifos m).filter (·.src == 0)
  held ++ outside.drop (held.filter (·.src == 0)).length

/-- Tokens that the boundary output edges have delivered since the last complete cut: P_e (R403). -/
def pushedSince (c : Copy) : Tab Nat := c.pushed.foldl (fun t p => Tab.modify t p.1 (· + p.2)) c.pushedPrev

/-- The copy restored to its last complete cut, its input replayed, held; the sinks keep what has been delivered. -/
def rolledBack (c : Copy) (k : Cut) : Copy :=
  let fifo (t : Tab (List Token)) (m : Nat) : Tab (List Token) :=
    Tab.set t m (if c.kern.isSink m then Tab.get c.fifos m else replayQueue c k m)
  { c with ces := k.ces, v := k.v, j := k.j, base := k.base, oc := k.oc, fifoTo := k.fifoTo, writing := none, leave := false, log := [],
           logPrev := [], cutK := k.k, cutJ := k.j, fifoSent := [], fenceLd := false, fenceSt := false, fenceAcq := false, ldUntil := 0,
           phase := .held true, pushed := pushedSince c, pushedPrev := [], skip := pushedSince c,
           fifos := (List.range 16).foldl fifo [] }

/-- The cut that a bank gives back: the one recorded there, unless what was written has been changed (R402). -/
def bankCut (s : State) (k : Cut) : State × Cut :=
  if readBytes s.mem k.bankAt k.bank.length = k.bank then (s, k)
  else ({ s with draws := s.draws + 1 }, Config.alteredCut s.draws)

/-- A fault of kind G that takes effect: the copy stops, its requests are discarded, it goes back to its last complete cut where
cuts are written (otherwise NOROLL), at the end of the cycle (`settleFault`), and the fault is posted to the banker of the tile that
issued the launch. Further faults of a copy that is held or rolling back are discarded (R406). -/
def regionTrap (s : State) (ref : CopyRef) (cause : Nat) (info info2 : Word) : State :=
  let post (s : State) (noroll : Bool) : State :=
    postTrap s ref.issuer { trap := { cause := cause, posted := true, noroll := noroll, lid := ref.lid, copy := ref.copy,
                                      info := info, info2 := info2 }, rank := 0, sub := ref.lid * 32 + ref.copy }
  match s.copy? ref with
  | none => post s false
  | some c =>
    match c.phase with
    | .held _ | .broken | .failing => s
    | _ =>
      let s := discardRequests s c
      if s.snapOn c.tile then
        if c.done.isSome then post (s.modCopy ref fun c => { c with phase := .failing }) false
        else post (s.modCopy ref fun c => { c.dropLeases with phase := .held false }) true
      else post (s.modCopy ref fun c => { c.dropLeases with phase := .held false, fenceLd := false, fenceSt := false, fenceAcq := false }) true

/-- A copy that a fault has stopped goes back to its last complete cut (R403). -/
def rollBack (s : State) (c : Copy) (k : Cut) : State :=
  let (s, k) := bankCut s k
  (restoreMem s c k).modCopy c.ref fun _ => rolledBack c k

/-- The access causes: MEM_ADDR to MW_RANGE (R390). -/
def accessCause (c : Nat) : Bool := decide (0x0B ≤ c) && decide (c ≤ 0x15)

/-- A slot's fault: its location in INFO, and an address in INFO2 for an access cause; POISON carries its origin (R395). -/
def regionFault (s : State) (ref : CopyRef) (cause : Nat) (loc : Word) (x : Word) : State :=
  if cause = 0x01 then regionTrap s ref cause x loc else regionTrap s ref cause loc (if accessCause cause then x else 0)

end Sys2Proof.Machine
end

