-- ==== Sys2Proof/Machine/Image.lean ====
section
/-!
DEFINITION. The configuration image: its layout and the checks of `cfgload` (spec/08_launch.md R182 to R184).
-/
namespace Sys2Proof.Machine

/-! ## Slot words as forms -/

/-- Guard, destination and sources of a slot word. -/
def slotForm : EInstr → EForm
  | .nop g => bareForm g
  | .movi g d _ => { bareForm g with dst := d }
  | .movhi g d _ => { bareForm g with dst := d }
  | .alu _ _ f => f
  | .float _ _ _ f => f
  | .cvt _ _ _ f => f
  | .cvti _ _ _ f => f
  | .cvtn _ _ f => f
  | .cvtnf _ f => f
  | .scext f => f
  | .npack f => f
  | .nunpk _ _ f => f
  | .expfn _ _ _ _ f => f
  | .fdiv _ _ _ f => f
  | .fsqrt _ _ _ f => f
  | .bits _ _ f => f
  | .stream _ f => f
  | .ld _ _ f => f
  | .st _ f => f
  | .ldg _ f => f
  | .stg _ f => f
  | .pf _ f => f
  | .tlook f => f
  | .tset f => f
  | .tclr f => f
  | .stmw _ f => f
  | .atomic _ _ f => f
  | .fence _ _ g => bareForm g
  | .sig _ _ f => f
  | .cell _ f => f
  | .sample _ f => f
  | .brk g => bareForm g
  | .trig f => f
  | .tmark f => f

/-- The sources of a form. -/
def formSrcs (f : EForm) : List ESrc := [f.a, f.b, f.c]

/-- The input channels some sources name, in order. -/
def srcChans (l : List ESrc) : List Nat :=
  l.filterMap fun s => match s with
    | .ch i => some i.val
    | _ => none

/-- The output channel a destination names. -/
def dstChan : EDst → Option Nat
  | .ch i => some i.val
  | _ => none

/-! ## The layout (R182, R183) -/

/-- The bytes of an image cut into its sections: double words, and data images with their padding. -/
structure RawImage where
  tables : List Nat
  edges : List Nat
  luts : List Nat
  inits : List Nat
  data : List (Nat × List Byte × List Byte)

/-- Data images: descriptor, bytes and padding, and what follows them. -/
def cutData : Nat → List Byte → Option (List (Nat × List Byte × List Byte) × List Byte)
  | 0, bs => some ([], bs)
  | n + 1, bs =>
    let w := leNat (bs.take 8)
    let len := fld w 32 32
    let pad := (8 - len % 8) % 8
    let r := bs.drop 8
    if bs.length < 8 ∨ r.length < len + pad then none
    else (cutData n (r.drop (len + pad))).map fun (l, rest) => ((w, r.take len, (r.drop len).take pad) :: l, rest)

/-- The header. -/
def imgHeader (bytes : List Byte) : Nat := leNat (bytes.take 32)

/-- LEN of a header. -/
def imgLen (h : Nat) : Nat := fld h 192 32

/-- The sections, when the counts imply exactly LEN bytes. -/
def cutImage (bytes : List Byte) : Option RawImage :=
  let h := imgHeader bytes
  let (w, r) := shapeDims (fld h 40 2)
  let nt := w * r * (fld h 42 6 + 1)
  let ne := fld h 136 8
  let nl := fld h 144 16
  let ni := 2 * fld h 160 16
  let n := nt + ne + nl + ni
  let body := bytes.drop 32
  if bytes.length ≠ imgLen h ∨ body.length < 8 * n then none
  else
    let ws := wordsOf n body
    match cutData (fld h 176 16) (body.drop (8 * n)) with
    | some (d, []) =>
      some { tables := ws.take nt, edges := (ws.drop nt).take ne, luts := (ws.drop (nt + ne)).take nl,
             inits := ws.drop (nt + ne + nl), data := d }
    | _ => none

/-- An endpoint of an edge. -/
def endPtOf (x : Nat) : EndPt := if bitOf x 9 then .mt (fld x 0 4) else .ce (fld x 3 6) (fld x 0 3)

/-- An edge entry. -/
def edgeOf (w : Nat) : Edge := { src := endPtOf (fld w 0 10), dst := endPtOf (fld w 10 10), fmt := fld w 20 16, blk := fld w 36 6 }

/-- The initialisation entries from their double words. -/
def initsOf : List Nat → List InitEnt
  | w :: v :: l => { all := bitOf w 6, cexy := fld w 0 6, kind := fld w 8 2, idx := fld w 10 6, value := BitVec.ofNat 64 v } :: initsOf l
  | _ => []

/-- A list cut into pieces of `n`, `k` of them. -/
def pieces {α : Type} (n : Nat) : Nat → List α → List (List α)
  | 0, _ => []
  | k + 1, l => l.take n :: pieces n k (l.drop n)

/-- The configuration an image holds. -/
def kernelOf (bytes : List Byte) : Kernel :=
  let h := imgHeader bytes
  let (w, r) := shapeDims (fld h 40 2)
  let ii := fld h 42 6 + 1
  let k : Kernel := { shape := fld h 40 2, ii := ii, stage := fld h 48 6, wbuf := bitOf h 54, snap := fld h 64 16,
                      mtUse := fld h 80 16, mtFifo := fld h 96 16, mtCache := fld h 112 16, lutUse := fld h 128 4 }
  match cutImage bytes with
  | none => k
  | some x =>
    { k with words := pieces ii (w * r) (x.tables.map fun w => BitVec.ofNat 48 w)
             edges := x.edges.map edgeOf
             luts := x.luts.map fun w => (fld w 24 2 * 256 + fld w 16 8, fld w 0 16)
             inits := initsOf x.inits
             data := x.data.map fun (w, b, _) => { mt := fld w 0 4, eos := bitOf w 4, off := fld w 16 16, bytes := b } }

/-! ## The checks (R184) -/

/-- An endpoint has no bit that R183 marks zero. -/
def endPtOk (x : Nat) : Bool := !bitOf x 9 || fld x 4 5 == 0

/-- Every second double word, from the first on: the first words of the initialisation entries. -/
def evens : List Nat → List Nat
  | w :: _ :: l => w :: evens l
  | l => l

/-- Check 0x01: the header, the length and the zero bits of the entries. -/
def imageFormOk (bytes : List Byte) : Bool :=
  let h := imgHeader bytes
  fld h 0 32 == 0x0A1EC0F6 && fld h 32 8 == 1 && fld h 224 32 == 0 && fld h 132 4 == 0 && fld h 55 9 == 0 &&
  match cutImage bytes with
  | none => false
  | some x =>
    x.edges.all (fun w => fld w 42 22 == 0 && endPtOk (fld w 0 10) && endPtOk (fld w 10 10)) &&
    x.luts.all (fun w => fld w 26 38 == 0) &&
    (evens x.inits).all (fun w => fld w 16 48 == 0 && !bitOf w 7 && (!bitOf w 6 || fld w 0 6 == 0)) &&
    x.data.all (fun (w, b, pad) => fld w 5 11 == 0 && pad.all (· == 0) &&
      (!bitOf (fld h 96 16) (fld w 0 4) || (fld w 16 16 == 0 && b.length % 8 == 0)))

/-- The region holds the CE. -/
def insideShape (k : Kernel) (x : Nat) : Bool :=
  let (w, h) := shapeDims k.shape
  decide (x % 8 < w) && decide (x / 8 < h)

/-- Pages of a shape. -/
def shapePages (shape : Nat) : Nat :=
  match shape with
  | 0 => 1
  | 1 | 2 => 2
  | _ => 4

/-- An initialisation names a register and a CE that exist. -/
def initOk (k : Kernel) (i : InitEnt) : Bool :=
  (match i.kind with
   | 0 => true
   | 1 => decide (i.idx < 16)
   | 2 => decide (i.idx < 7)
   | _ => false) && (i.all || insideShape k i.cexy)

/-- Check 0x03: what lies beyond the shape. -/
def imageFits (k : Kernel) : Bool :=
  let p := shapePages k.shape
  decide (k.mtUse < 2 ^ (4 * p)) && decide (k.lutUse < 2 ^ p) && k.inits.all (initOk k) &&
  k.luts.all (fun l => decide (l.1 / 256 < p) && bitOf k.lutUse (l.1 / 256)) &&
  k.data.all (fun d => decide (d.off + d.bytes.length ≤ 65536) && bitOf k.mtUse d.mt)

/-- Check 0x04: the roles. -/
def imageRoles (k : Kernel) : Bool :=
  (List.range 16).all (fun i =>
    (!(bitOf k.mtFifo i || bitOf k.mtCache i) || bitOf k.mtUse i) && !(bitOf k.mtFifo i && bitOf k.mtCache i)) &&
  k.data.all (fun d => !d.eos || bitOf k.mtFifo d.mt)

/-- The assigned slot words of an image with their CEs. -/
def slotsOf (k : Kernel) : List (Nat × EInstr) :=
  ((ceList k.shape).zip k.words).flatMap fun (x, ws) => ws.filterMap fun w => (decodeE w.toNat).map fun e => (x, e)

/-- The CE next to another in a direction, if the region holds it. -/
def neighbour (k : Kernel) (x : Nat) (d : Dir) : Option Nat :=
  let (w, h) := shapeDims k.shape
  match d with
  | .n => if x / 8 = 0 then none else some (x - 8)
  | .s => if x / 8 + 1 < h then some (x + 8) else none
  | .w => if x % 8 = 0 then none else some (x - 1)
  | .e => if x % 8 + 1 < w then some (x + 1) else none

/-- A source names no neighbour outside the region. -/
def srcInside (k : Kernel) (x : Nat) : ESrc → Bool
  | .nb d => (neighbour k x d).isSome
  | _ => true

/-- Check 0x05. -/
def imageNeighbours (k : Kernel) : Bool := (slotsOf k).all fun (x, e) => (formSrcs (slotForm e)).all (srcInside k x)

/-- The format register of the edge into an input channel. -/
def inFmt (k : Kernel) (x ch : Nat) : Option Nat := (k.edges.find? fun e => e.dst == .ce x ch).map (·.fmt)

/-- The format register of the edge out of an output channel. -/
def outFmt (k : Kernel) (x ch : Nat) : Option Nat := (k.edges.find? fun e => e.src == .ce x ch).map (·.fmt)

/-- An output channel is the source of two edges. -/
def forks : List Edge → Bool
  | [] => false
  | e :: l => (match e.src with
    | .ce .. => l.any (·.src == e.src)
    | .mt _ => false) || forks l

/-- Check 0x06. -/
def imageWired (k : Kernel) : Bool :=
  !forks k.edges && (slotsOf k).all fun (x, e) =>
    let f := slotForm e
    (srcChans (formSrcs f)).all (fun c => (inFmt k x c).isSome) && (match dstChan f.dst with
      | some c => (outFmt k x c).isSome
      | none => true)

/-- A format register names a wide float, or an integer where `ints` allows one. -/
def wideReg (ints : Bool) (r : Option Nat) : Bool :=
  match r with
  | none => false
  | some r => match fmtOfReg r with
    | some (.wide _) => true
    | some (.int ..) => ints
    | _ => false

/-- MX = edge: the first source is a channel with a format the instruction accepts (R134, R141, R142). -/
def srcEdgeOk (k : Kernel) (x : Nat) (ints : Bool) (f : EForm) : Bool :=
  match f.a with
  | .ch i => wideReg ints (inFmt k x i.val)
  | _ => false

/-- FM = edge: the destination is a channel with a wide float format (R134). -/
def dstEdgeOk (k : Kernel) (x : Nat) (f : EForm) : Bool :=
  match dstChan f.dst with
  | some c => wideReg false (outFmt k x c)
  | none => false

/-- The sources' first channel carries a wide float, and the other channels of the slot the same format (R128). -/
def oneEdgeFmt (k : Kernel) (x : Nat) (srcs : List ESrc) (d : EDst) : Bool :=
  match srcChans srcs with
  | [] => false
  | c :: cs =>
    let r := inFmt k x c
    wideReg false r && cs.all (fun c => inFmt k x c == r) && (match dstChan d with
      | some c => outFmt k x c == r
      | none => true)

/-- A slot's use of edge formats is legal (R128, R134, R141, R142, spec/11_systolic.md R263). -/
def floatSlotOk (k : Kernel) (x : Nat) : EInstr → Bool
  | .float _ fm _ f => fm != .edge || oneEdgeFmt k x (formSrcs f) f.dst
  | .cvt d _ sf f => (sf != .edge || srcEdgeOk k x true f) && (d != .edge || dstEdgeOk k x f)
  | .cvti _ _ sf f => sf != .edge || srcEdgeOk k x false f
  | .cvtn _ sf f => sf != .edge || srcEdgeOk k x true f
  | .cvtnf sf f => sf != .edge || srcEdgeOk k x true f
  | .expfn _ _ _ sf f => sf != .edge || srcEdgeOk k x false f
  | .fdiv d _ sf f => (sf != .edge || srcEdgeOk k x false f) && (d != .edge || dstEdgeOk k x f)
  | .fsqrt d _ sf f => (sf != .edge || srcEdgeOk k x false f) && (d != .edge || dstEdgeOk k x f)
  -- the format is that of B or C; the record's channel must carry the same
  | .cell (.sfeedw fm) f => fm != .edge || (srcChans [f.b, f.c] != [] && oneEdgeFmt k x [f.b, f.c, f.a] .result)
  | _ => true

/-- Check 0x08. -/
def imageFloats (k : Kernel) : Bool := (slotsOf k).all fun (x, e) => floatSlotOk k x e

/-- An endpoint lies inside the shape, a memory tile with the FIFO role. -/
def endOk (k : Kernel) : EndPt → Bool
  | .ce x _ => insideShape k x
  | .mt i => decide (i < 4 * shapePages k.shape) && bitOf k.mtFifo i

/-- A memory tile an endpoint names. -/
def endMt : EndPt → List Nat
  | .mt i => [i]
  | _ => []

/-- Check 0x09. -/
def imageEdges (k : Kernel) : Bool :=
  k.edges.all (fun e => endOk k e.src && endOk k e.dst && (endMt e.src == [] || endMt e.dst == [])) &&
  (List.range 16).all fun i =>
    !bitOf k.mtFifo i || (match k.fifoEdge i with
      | none => false
      | some e => k.edges.all fun x => !((endMt x.src ++ endMt x.dst).contains i) || (x.fmt == e.fmt && x.blk == e.blk))

/-- The check code of an image (R184). -/
def checkImage (bytes : List Byte) : Nat :=
  let k := kernelOf bytes
  if !imageFormOk bytes then 0x01
  else if k.snap = 0 then 0x02
  else if !imageFits k then 0x03
  else if !imageRoles k then 0x04
  else if !imageNeighbours k then 0x05
  else if !imageWired k then 0x06
  else if k.edges.any (fun e => (fmtOfReg e.fmt).isNone) then 0x07
  else if !imageFloats k then 0x08
  else if !imageEdges k then 0x09
  else 0x00

end Sys2Proof.Machine
end

