-- ==== Sys2Proof/Machine/Operands.lean ====
section
/-!
DEFINITION. The operands of banker instructions and the frame every banker instruction runs in: reading sources
(spec/02_words.md R58), the interlock (spec/04_integer.md R113), the guard (R114, R115), poison (spec/02_words.md R70), how
an instruction retires (spec/07_control.md R162, R165) and how it faults (spec/18_system.md R391).
-/
namespace Sys2Proof.Machine

/-- What a banker source reads as (R58); an unused source reads 0. -/
def readB (s : State) (t : Nat) : BSrc → PReg
  | .none => {}
  | .g i => Tab.get (s.tile t).bk.r.g i.val
  | .lc i => { v := BitVec.ofNat 64 (Tab.get (s.tile t).bk.r.lc i.val) }
  | .tlog => { v := BitVec.ofNat 64 t }
  | .wlog => { v := BitVec.ofNat 64 (s.wallOf t) }
  | .cyc => { v := BitVec.ofNat 64 s.cyc }
  | .imm6 v => { v := v.signExtend 64 }
  | .imm12 v => { v := v.signExtend 64 }

/-- The register a source reads, in the interlock table. -/
def srcRegs : BSrc → List Nat
  | .g i => [i.val]
  | .lc i => [40 + i.val]
  | _ => []

/-- The registers a form reads. -/
def formRegs (f : BForm) : List Nat := srcRegs f.a ++ srcRegs f.b ++ srcRegs f.c

/-- Cycle from which an interlocked register is ready. -/
def Banker.readyAt (b : Banker) (i : Nat) : Nat := Tab.get b.ready i

/-- How an instruction stands before its effect. -/
inductive Gate where
  /-- it waits for a register -/
  | wait
  /-- its guard is false -/
  | skip
  /-- a poisoned guard or source, with the origin -/
  | poison (origin : Word)
  | go
deriving DecidableEq, Repr, Inhabited

/-- Interlock, guard and poisoned sources, in that order: a false guard waits on no source (R114), and a poisoned one on no more than
the destination. The origin a poisoned flag gives is what the banker's latch holds, its own or an earlier flag's, and 0 where it has been
read empty: R115 and R399 do not say which (log entry 158). -/
def gate (s : State) (t : Nat) (g : Guard) (need : List Nat) (d : BDst) (srcs : List PReg) : Gate :=
  let b := (s.tile t).bk
  let fl := b.r.flag g.idx.val
  if s.cyc < b.readyAt (32 + g.idx.val) then .wait
  else if fl.poison then (if b.readyAt (dstSlot d) == pendingReg then .wait else .poison (latchOrigin (s.tile t).sys.platchB))
  else if fl.b == g.neg then .skip
  else if need.any (fun i => decide (s.cyc < b.readyAt i)) || b.readyAt (dstSlot d) == pendingReg then .wait
  else match srcs.find? (·.poison) with
    | some p => .poison p.v
    | none => .go

/-- What an instruction comes to. -/
inductive BRes where
  /-- it retires, writing a value to its destination after a latency -/
  | done (s : State) (v : Option PReg) (lat : Nat)
  /-- it does not retire here: the banker waits, or the instruction has dealt with its own retiring -/
  | keep (s : State)
  | fault (tr : TrapInfo)
  /-- it faults and leaves a trace of itself all the same -/
  | faultWith (s : State) (tr : TrapInfo)
  /-- it transfers control, with the link where it has one -/
  | go (s : State) (target : Word) (link : Option Word)
deriving Inhabited

/-- A result without a poison bit. -/
def BRes.val (s : State) (v : Word) (lat : Nat) : BRes := .done s (some { v := v }) lat

/-- A result given by a number. -/
def BRes.nat (s : State) (v lat : Nat) : BRes := .done s (some { v := BitVec.ofNat 64 v }) lat

/-- A precise fault with the cause and one operand or address (R395). -/
def BRes.cause (c : Nat) (info : Word) : BRes := .fault { cause := c, info := info }

/-- The instruction at the pc has issued: the end test unless it is of row 0x4, then the next pc and the cycle in which the
banker next issues (R162, R165). A loop counter that the instruction at an end word writes itself counts with its new value in that
word's test (log entry 149). Under emulation the next pc belongs to the frame (R411). -/
def retire (s : State) (t : Nat) (row4 : Bool) (target : Option Word) : State :=
  s.modBk t fun b =>
    let (r, loop) := if row4 then (b.r, none) else endTest b.r b.pc 3
    let jump := match loop with
      | some p => some p
      | none => target
    let time := match jump with
      | some p => b.transferTime p
      | none => 1
    let b' := { b with r := r, pc := jump.getD (b.pc + 8), stall := .none, nextIssue := max b.nextIssue (s.cyc + time) }
    match b.emul with
    | some e => { b' with emul := some { e with ran := true } }
    | none => b'

/-- A taken transfer leaves every active level whose body does not hold the target (R166). -/
def leaveLoops (r : Regs) (target : Word) : Regs :=
  let keep (n : Nat) : Bool := Tab.get r.active n &&
    decide ((Tab.get r.start n).toNat ≤ target.toNat) && decide (target.toNat ≤ (Tab.get r.stop n).toNat)
  { r with active := tabOf 3 keep }

/-- The state once an instruction with a given result is over. A fault waits until every value awaited from outside has
landed, so that the frame holds whole registers (log entry 20). -/
def settle (s : State) (t : Nat) (row4 : Bool) (d : BDst) (r : BRes) : State :=
  match r with
  | .done s' (some v) lat => retire (writeB s' t d v (s.cyc + lat)) t row4 none
  | .done s' none _ => retire s' t row4 none
  | .keep s' => s'
  | .fault tr => if (s.tile t).bk.hasPending s.cyc then s else preciseFault s t tr (s.tile t).bk.pc
  | .faultWith s' tr => if (s.tile t).bk.hasPending s.cyc then s else preciseFault s' t tr (s.tile t).bk.pc
  | .go s' target link =>
    if target.toNat % 8 ≠ 0 then
      (if (s.tile t).bk.hasPending s.cyc then s else preciseFault s t { cause := 0x18, info := target } (s.tile t).bk.pc)
    else
      let s' := match link with
        | some l => writeB s' t d { v := l } (s.cyc + 1)
        | none => s'
      retire (s'.modRegs t fun r => leaveLoops r target) t row4 (some target)

/-- POISON with the origin and the location of the instruction (R395). -/
def poisonTrap (s : State) (t : Nat) (origin : Word) : BRes :=
  .fault { cause := 0x01, info := origin, info2 := originB t (s.tile t).bk.pc }

/-- An instruction outside rows 0x0 to 0x2: a poisoned source or guard faults (R70). -/
def runBanker (row4 : Bool) (g : Guard) (d : BDst) (need : List Nat) (srcs : List PReg) (body : State → Nat → BRes) (s : State) :
    State :=
  let t := s.actor
  match gate s t g need d srcs with
  | .wait => s
  | .skip => retire s t row4 none
  | .poison o => settle s t row4 d (poisonTrap s t o)
  | .go => settle s t row4 d (body s t)

/-- An instruction of rows 0x0 to 0x2: a poisoned source or guard writes poison to the destination; a loop counter, which
holds no poison, faults (R110, R115). `take` takes the unit it needs, or finds it busy (R113). -/
def runSoft (g : Guard) (d : BDst) (need : List Nat) (srcs : List PReg) (lat : Nat) (body : State → Nat → BRes) (s : State)
    (take : State → Nat → Option State := fun s _ => some s) : State :=
  let t := s.actor
  match gate s t g need d srcs with
  | .wait => s
  | .skip => retire s t false none
  | .poison o => (match d with
    | .lc _ => settle s t false d (poisonTrap s t o)
    | _ => match take s t with
      | none => s
      | some s' => settle s t false d (.done s' (some { v := o, poison := true }) lat))
  | .go => match take s t with
    | none => s
    | some s' => settle s t false d (body s' t)

/-- A form with up to three sources, outside rows 0x0 to 0x2. -/
def runForm (f : BForm) (s : State) (body : State → Nat → Word → Word → BRes) : Host.Outcome State Fault Refusal :=
  let a := readB s s.actor f.a
  let b := readB s s.actor f.b
  .next (runBanker false f.guard f.dst (formRegs f) [a, b] (fun s t => body s t a.v b.v) s)

/-- A precise fault of the operand A. -/
def argFault (c : Nat) (a : Word) : BRes := .cause c a

end Sys2Proof.Machine
end

