-- ==== Sys2Proof/Machine/MemOps.lean ====
section
/-!
DEFINITION. Memory operations shared by bankers and slots: issuing global loads, stores, atomics and remote increments into
the load table and the store queue (spec/09_memory.md R216 to R218), their completion, and the tag tables (R220, R221).
-/
namespace Sys2Proof.Machine

/-! ## Issue -/

/-- How the issue of a global access stands. -/
inductive Issue where
  | ok (s : State)
  /-- a table is full: the region holds, the banker stalls -/
  | stall
  | fault (cause : Nat)
deriving Inhabited

/-- The checks of R217 before translation. -/
def globalCheck (va n : Nat) : Option Nat := if 2 ^ 56 ≤ va then some 0x0E else if va % n ≠ 0 then some 0x0D else none

/-- The outstanding accesses of an issuer, by the number of the instruction: the copies of an `stmw` have its. -/
def outstanding (m : TileMem) (who : Issuer) : List Nat :=
  (m.loads.filter (·.who == who)).map (·.id) ++ (m.stores.filter (·.who == who)).map (·.seq)

/-- The outstanding stores, atomics, copies and increments of an issuer (R238). -/
def outstandingStores (m : TileMem) (who : Issuer) : List Nat :=
  (m.loads.filter (fun e => e.who == who && e.rmw.isSome)).map (·.id) ++ (m.stores.filter (·.who == who)).map (·.seq)

/-- TILE.SBPEND has room for `n` bytes more (spec/10_ordering.md R245). -/
def pendRoom (m : TileMem) (n : Nat) : Bool := decide (m.sbpend + n < 2 ^ 32)

/-- Places of the store queue taken: an `stmw` that has not left takes one for each copy (R216). -/
def storesUsed (m : TileMem) : Nat :=
  m.stores.foldl (fun n e => n + match e.kind with
    | .fan _ _ _ k => k
    | _ => 1) 0

/-- What an access that is issued now comes after: for a release everything outstanding of its issuer; and the acquires of its own
firing that stand before it (R218, spec/10_ordering.md R250). -/
def comesAfter (m : TileMem) (who : Issuer) (o : Order) : List Nat :=
  if isRelease o then outstanding m who else (m.loads.filter fun e => e.who == who && isAcquire e.order).map (·.id)

/-- A load or a global atomic enters the load table; its translation begins (R216, R217, R238). -/
def issueLoad (s : State) (t : Nat) (e : LoadEnt) : Issue :=
  match globalCheck e.va e.size.bytes with
  | some c => .fault c
  | none =>
    let m := (s.tile t).mem
    let n := if e.rmw.isSome && wideScope e.scope then e.size.bytes else 0
    if 64 ≤ m.loads.length || !pendRoom m n then .stall
    else match xlatIssue s t e.va with
      | none => .stall
      | some (_, .failed c) => .fault c
      | some (s, x) =>
        let noWrite := match x with
          | .done _ _ w => e.rmw.isSome && !w
          | _ => false
        if noWrite then .fault 0x11
        else
          .ok (s.modMem t fun m =>
            { m with loads := m.loads ++ [{ e with id := m.nextId, xlat := x, after := comesAfter m e.who e.order, cycle := s.cyc }],
                     nextId := m.nextId + 1, sbpend := m.sbpend + n })

/-- A store enters the store queue; its translation begins (R216, R217). -/
def issueStore (s : State) (t : Nat) (e : StoreEnt) (bytes : List Byte) : Issue :=
  match globalCheck e.va bytes.length with
  | some c => .fault c
  | none =>
    let m := (s.tile t).mem
    let n := if wideScope e.scope then bytes.length else 0
    if 64 ≤ storesUsed m || !pendRoom m n then .stall
    else match xlatIssue s t e.va with
      | none => .stall
      | some (_, .failed c) => .fault c
      | some (_, .done _ _ false) => .fault 0x11
      | some (s, x) =>
        .ok (s.modMem t fun m =>
          { m with stores := m.stores ++ [{ e with id := m.nextId, seq := m.nextId, xlat := x, kind := .store bytes, pend := n,
                                                   after := comesAfter m e.who e.order, cycle := s.cyc }],
                   nextId := m.nextId + 1, sbpend := m.sbpend + n })

/-- An entry of the store queue that needs no translation: a release increment, a remote increment. -/
def issueOther (s : State) (t : Nat) (e : StoreEnt) : Issue :=
  let m := (s.tile t).mem
  if 64 ≤ storesUsed m || !pendRoom m e.pend then .stall
  else
    .ok (s.modMem t fun m =>
      { m with stores := m.stores ++ [{ e with id := m.nextId, seq := m.nextId, after := comesAfter m e.who e.order, cycle := s.cyc }],
               nextId := m.nextId + 1, sbpend := m.sbpend + e.pend })

/-- Elements of `w` bytes of a virtual area, read at package scope; or the state and the cause of a fault, ALIGN among them (R217). -/
def elemRead (s : State) (t va n w : Nat) : Except (State × Nat) (State × List Byte) :=
  match globalCheck va w with
  | some c => .error (s, c)
  | none => match vRead s t va n with
    | .error r => .error (reportUe s t r, r.1)
    | .ok r => .ok r

/-! ## Mirrored windows (R222, R223) -/

/-- EN of a window register. -/
def mwEn (w : Word) : Bool := bitOf w.toNat 63
/-- GID of a window register. -/
def mwGid (w : Word) : Nat := fld w.toNat 52 4
/-- MT of a window register. -/
def mwMt (w : Word) : Nat := fld w.toNat 48 4
/-- LEN of a window register. -/
def mwLen (w : Word) : Nat := fld w.toNat 32 16
/-- BASE of a window register. -/
def mwBase (w : Word) : Nat := fld w.toNat 16 16

/-- The enabled window of a tile that holds bytes `off … off + n − 1` of a memory tile; of several the lowest-numbered, which R223 does not
say (log entry 157). -/
def windowAt (s : State) (t mt off n : Nat) : Option Word :=
  ((List.range 4).map fun i => Tab.get (s.tile t).mem.mwin i).find? fun w =>
    mwEn w && mwMt w == mt && decide (mwBase w ≤ off) && decide (off + n ≤ mwBase w + mwLen w)

/-- The enabled window of a tile in a group. -/
def windowOf (s : State) (t gid : Nat) : Option Word :=
  ((List.range 4).map fun i => Tab.get (s.tile t).mem.mwin i).find? fun w => mwEn w && mwGid w == gid

/-- The members of a mirror group. -/
def groupMembers (s : State) (gid : Nat) : List Nat := (Tab.keys s.tiles).filter fun t => (windowOf s t gid).isSome

/-- An `stmw` enters the store queue, with places and bytes for the copies that its group has members for now; which members it goes
to is read when it leaves the ring stop (R223, spec/10_ordering.md R245). -/
def issueMirror (s : State) (t : Nat) (who : Issuer) (m : MemMods) (w : Word) (off : Nat) (bytes : List Byte) (loc : Word) : Issue :=
  let k := ((groupMembers s (mwGid w)).filter (· != t)).length
  let mem := (s.tile t).mem
  let n := if wideScope m.scope then bytes.length * k else 0
  if 64 < storesUsed mem + k || !pendRoom mem n then .stall
  else
    .ok (s.modMem t fun x =>
      { x with stores := x.stores ++ [{ id := x.nextId, seq := x.nextId, who := who, order := m.order, scope := m.scope,
                                        kind := .fan (mwGid w) (off - mwBase w) bytes k, pend := n, loc := loc,
                                        after := comesAfter mem who m.order, cycle := s.cyc }],
               nextId := x.nextId + 1, sbpend := x.sbpend + n })

/-! ## Completion -/

/-- Two byte ranges meet. -/
def meets (a n b m : Nat) : Bool := decide (a < b + m) && decide (b < a + n)

/-- Where a translation stands or will stand as the page tables are now. -/
def physOfVa (s : State) (t va : Nat) (x : Xlat) : Option Nat :=
  match x with
  | .done pa _ _ => some pa
  | .walking _ => (walk { s with strike := 0 } (s.wallOf t) va).2.toOption.map fun e => e.map va
  | .failed _ => none

/-- The physical bytes of a load-table entry: address and length. -/
def LoadEnt.area (s : State) (t : Nat) (e : LoadEnt) : List (Nat × Nat) :=
  ((physOfVa s t e.va e.xlat).map fun pa => (pa, e.size.bytes)).toList

/-- Where a copy for a member is to be written, as its windows stand. -/
def copyArea (s : State) (k gid off n : Nat) : List (Nat × Nat) :=
  ((windowOf s k gid).map fun w => (mtAddr k (mwMt w) (mwBase w + off), n)).toList

/-- The physical bytes of a store-queue entry. -/
def StoreEnt.area (s : State) (t : Nat) (e : StoreEnt) : List (Nat × Nat) :=
  match e.kind with
  | .store b => ((physOfVa s t e.va e.xlat).map fun pa => (pa, b.length)).toList
  | .mirror k gid off b => copyArea s k gid off b.length
  | .fan gid off b _ => ((groupMembers s gid).filter (· != t)).flatMap fun k => copyArea s k gid off b.length
  | _ => []

/-- Two lists of byte ranges meet. -/
def areasMeet (a b : List (Nat × Nat)) : Bool := a.any fun x => b.any fun y => meets x.1 x.2 y.1 y.2

/-- An earlier access of the issuer to one of the bytes, under whatever name, is still outstanding (R218, spec/10_ordering.md R250):
it is waited for; but two loads are ordered only at one scope and in ordered mode. `load` is the scope of a load that asks. -/
def blockedBy (s : State) (t : Nat) (who : Issuer) (id : Nat) (area : List (Nat × Nat)) (load : Option Scope) : Bool :=
  let m := (s.tile t).mem
  m.stores.any (fun e => e.who == who && decide (e.seq < id) && areasMeet (e.area s t) area) ||
  m.loads.any (fun e => e.who == who && decide (e.id < id) && areasMeet (e.area s t) area &&
    !(e.rmw.isNone && load.isSome && (s.plinth.unord || load != some e.scope)))

/-- The banker's own outstanding accesses hold a local access of its to the same bytes. -/
def localBlocked (s : State) (t mt off n : Nat) (load : Bool) : Bool :=
  blockedBy s t .banker (s.tile t).mem.nextId [(mtAddr t mt off, n)] (if load then some .tile else none)

/-- What must be over before an entry may leave is over: two cycles since its issue, and the accesses it comes after. -/
def released (s : State) (t cycle : Nat) (after : List Nat) : Bool :=
  let m := (s.tile t).mem
  decide (cycle + 2 ≤ s.cyc) &&
    after.all fun i => !(m.loads.any (·.id == i)) && !(m.stores.any (·.seq == i))

/-- The message of an access leaves the crossbars. -/
def dropMsg (s : State) (t id : Nat) : State := { s with xbar := s.xbar.filter fun m => !(m.tile == t && m.id == id) }

/-- An access has made its way through the crossbars, and none that was injected before it and came out of the same input for the same
output is still to be performed (R229). -/
def crossed (s : State) (t id xb : Nat) : Bool :=
  xb == 2 || match s.xbar.find? (fun m => m.tile == t && m.id == id) with
    | none => false
    | some m => m.legs == [] && decide (m.at' ≤ s.cyc) &&
      !((s.xbar.takeWhile fun y => !(y.tile == t && y.id == id)).any fun y => y.legs == [] && y.last == m.last)

/-- A load-table entry removed. -/
def dropLoad (s : State) (t : Nat) (e : LoadEnt) : State :=
  accessOver (dropMsg (s.modMem t fun m => { m with loads := m.loads.filter (·.id != e.id), sbpend := m.sbpend - e.pend }) t e.id) t e.id

/-- In unordered mode, no plain load of an issuer returns from now on what stood before cycle `u` (spec/10_ordering.md R256). -/
def raiseFloor (s : State) (t : Nat) (who : Issuer) (u : Nat) : State :=
  if s.plinth.unord then s.modMem t fun m =>
    { m with floors := m.floors.filter (·.1 != who) ++ [(who, max u (((m.floors.find? (·.1 == who)).map (·.2)).getD 0))] }
  else s

/-- In unordered mode, a read of an issuer has returned, or its `wait` has passed: a fence behind it orders what follows after it
(R244, R256). -/
def noteSeen (s : State) (t : Nat) (who : Issuer) : State :=
  if s.plinth.unord then s.modMem t fun m => { m with seen := m.seen.filter (·.1 != who) ++ [(who, s.cyc)] } else s

/-- In unordered mode, the writes just made at the home of some bytes are an issuer's own: it reads nothing older there (R250, R256). -/
def ownWas (s : State) (t : Nat) (who : Issuer) (pa n : Nat) : State :=
  if s.plinth.unord then
    { s with was := s.was.map fun h => if h.1 = s.cyc ∧ pa ≤ h.2.1 ∧ h.2.1 < pa + n then (h.1, h.2.1, h.2.2.1, some (t, who)) else h }
  else s

/-- A store-queue entry removed: acknowledged, or faulted, whose acknowledgement is not awaited (R217); an `stmw` is over with the last
of its copies. -/
def dropStore (s : State) (t : Nat) (e : StoreEnt) : State :=
  let s := dropMsg (s.modMem t fun m => { m with stores := m.stores.filter (·.id != e.id), sbpend := m.sbpend - e.pend }) t e.id
  if (s.tile t).mem.stores.any (·.seq == e.seq) then s else accessOver s t e.seq

/-- Copies that an issuer has read past are given up, so that its later loads return nothing older (spec/10_ordering.md R252, rule 3). -/
def giveUpReread (s : State) (t : Nat) (who : Issuer) : State :=
  let ls := ((s.tile t).mem.reread.filter (·.1 == who)).map (·.2)
  if ls = [] then s
  else
    let s := flushWays (flushLines s t ls.contains true) (s.wallOf t) ls.contains true
    s.modMem t fun m => { m with reread := m.reread.filter (·.1 != who) }

/-- An issuer passes an acquire (spec/10_ordering.md R252, R256; log entries 154 and 155). -/
def acquirePoint (s : State) (t : Nat) (who : Issuer) : State := giveUpReread (raiseFloor s t who s.cyc) t who

/-- An issuer passes a fence that is an acquire: what follows returns nothing older than the reads and waits before it have (R244, R250). -/
def fencePoint (s : State) (t : Nat) (who : Issuer) : State :=
  giveUpReread (raiseFloor s t who (((s.tile t).mem.seen.find? (·.1 == who)).map (·.2) |>.getD 0)) t who

/-- A plain load has read a line past the copies nearer by. -/
def noteReread (s : State) (t : Nat) (e : LoadEnt) (pa : Nat) : State :=
  if wideScope e.scope && !isAcquire e.order &&
      ((findLine (s.tile t).mem.lines (pa / 128)).isSome || (findLine (s.wall (s.wallOf t)).lines (pa / 128)).isSome) then
    s.modMem t fun m => { m with reread := m.reread.filter (· != (e.who, pa / 128)) ++ [(e.who, pa / 128)] }
  else s

/-- A load is performed at the home (spec/10_ordering.md R252, rule 5). -/
def homeScope (s : State) (t : Nat) (sc : Scope) (pa : Nat) (nc : Bool) : Bool :=
  match sc with
  | .package | .arcade => true
  | .wall => !s.usesWay (s.wallOf t) pa nc
  | _ => false

/-- What a byte of memory held at the start of cycle `u`, as far as it is kept and an issuer has not written it since. -/
def homeWas (s : State) (own : Nat × Issuer) (pa u : Nat) : Byte :=
  let l := s.was.filter (·.2.1 == pa)
  let since := (l.reverse.takeWhile fun h => h.2.2.2 != some own).reverse
  match since.find? fun h => decide (u ≤ h.1) with
  | some h => h.2.2.1
  | none => readByte s.mem pa

/-- The bytes that a plain load which is performed at the home returns: in unordered mode those that stood there in a cycle up to 63
before, but not before the issuer last passed an acquire, nor before its own last write there; nor where a copy nearer by may hold the
issuer's own store (spec/10_ordering.md R256; log entry 155). `b` is what stands there. -/
def lateRead (s : State) (t : Nat) (e : LoadEnt) (pa : Nat) (nc : Bool) (b : List Byte) : State × List Byte :=
  if s.plinth.unord && !isAcquire e.order && homeScope s t e.scope pa nc && s.cacheable pa &&
      (findLine (s.tile t).mem.lines (pa / 128)).isNone && (findLine (s.wall (s.wallOf t)).lines (pa / 128)).isNone then
    let floor := match (s.tile t).mem.floors.find? (·.1 == e.who) with
      | some f => f.2 + 1
      | none => 0
    let u := max (s.cyc + 1 - Config.unorderedDelay s.plinth.seed s.draws % 64) floor
    ({ s with draws := s.draws + 1 }, (List.range b.length).map fun i => homeWas s (t, e.who) (pa + i) u)
  else (s, b)

/-- A value from outside reaches a slot's destination and ends its lease; the result register only where the slot has no
register destination, and not over the value of a slot issued later that landed in the same cycle (R216, R238,
spec/04_integer.md R112). -/
def landLeased (s : State) (iss : Nat) (ref : CopyRef) (x : Nat) (d : PDst) (v : Val) : State :=
  s.modCopy ref fun c => c.modCe x fun k =>
    match d with
    | .k i => { k with k := Tab.set k.k i v, lease := k.lease.filter (· != i) }
    | .s i => { k with s := Tab.set k.s i v, lease := k.lease.filter (· != 64 + i) }
    | _ => if k.resAt == s.cyc && decide (iss < k.resIss) then k else { k with result := v, resAt := s.cyc, resIss := iss }

/-- The data of a load or atomic reaches its issuer. -/
def deliverLoad (s : State) (t : Nat) (e : LoadEnt) (v : Word) : State :=
  let s := noteSeen (dropLoad s t e) t e.who
  let s := if isAcquire e.order then acquirePoint s t e.who else s
  match e.who with
  | .banker => if h : e.g < 32 then writeB s t (.g ⟨e.g, h⟩) { v := v } s.cyc else s
  | .region c =>
    let s := if isAcquire e.order then s.modCopy c fun y => { y with floor := s.cyc } else s
    landLeased s e.cycle c e.ce e.dst { v := v }
  | _ => s

/-- A fault found after issue, of a load-table entry: nothing is written (R217, R391). -/
def faultLoad (s : State) (t : Nat) (e : LoadEnt) (cause : Nat) : State :=
  let s := dropLoad s t e
  match e.who with
  | .banker =>
    let s := s.modBk t fun b => { b with ready := if e.g < 32 then Tab.set b.ready e.g s.cyc else b.ready }
    lateFault s t cause e.va e.loc
  | .region c => regionFault s c cause e.loc (BitVec.ofNat 64 e.va)
  | _ => s

/-- A fault found after issue, of a store-queue entry. -/
def faultStore (s : State) (t : Nat) (e : StoreEnt) (cause : Nat) : State :=
  let s := dropStore s t e
  match e.who with
  | .banker => lateFault s t cause e.va e.loc
  | .region c => regionFault s c cause e.loc (BitVec.ofNat 64 e.va)
  | _ => s

/-- A loaded pattern extended to 64 bits (R215). -/
def extendLoad (sz : Size) (uns : Bool) (v : Nat) : Word :=
  if uns then BitVec.ofNat 64 v else BitVec.ofNat 64 (wrapInt (sextNat v sz.bits) 64)

/-- A load-table entry may leave the tile: translated, released, and not behind an earlier access to its bytes. -/
def loadReady (s : State) (t : Nat) (e : LoadEnt) : Option (Nat × Bool) :=
  match e.xlat with
  | .done pa nc _ =>
    if released s t e.cycle e.after && !blockedBy s t e.who e.id (e.area s t) (if e.rmw.isNone then some e.scope else none)
    then some (pa, nc) else none
  | _ => none

/-- A store-queue entry may leave the tile. -/
def storeReady (s : State) (t : Nat) (e : StoreEnt) : Bool :=
  (match e.xlat with
   | .done .. => true
   | _ => false) && released s t e.cycle e.after && !blockedBy s t e.who e.seq (e.area s t) none

/-- A requester of the crossbar at a home that is a memory tile needs its shared port (R210). -/
def atHome (s : State) (pa : Nat) (go : State → State) : State :=
  match s.place pa with
  | .tileMem k mt _ => withPort s k mt 4 id go
  | _ => go s

/-- A load is performed at its scope and its data written; an uncorrectable error or a hole faults (R217). -/
def finishLoad (s : State) (t : Nat) (e : LoadEnt) (ecc : Bool) : State :=
  match loadReady s t e with
  | none => s
  | some (pa, nc) =>
    if !crossed s t e.id e.xb then s
    else match homeFault s pa with
      | some c => faultLoad s t e c
      | none => atHome s pa fun s =>
        if ecc then faultLoad (eccEvent s pa) t e 0x14
        else match e.rmw with
          | none =>
            let (s, b) := perfLoadAs (noteReread (eccNote s pa) t e pa) t e.scope (isAcquire e.order) pa e.size.bytes nc
            let (s, b) := lateRead s t e pa nc b
            deliverLoad s t e (extendLoad e.size e.uns (leNat b))
          | some m =>
            let (s, d) := perfAtomic (eccNote s pa) t e.scope pa e.size nc m
            deliverLoad (ownWas s t e.who pa e.size.bytes) t e d

/-- A plain store is performed at the point its scope names and acknowledged (R218). -/
def finishStore (s : State) (t : Nat) (e : StoreEnt) (ecc : Bool) : State :=
  match e.kind, e.xlat with
  | .store bytes, .done pa nc _ =>
    if !storeReady s t e || !crossed s t e.id e.xb then s
    else match homeFault s pa with
      | some c => faultStore s t e c
      | none => atHome s pa fun s =>
        if ecc then faultStore (eccEvent s pa) t e 0x14
        else dropStore (ownWas (perfStore (eccNote s pa) t e.scope pa bytes nc) t e.who pa bytes.length) t e
  | .sem i n, _ => if released s t e.cycle e.after then dropStore (semRaise s t i n) t e else s
  | _, _ => s

/-! ## CXL ports (spec/19_boundary.md R433) -/

/-- An access that has been translated lies in a port's window. -/
def inPort (s : State) (p : Nat) : Xlat → Bool
  | .done pa _ _ => match s.place pa with
    | .cxl q _ => q == p
    | _ => false
  | _ => false

/-- Accepted accesses of a port have not completed. -/
def portBusy (s : State) (p : Nat) : Bool :=
  s.tiles.any fun t => t.2.mem.loads.any (fun e => inPort s p e.xlat) || t.2.mem.stores.any fun e => inPort s p e.xlat

/-- A write of EN = 0 takes effect. -/
def disableCxl (s : State) (p : Nat) (v : Word) : State :=
  s.modMgmt fun m => { m with cxl := Tab.modify m.cxl p fun c => { c with en := false, size := fld v.toNat 0 12, lost := false, off := none } }

/-- The writes of EN = 0 that waited take effect at the ports whose accepted accesses have completed. -/
def closePorts (s : State) : State :=
  s.mgmt.cxl.foldl (fun s x => match x.2.off with
    | some v => if portBusy s x.1 then s else disableCxl s x.1 v
    | none => s) s

/-! ## Tag tables (R220, R221) -/

/-- The tag tables of a tile as they stood at the start of the cycle: no change of this cycle is seen (R211, R221). -/
def State.tagsNow (s : State) (t : Nat) : Tab TagEnt :=
  let m := (s.tile t).mem
  if m.tagsAt = s.cyc + 1 then m.tagsWas else m.tags

/-- The entry of a tag table. -/
def State.tag (s : State) (t mt e : Nat) : TagEnt := Tab.get (s.tagsNow t) (mt * 256 + e)

/-- What `tlook` finds: HIT with the lowest such slot, the lowest invalid slot, or FULL with the least recently used. -/
def tagLook (s : State) (t mt tag : Nat) : Nat :=
  match (List.range 256).find? (fun e => (s.tag t mt e).valid && (s.tag t mt e).tag == tag) with
  | some e => 2 ^ 8 + e
  | none => match (List.range 256).find? (fun e => !(s.tag t mt e).valid) with
    | some e => e
    | none => 2 ^ 9 + (List.range 256).foldl (fun m e => if (s.tag t mt e).use < (s.tag t mt m).use then e else m) 0

/-- A change of a tag table; what the tables held at the start of the cycle is kept. -/
def tagChange (s : State) (t : Nat) (f : TileMem → Tab TagEnt) (use : Nat) : State :=
  s.modMem t fun m => { m with tags := f m, useClock := m.useClock + use,
                               tagsWas := if m.tagsAt = s.cyc + 1 then m.tagsWas else m.tags, tagsAt := s.cyc + 1 }

/-- An entry set valid with a tag, most recently used. -/
def tagSet (s : State) (t mt e tag : Nat) : State :=
  tagChange s t (fun m => Tab.set m.tags (mt * 256 + e) { valid := true, tag := tag, use := m.useClock + 1 }) 1

/-- An entry made invalid. -/
def tagClear (s : State) (t mt e : Nat) : State :=
  tagChange s t (fun m => Tab.modify m.tags (mt * 256 + e) fun x => { x with valid := false }) 0

/-- An entry marked most recently used. -/
def tagUse (s : State) (t mt e : Nat) : State :=
  tagChange s t (fun m => Tab.modify m.tags (mt * 256 + e) fun x => { x with use := m.useClock + 1 }) 1

/-- All entries of a memory tile's table made invalid. -/
def tagsReset (s : State) (t mt : Nat) : State :=
  s.modMem t fun m => { m with tags := m.tags.filter fun p => p.1 / 256 != mt }

/-- A memory tile zero-filled. -/
def zeroMt (s : State) (t mt : Nat) : State :=
  let a := mtAddr t mt 0
  { s with mem := clearCells a (a + 65536) s.mem }

end Sys2Proof.Machine
end

