-- ==== Sys2Proof/Machine/Placer.lean ====
section
/-!
DEFINITION. The placer: finding regions, loading and starting copies, the end of a launch and its orphans, input ports,
eviction and moves, and the sharing of a page's cycles (spec/08_launch.md R189 to R199, R204, R205; spec/18_system.md R407,
R408; spec/01_machine.md R30, R37).
-/
namespace Sys2Proof.Machine

/-! ## Launches -/

/-- An entry of a tile's launch table. -/
def State.launch (s : State) (t lid : Nat) : Launch := Tab.get (s.tile t).launches lid

/-- The configuration a handle names. -/
def State.kernel (s : State) (h : Nat) : Kernel := kernelOf (Tab.get s.plinth.cfg h).bytes

/-- The resident copies of a launch. -/
def copiesOf (s : State) (t lid : Nat) : List Copy := s.copies.filter fun c => c.ref.issuer == t && c.ref.lid == lid

/-- A state in which a launch still uses its handle (R206). -/
def LState.live : LState → Bool
  | .ended | .cancelled => false
  | _ => true

/-- Live launches that use a handle. -/
def usersOf (s : State) (h : Nat) : Nat :=
  (s.tiles.map fun p => (p.2.launches.filter fun l => l.2.used && l.2.handle == h && l.2.state.live).length).sum

/-- The tiles of a wall, in ascending logical number. -/
def wallTiles (s : State) (w : Nat) : List Nat := (List.range (tileCount s.hw)).filter fun t => s.wallOf t == w

/-- Launches of a tile that stand in its launch queue. -/
def queuedLids (x : Tile) : List Nat :=
  (x.launches.filter fun p => p.2.used && (p.2.state == .queued || p.2.state == .evicted)).map (·.1)

/-! ## Regions (R191, R192) -/

/-- What a copy occupies: tile, pages, slot, physical memory tiles, islands and weight-buffer quarters. -/
structure Claim where
  tile : Nat
  pages : List Nat
  slot : Nat
  mts : List Nat
  islands : List Nat
  weights : List Nat
deriving DecidableEq, Repr, Inhabited

/-- What a configuration occupies at a place. -/
def claimAt (k : Kernel) (t : Nat) (pages : List Nat) (slot : Nat) : Claim :=
  { tile := t, pages := pages, slot := slot
    mts := ((List.range 16).filter fun m => bitOf k.mtUse m).map fun m => 4 * pages.getD (m / 4) 0 + m % 4
    islands := ((List.range 4).filter fun i => bitOf k.lutUse i).map fun i => pages.getD i 0
    weights := if k.wbuf then pages else [] }

/-- What a resident copy occupies. -/
def claimOf (c : Copy) : Claim := claimAt c.kern c.tile c.pages c.slot

/-- Two lists share an element. -/
def shares (a b : List Nat) : Bool := a.any b.contains

/-- The lowest slot free on every CE of a placement. -/
def freeSlot (l : List Claim) (t : Nat) (pages : List Nat) : Option Nat :=
  (List.range 4).find? fun s => !(l.any fun c => c.tile == t && c.slot == s && shares c.pages pages)

/-- The resources of a claim are owned by no other; `bk` gives the memory tiles reserved to a tile's banker. -/
def resourcesFree (bk : Nat → Nat) (l : List Claim) (x : Claim) : Bool :=
  x.mts.all (fun m => !bitOf (bk x.tile) m) &&
  l.all fun c => c.tile != x.tile || !(shares c.mts x.mts || shares c.islands x.islands || shares c.weights x.weights)

/-- The first region of R191. -/
def findRegion (bk : Nat → Nat) (l : List Claim) (tiles : List Nat) (k : Kernel) : Option Claim :=
  tiles.findSome? fun t => (placements k.shape).findSome? fun pl =>
    match freeSlot l t pl with
    | none => none
    | some s => if resourcesFree bk l (claimAt k t pl s) then some (claimAt k t pl s) else none

/-- Regions for `n` copies, one after another; none when one finds no place. -/
def findRegions (bk : Nat → Nat) (tiles : List Nat) (k : Kernel) : Nat → List Claim → Option (List Claim)
  | 0, _ => some []
  | n + 1, l => match findRegion bk l tiles k with
    | none => none
    | some x => (findRegions bk tiles k n (x :: l)).map (x :: ·)

/-- What is occupied or promised on the package: resident copies, and places moves will take. -/
def claims (s : State) : List Claim :=
  s.copies.map claimOf ++ s.copies.filterMap fun c =>
    match Tab.get (s.launch c.ref.issuer c.ref.lid).leaving c.ref.copy with
    | some (t, pages, slot) => some (claimAt c.kern t pages slot)
    | none => none

/-- Memory tiles that no copy can be given: those reserved to a tile's banker, and those still being released (spec/09_memory.md R208). -/
def reservedMask (s : State) (t : Nat) : Nat :=
  natOfBits 16 fun i => bitOf (s.tile t).mem.bkmt i || (s.tile t).mem.closing.contains i

/-- The role a kernel gives a memory tile of the region: 0 none, 1 buffer, 2 FIFO, 3 cache bank. -/
def roleCode (k : Kernel) (m : Nat) : Nat :=
  if !bitOf k.mtUse m then 0 else if bitOf k.mtFifo m then 2 else if bitOf k.mtCache m then 3 else 1

/-- Memory tiles, in region numbering, that two kernels both own. -/
def sharedMts (a b : Kernel) : List Nat := (List.range 16).filter fun m => bitOf a.mtUse m && bitOf b.mtUse m

/-- The place of a staged copy beside its partner's (R200). -/
def stagedRegion (s : State) (l : List Claim) (k : Kernel) (p : Copy) : Option Claim :=
  match freeSlot l p.tile p.pages with
  | none => none
  | some slot =>
    let x := claimAt k p.tile p.pages slot
    let own := { x with mts := x.mts.filter fun m => !((sharedMts k p.kern).map (physMt p)).contains m }
    if resourcesFree (reservedMask s) l own then some x else none

/-- Places of all copies of a staged launch. -/
def stagedRegions (s : State) (k : Kernel) (t partner : Nat) : Nat → List Claim → Option (List Claim)
  | 0, _ => some []
  | n + 1, l => match s.copy? { issuer := t, lid := partner, copy := (s.launch t partner).ncopies - 1 - n } with
    | none => none
    | some p => match stagedRegion s l k p with
      | none => none
      | some x => (stagedRegions s k t partner n (x :: l)).map (x :: ·)

/-! ## Placing -/

/-- A copy enters a region and its load begins: the tables take II / 8 cycles, a zero-fill 1,024 (R193). -/
def newCopy (s : State) (ref : CopyRef) (k : Kernel) (oc dc : Nat) (x : Claim) (restore : Option Cut) : Copy :=
  { ref := ref, tile := x.tile, slot := x.slot, pages := x.pages, kern := k, phase := .loading, oc := oc, dc := dc,
    loadAt := s.cyc + (k.ii + 7) / 8 + (if k.mtUse != 0 || k.wbuf then 1024 else 0), restore := restore }

/-- A launch placed in some regions. -/
def placeIn (s : State) (t lid : Nat) (xs : List Claim) : State :=
  let l := s.launch t lid
  let k := s.kernel l.handle
  let new := ((List.range l.ncopies).zip xs).map fun (c, x) =>
    let (oc, dc) := l.offs.getD c (0, 0)
    let oc := if l.staged then (match s.copy? { issuer := t, lid := l.partner, copy := c } with
      | some p => p.oc
      | none => oc) else oc
    newCopy s { issuer := t, lid := lid, copy := c } k oc dc x (Tab.get l.saved c)
  { s with copies := s.copies ++ new }.modLaunch t lid fun l => { l with state := .loading, saved := [] }

/-- Regions for a queued launch, given what is occupied. -/
def regionsFor (s : State) (l : List Claim) (t lid : Nat) : Option (List Claim) :=
  let x := s.launch t lid
  let k := s.kernel x.handle
  if x.staged then
    (if (s.launch t x.partner).state == .running then stagedRegions s k t x.partner x.ncopies l else none)
  else findRegions (reservedMask s) (wallTiles s (s.wallOf t)) k x.ncopies l

/-- One queued launch placed, if it fits whole. -/
def tryPlace (s : State) (t lid : Nat) : State :=
  match regionsFor s (claims s) t lid with
  | some xs => placeIn s t lid xs
  | none => s

/-- The order of the queue: highest priority, then earliest accepted, then lowest tile (R190). -/
def queueBefore (s : State) (a b : Nat × Nat) : Bool :=
  let x := s.launch a.1 a.2
  let y := s.launch b.1 b.2
  decide (y.pri < x.pri) || (x.pri == y.pri && (decide (x.accepted < y.accepted) || (x.accepted == y.accepted && decide (a.1 < b.1))))

/-- Insertion into a sorted queue. -/
def insertBy {α : Type} (lt : α → α → Bool) (x : α) : List α → List α
  | [] => [x]
  | y :: l => if lt x y then x :: y :: l else y :: insertBy lt x l

/-- The queued launches of a wall, in order. -/
def wallQueue (s : State) (w : Nat) : List (Nat × Nat) :=
  let all := (s.tiles.filter fun p => s.wallOf p.1 == w).flatMap fun p => (queuedLids p.2).map fun l => (p.1, l)
  all.foldl (fun acc x => insertBy (queueBefore s) x acc) []

/-- The copies of a launch may be evicted: each lies on a tile whose cuts are written (spec/18_system.md R402). -/
def canCut (s : State) (t lid : Nat) : Bool := (copiesOf s t lid).all fun c => s.snapOn c.tile

/-- The order in which victims are chosen: lowest priority, latest accepted, lowest LID (spec/18_system.md R407). -/
def victimBefore (s : State) (a b : Nat × Nat) : Bool :=
  let x := s.launch a.1 a.2
  let y := s.launch b.1 b.2
  decide (x.pri < y.pri) || (x.pri == y.pri && (decide (y.accepted < x.accepted) || (x.accepted == y.accepted && decide (a.2 < b.2))))

/-- A launch is staged beside a partner, or is being loaded for that (R200). -/
def Launch.besides (l : Launch) (partner : Nat) : Bool :=
  l.used && l.staged && l.partner == partner && (l.state == .staged || l.state == .loading)

/-- The package without the copies that the eviction of a launch takes off it: its own, and those of its staged partner (R204). -/
def withoutLaunch (s : State) (t lid : Nat) : State :=
  { s with copies := s.copies.filter fun c =>
      !(c.ref.issuer == t && (c.ref.lid == lid || (s.launch t c.ref.lid).besides lid)) }

/-- The running launches of a wall whose eviction would let a queued launch fit (spec/18_system.md R407). -/
def victims (s : State) (w : Nat) (q : Nat × Nat) : List (Nat × Nat) :=
  let p := (s.launch q.1 q.2).pri
  let all := (s.tiles.filter fun x => s.wallOf x.1 == w).flatMap fun x =>
    (x.2.launches.filter fun l => l.2.used && l.2.state == .running && decide (l.2.pri < p)).map fun l => (x.1, l.1)
  (all.filter fun v => canCut s v.1 v.2 && (let u := withoutLaunch s v.1 v.2; regionsFor u (claims u) q.1 q.2).isSome).foldl
    (fun acc x => insertBy (victimBefore s) x acc) []

/-- Every copy of a launch is to be evicted at its next complete cut (R204). -/
def beginEvict (s : State) (t lid : Nat) : State := s.modLaunch t lid fun l => { l with evicting := true }

/-- A victim chosen for the first launch that is still queued and has one. -/
def evictFor (s : State) (w : Nat) : State :=
  match (s.wall w).evicting with
  | some _ => s
  | none => match (wallQueue s w).findSome? fun q => (victims s w q).head? with
    | some v => (beginEvict s v.1 v.2).modWall w fun x => { x with evicting := some v }
    | none => s

/-- A pass of a wall's placer (R190): every launch that fits is placed, then a victim may be chosen. -/
def execPlacerPass (w : Nat) (s : State) : Host.Outcome State Fault Refusal :=
  .next (evictFor ((wallQueue s w).foldl (fun s q => tryPlace s q.1 q.2) s) w)

/-- A wall's placer is to run again: a launch has been accepted, or a slot or resource freed (R190; log entry 132). -/
def askPlacer (s : State) (w : Nat) : State :=
  if s.sched.any fun p => p.2 == .placerPass w then s
  else schedule { s with draws := s.draws + 1 } (s.cyc + Config.placerDelay s.draws) (.placerPass w)

/-! ## Loading (R193) -/

/-- The registers of a CE after initialisation (R81). -/
def initCe (k : Kernel) (x : Nat) : Ce :=
  k.inits.foldl (fun c i =>
    if i.all || i.cexy == x then
      match i.kind with
      | 0 => { c with k := Tab.set c.k i.idx { v := i.value } }
      | 1 => { c with s := Tab.set c.s i.idx { v := i.value } }
      | _ => { c with p := Tab.set c.p i.idx { b := bitOf i.value.toNat 0 } }
    else c) {}

/-- The schedule tables of a kernel by CE. -/
def kernelTables (k : Kernel) : Tab (List Word48) := ((ceList k.shape).zip k.words).foldl (fun t p => Tab.put t p.1 p.2) []

/-- Memory tiles of a staged copy that its running partner owns too (R200). -/
def inherited (s : State) (c : Copy) : List Nat :=
  let l := s.launch c.ref.issuer c.ref.lid
  if l.staged then
    match s.copy? { c.ref with lid := l.partner } with
    | some p => sharedMts c.kern p.kern
    | none => []
  else []

/-- Owned memory tiles and weight-buffer quarters newly given to a copy are zero-filled (R193, spec/11_systolic.md R261). -/
def zeroOwned (s : State) (c : Copy) : State :=
  let s := if c.kern.mtCache != 0 then flushLines s c.tile (fun _ => true) true else s
  let mine := (List.range 16).filter fun m => bitOf c.kern.mtUse m && !(inherited s c).contains m
  let s := mine.foldl (fun s m => tagsReset (zeroMt s c.tile (physMt c m)) c.tile (physMt c m)) s
  if c.kern.wbuf then
    c.pages.foldl (fun s p => { s with mem := clearCells (weightAddr c.tile p 0) (weightAddr c.tile p 32768) s.mem }) s
  else s

/-- The data images written: bytes of buffers, and the tokens of each FIFO memory tile (R193, R178). -/
def loadData (s : State) (c : Copy) : State × Copy :=
  let s := (c.kern.data.filter fun d => !bitOf c.kern.mtFifo d.mt).foldl (fun s d => writeMt s c.tile (physMt c d.mt) d.off d.bytes none) s
  (s, { c with fifos := (List.range 16).foldl (fun t m =>
          match c.kern.fifoEdge m with
          | some e => if bitOf c.kern.mtFifo m then Tab.set t m (imageQueue e c.slot (c.kern.data.filter (·.mt == m))) else t
          | none => t) c.fifos })

/-- A copy as a cut recorded it. -/
def Copy.fromCut (c : Copy) (k : Cut) : Copy :=
  { c with ces := k.ces, fifos := k.fifos, v := k.v, j := k.j, base := k.base, oc := k.oc, fifoTo := k.fifoTo, done := some k,
           cutK := k.k, cutJ := k.j }

/-- Every copy of a launch has been loaded: it runs, or is staged. -/
def launchLoaded (s : State) (t lid : Nat) : State :=
  let l := s.launch t lid
  if l.state == .loading && (copiesOf s t lid).all (·.phase != .loading) then
    s.modLaunch t lid fun l => { l with state := if l.staged then .staged else .running }
  else s

/-- The load of a copy is over. The II counter starts D_c cycles later; a restored copy goes on where its cut was taken
(R193, R30, spec/18_system.md R408). Cut 0 is the state at load, and is written like any other (R401, R402). -/
def execCopyLoadDone (ref : CopyRef) (s : State) : Host.Outcome State Fault Refusal :=
  .next (match s.copy? ref with
    | none => s
    | some c =>
      if c.phase != .loading || decide (s.cyc < c.loadAt) then s
      else
        let staged := (s.launch ref.issuer ref.lid).staged
        let s := zeroOwned s c
        let c := { c with table := if staged then [] else kernelTables c.kern, restore := none,
                          phase := if staged then .staged else .waiting }
        let place (s : State) (c : Copy) : State := s.modCopy ref fun _ => c
        let s := match (s.copy? ref).bind (·.restore) with
          | some k => schedule (place (restoreMem s c k) (c.fromCut k)) (s.cyc + 1) (.copyStart ref)
          | none =>
            let c := { c with ces := (ceList c.kern.shape).foldl (fun t x => Tab.set t x (initCe c.kern x)) [] }
            let (s, c) := loadData s c
            let c := if s.snapOn c.tile then { c with writing := some (cutOf s c 0) } else c
            if staged then place s c else schedule (place s c) (s.cyc + 1 + c.dc) (.copyStart ref)
        launchLoaded s ref.issuer ref.lid)

/-- The II counter of a copy starts (R30). -/
def execCopyStart (ref : CopyRef) (s : State) : Host.Outcome State Fault Refusal :=
  .next (s.modCopy ref fun c => if c.phase == .waiting then { c with phase := .running } else c)

/-! ## Orphans and release (R37, R179, R189, R196) -/

/-- Tokens counted as orphans of a launch, or of the tile where the entry is gone; the host is told when a launch's counter
becomes non-zero. -/
def countOrphans (s : State) (t lid n : Nat) : State :=
  if n = 0 then s
  else
    let l := s.launch t lid
    if !l.used then s.modTile t fun x => { x with orphan := satAdd32 x.orphan n }
    else
      let s := s.modLaunch t lid fun l => { l with orphans := satAdd32 l.orphans n }
      if l.orphans = 0 then pushEvent s 0x05 (t * 2 ^ 16 + lid) else s

/-- Tokens queued in a copy that become orphans: those of its channels, and of FIFOs that are the source of an edge (R179). -/
def queuedTokens (c : Copy) : Nat :=
  (c.ces.map fun p => (p.2.queue.map fun q => q.2.length).sum).sum +
  (c.fifos.map fun p => if c.kern.edges.any (fun e => e.src == .mt p.1) then p.2.length else 0).sum

/-- A copy's slot and resources released: the port queues of its memory tiles drain, the dirty bytes of its cache banks are written back
(spec/09_memory.md R208), and the wall's placer runs again (R190). -/
def releaseCopy (s : State) (c : Copy) : State :=
  let s := closeMts s c.tile (c.buffers.map (physMt c))
  let s := if c.kern.mtCache != 0 then flushLines s c.tile (fun _ => true) true else s
  askPlacer ((discardRequests s c).dropCopy c.ref) (s.wallOf c.tile)

/-- The memory tiles of a tile whose port queues have become empty are free, and the wall's placer runs again (spec/09_memory.md R208). -/
def endClosing (s : State) (t : Nat) : State :=
  let l := (s.tile t).mem.closing
  if l = [] then s
  else if l.all (queueBusy s t) then s
  else askPlacer (s.modMem t fun m => { m with closing := l.filter (queueBusy s t) }) (s.wallOf t)

/-- The destination that an act of a slot has still to reach, and the slot's CE: of an access to a cell, a list or a word of a memory
tile, where the operation delivers a value. -/
def Act.delivers? : Act → Option (CopyRef × Nat × PDst)
  | .write r x d _ _ => some (r, x, d)
  | .eos r x i => some (r, x, .ch i)
  | .atomic r x _ _ _ _ _ d => some (r, x, d)
  | .cell a => match a.topk, a.op with
    | true, _ | _, .sdrain .. | _, .skey | _, .sidx => some (a.ref, a.ce, a.dst)
    | _, _ => none
  | _ => none

/-- The destinations that the requests of a copy have still to reach: loads and atomics, and values of the exponent engine. -/
def requestDsts (s : State) (c : Copy) : List (Nat × PDst) :=
  let mine (r : ExpReq) : Option (Nat × PDst) := match r with
    | .slot x ce d .. => if x == c.ref then some (ce, d) else none
    | _ => none
  ((s.tile c.tile).mem.loads.filter (·.who == .region c.ref)).map (fun e => (e.ce, e.dst)) ++
    (s.tile c.tile).lanes.flatMap fun p => p.2.slots.filterMap mine ++ p.2.flight.filterMap fun q => mine q.2

/-- Tokens of a copy that are on their way to a queue and will be orphans: all but those for a sink (R179). -/
def tokensInFlight (s : State) (c : Copy) : Nat :=
  let lost (x : Nat) (d : PDst) : Bool := match d with
    | .ch i => (match c.outEdge x i with
      | some e => !c.isOutput e
      | none => false)
    | _ => false
  (s.due.filter fun d => match d.act.delivers? with
    | some (r, x, p) => r == c.ref && lost x p
    | none => false).length + ((requestDsts s c).filter fun p => lost p.1 p.2).length

/-- Parked tokens of a launch. -/
def parkedOf (s : State) (t lid : Nat) : List Parked := s.plinth.parked.filter fun p => p.ref.issuer == t && p.ref.lid == lid

/-- The wall of a launch. -/
def launchWall (s : State) (t : Nat) : Nat := s.wallOf t

/-- An access given by tile and number is still outstanding. -/
def accessOpen (s : State) (p : Nat × Nat) : Bool :=
  let m := (s.tile p.1).mem
  m.loads.any (·.id == p.2) || m.stores.any (·.seq == p.2)

/-- The outstanding accesses of some copies, by tile and number. -/
def accessesOf (s : State) (cs : List Copy) : List (Nat × Nat) :=
  cs.flatMap fun c => (outstanding (s.tile c.tile).mem (.region c.ref)).map fun i => (c.tile, i)

/-- A compaction loses a move; when every planned move is done it signals as a release at wall scope (R205, spec/10_ordering.md
R254), behind the accesses `waits` of the copies it moved. `made` says that the move was made; with a move that is never made
the signal is never given (log entry 31). -/
def moveOver (s : State) (w : Nat) (ref : CopyRef) (made : Bool) (waits : List (Nat × Nat)) : State :=
  match (s.wall w).compaction with
  | none => s
  | some x =>
    if !x.moves.contains ref then s
    else
    let x := { x with moves := x.moves.filter (· != ref), sigEn := x.sigEn && made, waits := x.waits ++ waits }
    if x.moves.isEmpty then
      let s := s.modWall w fun y => { y with compaction := none }
      if x.sigEn then raiseAfter s x.tile x.sem (x.waits.filter (accessOpen s)) else s
    else s.modWall w fun y => { y with compaction := some x }

/-- A launch comes to its end: slots released, the semaphore signalled as a release at wall scope, tokens orphaned (R37,
spec/10_ordering.md R254). -/
def endLaunch (s : State) (t lid : Nat) (final : LState) : State :=
  let cs := copiesOf s t lid
  let n := (cs.map fun c => queuedTokens c + tokensInFlight s c).sum + (parkedOf s t lid).length
  let waits := accessesOf s cs
  let s := cs.foldl releaseCopy s
  let s := s.modPlinth fun p => { p with parked := p.parked.filter fun p => !(p.ref.issuer == t && p.ref.lid == lid) }
  let l := s.launch t lid
  let s := s.modTile t fun x => { x with ends := x.ends + 1 }
  let s := s.modLaunch t lid fun l =>
    { l with state := final, cancelling := false, evicting := false, leaving := [], saved := [], endOrder := (s.tile t).ends }
  let s := cs.foldl (fun s c => moveOver s (launchWall s t) c.ref false []) s
  let s := s.modWall (launchWall s t) fun x => { x with evicting := if x.evicting == some (t, lid) then none else x.evicting }
  countOrphans (raiseAfter s t l.csem (waits.filter (accessOpen s))) t lid n

/-- A sink holds end-of-stream. -/
def sinkEnded (c : Copy) (m : Nat) : Bool := (Tab.get c.fifos m).any (·.kind == .eos)

/-- The writes of a copy have landed: nothing in flight, no lease, no load outstanding. -/
def landed (s : State) (c : Copy) : Bool :=
  !s.inFlight c.ref && c.noLease && !((s.tile c.tile).mem.loads.any fun e => e.who == .region c.ref)

/-- A copy's store acknowledgements have all arrived. -/
def storesDone (s : State) (c : Copy) : Bool := outstandingStores (s.tile c.tile).mem (.region c.ref) == []

/-- A copy meets the end conditions of R37; one without a sink when its last instance is over (R194). -/
def copyEnded (s : State) (c : Copy) : Bool :=
  c.phase != .loading && storesDone s c && c.kern.sinks.all (sinkEnded c) &&
    (c.kern.sinks != [] || (c.phase == .stopped && landed s c))

/-- A launch ends now (R37, R197). -/
def launchEnds (s : State) (t lid : Nat) : Bool :=
  let l := s.launch t lid
  let cs := copiesOf s t lid
  l.used && ((l.state == .running && cs.length == l.ncopies && cs.all (copyEnded s)) ||
    (l.cancelling && cs.all fun c => landed s c && storesDone s c))

/-- The end of a launch (R37). -/
def execLaunchEnd (t lid : Nat) (s : State) : Host.Outcome State Fault Refusal :=
  .next (if launchEnds s t lid then endLaunch s t lid (if (s.launch t lid).cancelling then .cancelled else .ended) else s)

/-- Tokens pushed into a sink over all its edges since the copy was loaded, modulo 2^32. -/
def sinkCount (c : Copy) (m : Nat) : Nat :=
  (c.kern.edges.map fun e => match e.src, e.dst with
    | .ce x ch, .mt i => if i = m then (Tab.get (c.ce x).out ch).ntok else 0
    | _, _ => 0).sum % 2 ^ 32

/-- The open blocks of the edges into a sink are closed (spec/03_numbers.md R95). -/
def closeInto (c : Copy) (m : Nat) : Copy :=
  c.kern.edges.foldl (fun c e => match e.src, e.dst with
    | .ce x ch, .mt i => if i = m then c.closeBlock x ch e else c
    | _, _ => c) c

/-- End-of-stream pushed into a sink by the device (R194). -/
def endSink (c : Copy) (m : Nat) : Copy :=
  if sinkEnded c m then c
  else
    let c := closeInto c m
    { c with fifos := Tab.modify c.fifos m (· ++ [eosToken (sinkCount c m) 0 c.slot]) }

/-- The last instance of a counted copy is over: end-of-stream goes into every sink that has none (R194). -/
def execCountedEnd (ref : CopyRef) (s : State) : Host.Outcome State Fault Refusal :=
  .next (match s.copy? ref with
    | none => s
    | some c =>
      if c.phase == .stopped && landed s c && !(s.launch ref.issuer ref.lid).cancelling then
        s.modCopy ref fun c => c.kern.sinks.foldl endSink c
      else s)

/-! ## Input ports (R195, spec/12_engines.md R288) -/

/-- The copy and memory tile a port address names. -/
def portOf (a : Nat) : CopyRef × Nat := ({ issuer := fld a 22 10, lid := fld a 32 16, copy := fld a 17 5 }, fld a 13 4)

/-- The fault of a port address, if any: BAD_TILE, or PORT_BAD where it is not a FIFO memory tile of a launch. -/
def portFault (s : State) (a : Nat) : Option Nat :=
  let (c, m) := portOf a
  let l := s.launch c.issuer c.lid
  if fld a 0 13 ≠ 0 then some 0x31
  else if !s.tileOk c.issuer then some 0x1A
  else if !l.used then (if c.lid < (s.tile c.issuer).lidNext then none else some 0x31)
  else if !l.state.live then none
  else if l.ncopies ≤ c.copy ∨ !bitOf (s.kernel l.handle).mtFifo m then some 0x31
  else none

/-- The edge whose format and block length tokens of a port carry. -/
def portEdge (s : State) (a : Nat) : Edge :=
  let (c, m) := portOf a
  ((s.kernel (s.launch c.issuer c.lid).handle).fifoEdge m).getD { src := .mt m, dst := .mt m, fmt := 0, blk := 0 }

/-- A token queued on a FIFO memory tile under the copy's context tag. -/
def queueToken (c : Copy) (m : Nat) (t : Token) : Copy :=
  { c with fifos := Tab.modify c.fifos m (· ++ [{ t with hdr := setFld t.hdr 14 2 c.slot, src := 0, org := 0 }]) }

/-- A FIFO memory tile has room for a token from outside. -/
def portRoom (c : Copy) (m : Nat) : Bool := decide ((Tab.get c.fifos m).length + Tab.get c.fifoSent m < 1024)

/-- A token parks; none when parking memory is full. -/
def park (s : State) (c : CopyRef) (m : Nat) (t : Token) : Option State :=
  if s.plinth.parked.length < 1048576 then
    some (s.modPlinth fun p => { p with parked := p.parked ++ [{ ref := c, mt := m, tok := t }] })
  else none

/-- A token arrives for a port: queued, parked or an orphan by the launch's state; parked also while its copy waits at the cut with which it
leaves its region (R205, spec/18_system.md R408); none while it must be held. -/
def portPush (s : State) (a : Nat) (t : Token) : Option State :=
  let (c, m) := portOf a
  let l := s.launch c.issuer c.lid
  if !l.used || !l.state.live then some (countOrphans s c.issuer c.lid 1)
  else
    match l.state with
    | .queued | .loading | .evicted => park s c m t
    | _ =>
      if s.plinth.parked.any (fun p => p.ref == c && p.mt == m) then park s c m t
      else match s.copy? c with
        | none => park s c m t
        | some x =>
          if x.phase == .loading || x.leave then park s c m t
          else if portRoom x m then some (s.modCopy c fun x => queueToken x m t)
          else none

/-- A port's oldest parked token is queued when its copy is there and has room. -/
def replayOne (s : State) (p : Parked) : State :=
  let ready := match (s.launch p.ref.issuer p.ref.lid).state with
    | .running | .staged | .sweeping => true
    | _ => false
  match s.copy? p.ref with
  | none => s
  | some c =>
    if ready && c.phase != .loading && !c.leave && portRoom c p.mt && s.plinth.parked.find? (fun q => q.ref == p.ref && q.mt == p.mt) == some p then
      (s.modCopy p.ref fun c => queueToken c p.mt p.tok).modPlinth fun x => { x with parked := x.parked.erase p }
    else s

/-- Parked tokens replayed in arrival order, as far as there is room (R195). -/
def replayParked (s : State) : State := s.plinth.parked.foldl replayOne s

/-! ## Leaving: eviction and moves (R204, R205, spec/18_system.md R408) -/

/-- Staged launches whose partner is this one return to the queue, their slots freed; tokens that their copies hold are dropped with the
copies and not counted, which R204 does not settle (R204; log entry 160). -/
def unstage (s : State) (t lid : Nat) : State :=
  ((s.tile t).launches.filter fun p => p.2.besides lid).foldl
    (fun s p => ((copiesOf s t p.1).foldl releaseCopy s).modLaunch t p.1 fun l => { l with state := .queued }) s

/-- A launch has lost its last resident copy to eviction: it is evicted and back in the queue, even where that holds 16 entries already, as
a staged partner is (R204, R189; log entry 161). -/
def evictedWhole (s : State) (t lid : Nat) : State :=
  if (copiesOf s t lid).isEmpty then
    let w := launchWall s t
    let s := unstage s t lid
    let s := s.modLaunch t lid fun l => { l with state := .evicted, evicting := false }
    s.modWall w fun x => { x with evicting := if x.evicting == some (t, lid) then none else x.evicting }
  else s

/-- A copy whose cut is complete leaves its region, if it has to: evicted, or moved at once. -/
def leaveRegion (s : State) (c : Copy) (k : Cut) : State :=
  let t := c.ref.issuer
  let l := s.launch t c.ref.lid
  if l.evicting then
    let s := (releaseCopy s c).modLaunch t c.ref.lid fun l =>
      { l with saved := Tab.set l.saved c.ref.copy (some k), leaving := Tab.set l.leaving c.ref.copy none }
    evictedWhole (moveOver s (launchWall s t) c.ref false []) t c.ref.lid
  else match Tab.get l.leaving c.ref.copy with
    | none => s
    | some (tile, pages, slot) =>
      let waits := accessesOf s [c]
      let s := unstage (releaseCopy s c) t c.ref.lid
      let s := s.modLaunch t c.ref.lid fun l => { l with leaving := Tab.set l.leaving c.ref.copy none }
      let want := claimAt c.kern tile pages slot
      let free (x : Claim) : Bool := resourcesFree (reservedMask s) (claims s) x &&
        !(claims s).any fun y => y.tile == x.tile && y.slot == x.slot && shares y.pages x.pages
      let x := if free want then want else claimOf c
      let s := { s with copies := s.copies ++ [newCopy s c.ref c.kern c.oc c.dc x (some k)] }
      moveOver s (launchWall s t) c.ref true waits

/-! ## Cancelling and priorities (R197, R199, R203) -/

/-- `lcancel` on a launch, by its state (R197). One that is loading is treated like a running one; the tokens queued and parked for a staged
one are neither counted nor removed with it, and its semaphore is not incremented: R179 and R197 settle neither (log entry 160). -/
def cancelLaunch (s : State) (t lid : Nat) : State :=
  let l := s.launch t lid
  match l.state with
  | .queued | .evicted => endLaunch s t lid .cancelled
  | .staged =>
    let s := (copiesOf s t lid).foldl releaseCopy s
    s.modTile t fun x => { x with ends := x.ends + 1, launches := Tab.modify x.launches lid fun l =>
      { l with state := .cancelled, endOrder := x.ends + 1 } }
  | .loading | .running | .sweeping =>
    let s := { s with copies := s.copies.map fun (c : Copy) => if c.ref.issuer = t ∧ c.ref.lid = lid then { c with phase := .stopped, writing := none } else c }
    s.modLaunch t lid fun l => { l with state := .cancelled, cancelling := true }
  | .ended | .cancelled => s

/-! ## Sharing a page (R198, R199) -/

/-- The launch of a copy. -/
def State.launchOf (s : State) (c : Copy) : Launch := s.launch c.ref.issuer c.ref.lid

/-- A context that counts as running for the shares. -/
def Copy.counts (c : Copy) : Bool :=
  match c.phase with
  | .running | .waiting | .held _ | .failing | .broken => true
  | _ => false

/-- Tokens queued for a slot on the receiving queues of a tile (R198). -/
def occupancy (s : State) (t slot : Nat) : Nat :=
  ((s.copies.filter fun c => c.tile == t && c.slot == slot).map fun c =>
    (c.ces.map fun p => (p.2.queue.map fun q => q.2.length).sum).sum + (c.fifos.map fun p => p.2.length).sum).sum

/-- Occupancy sampled on a tile. -/
def sampleOcc (s : State) (t : Nat) : State :=
  (List.range 4).foldl (fun s i => s.modTile t fun x => { x with occ := Tab.modify x.occ i (· + occupancy s t i) }) s

/-- Highest priority among running contexts of a slot, if there is one. -/
def slotPri (s : State) (t slot : Nat) : Option Nat :=
  match (s.copies.filter fun c => c.tile == t && c.slot == slot && c.counts).map fun c => (s.launchOf c).pri with
  | [] => none
  | p :: ps => some (ps.foldl max p)

/-- The wheel from the active slots with their raw weights (R198). -/
def wheelOf (raw : List (Nat × Nat)) : List Nat :=
  let n := raw.length
  let total := (raw.map (·.2)).sum
  let base := raw.map fun (i, r) => (i, 1 + (16 - n) * r / total, (16 - n) * r % total)
  let left := 16 - (base.map fun b => b.2.1).sum
  let order := base.foldl (fun acc x => insertBy (fun a b => decide (b.2.2 < a.2.2)) x acc) []
  let extra := (order.take left).map (·.1)
  base.flatMap fun (i, k, _) => List.replicate (k + b2n (extra.contains i)) i

/-- The wheel of a tile recomputed, and a new epoch of samples begun. -/
def newWheel (s : State) (t : Nat) : State :=
  let raw := (List.range 4).filterMap fun i => (slotPri s t i).map fun p => (i, (Tab.get (s.tile t).occ i + 1) * 2 ^ p)
  s.modTile t fun x => { x with wheel := if raw.isEmpty then [] else wheelOf raw, occ := [] }

/-- Every 256 cycles a tile recomputes its wheel (R198). -/
def execWheelEpoch (t : Nat) (s : State) : Host.Outcome State Fault Refusal := .next (newWheel s t)

/-- A page's grant among ready contexts: the wheel's slot, else the highest priority, the lower slot on a tie (R199). -/
def pageGrant (s : State) (t page : Nat) (ready : List Copy) : Option CopyRef :=
  let here := ready.filter fun c => c.tile == t && c.pages.contains page
  let want := (s.tile t).wheel[s.cyc % 16]?
  match here.find? (fun c => some c.slot == want) with
  | some c => some c.ref
  | none => ((here.foldl (fun acc x => insertBy (fun a b =>
      let p := (s.launchOf a).pri
      let q := (s.launchOf b).pri
      decide (q < p) || (p == q && decide (a.slot < b.slot))) x acc) []).head?).map (·.ref)

/-- The ready contexts that every one of their pages grants (R199). -/
def granted (s : State) (ready : List Copy) : List Copy :=
  ready.filter fun c => c.pages.all fun p => pageGrant s c.tile p ready == some c.ref

end Sys2Proof.Machine
end

