-- ==== Sys2Proof/Machine/Net.lean ====
section
/-!
DEFINITION. The rings (spec/01_machine.md R20, spec/13_rings.md R296 to R298): the way of a message over course, wall and package
rings, what a stop does in a cycle, the bypass latch, the buffers at the crossing points, and the Herotte links
(spec/19_boundary.md R432). Traffic that is not followed takes slots at free times (log entry 141).
-/
namespace Sys2Proof.Machine

/-! ## Links and directions -/

/-- Link `k` joins wall `k` to the next one clockwise; it carries traffic in a direction, 0 clockwise
(spec/19_boundary.md R432, R434). -/
def linkUp (h : Hw) (k d : Nat) : Bool := widthCode (ringLanes h k d) 64 != 0

/-- The links from wall `a` to wall `b` in a direction all carry traffic. -/
def wayUp (h : Hw) (a b d : Nat) : Bool :=
  if d = 0 then (List.range ((b + 4 - a) % 4)).all fun i => linkUp h ((a + i) % 4) 0
  else (List.range ((a + 4 - b) % 4)).all fun i => linkUp h ((a + 3 - i) % 4) 1

/-- The direction with fewer hops round a ring, clockwise on a tie (R296). -/
def nearDir (stops a b : Nat) : Nat := if (b + stops - a) % stops ≤ (a + stops - b) % stops then 0 else 1

/-- The direction of traffic from wall `a` to wall `b`: of a query token clockwise, of other traffic the one with fewer hops; and the
other way round where a link of that way is down (R296, spec/19_boundary.md R432). -/
def wallDir (h : Hw) (query : Bool) (a b : Nat) : Nat :=
  let d := if query then 0 else nearDir 4 a b
  if wayUp h a b d then d else 1 - d

/-- The walls that wall `w` reaches the plinth through, in order of preference: itself, its neighbours, the wall opposite. -/
def spokeChoices (w : Nat) : List Nat := [w, (w + 1) % 4, (w + 3) % 4, (w + 2) % 4]

/-- Some way round the package ring from wall `a` to wall `b` carries traffic. -/
def wallReach (h : Hw) (a b : Nat) : Bool := wayUp h a b 0 || wayUp h a b 1

/-- The wall whose spoke serves wall `w` in a direction (0 towards the plinth): its own, or, where that is down, one that a way leads to and
whose spoke carries traffic that way (spec/19_boundary.md R432). -/
def spokeWall (h : Hw) (d w : Nat) : Nat :=
  ((spokeChoices w).find? fun v => widthCode (spokeLanes h v d) 32 != 0 && (if d = 0 then wallReach h w v else wallReach h v w)).getD w

/-- The arcade port that a tile's messages to another package leave by: by the direction on the arcade ring, and by the number of the
stop (spec/19_boundary.md R431). -/
def arcadePort (s : State) (t : Nat) (query : Bool) (pkg : Nat) : Nat :=
  (if query || nearDir (max s.mgmt.arcSize 1) s.mgmt.arcNum pkg == 0 then 4 else 6) + physOf s.hw t % 2

/-- A package number is refused: the own one, or, once the arcade runs, one that no package of it holds; before that the traffic waits in
its sender (R431). -/
def State.refusesPackage (s : State) (p : Nat) : Bool := p == s.mgmt.arcNum || (s.mgmt.arcUp && !s.mgmt.arcList.contains p)

/-- A message of a tile to another package. -/
def sendArc (s : State) (t : Nat) (query : Bool) (pkg : Nat) (m : ArcMsg) : State := s.send (.arcade (arcadePort s t query pkg) pkg m)

/-- A message of the plinth to another package: it leaves as from an even stop (R431; log entry 141). -/
def plinthArc (s : State) (pkg : Nat) (m : ArcMsg) : State :=
  s.send (.arcade (if nearDir (max s.mgmt.arcSize 1) s.mgmt.arcNum pkg = 0 then 4 else 6) pkg m)

/-- A tile's stop is held in pass-through, for the tile is retired (spec/01_machine.md R18). -/
def passThrough (s : State) (r p : Nat) : Bool := decide (r < 64 ∧ p < 16) && retired s.hw (16 * r + p)

/-! ## Slots, stops, buffers -/

/-- The rings changed. -/
def State.modNet (s : State) (f : Net → Net) : State := { s with net := f s.net }

/-- The number of a stop in a direction. -/
def stopIx (r d p : Nat) : Nat := (r * 2 + d) * 17 + p

/-- The slot at a stop. -/
def Net.slot (n : Net) (r d p : Nat) : Option RSlot := Tab.get n.slots (stopIx r d p)

/-- A stop. -/
def Net.stop (n : Net) (r d p : Nat) : RStop := Tab.get n.stops (stopIx r d p)

/-- The slot at a stop set. -/
def State.setSlot (s : State) (r d p : Nat) (x : Option RSlot) : State :=
  s.modNet fun n => { n with slots := Tab.set n.slots (stopIx r d p) x }

/-- A stop changed. -/
def State.modStop (s : State) (r d p : Nat) (f : RStop → RStop) : State :=
  s.modNet fun n => { n with stops := Tab.modify n.stops (stopIx r d p) f }

/-- The stop at which a slot leaves ring `r`: the bridge or gateway where it goes beyond the ring. -/
def leaveAt (s : State) (r : Nat) (x : RSlot) : Nat :=
  let p := physOf s.hw x.tile
  if x.pkg ≠ s.mgmt.arcNum then 16
  else if r < 64 then if p / 16 = r then p % 16 else 16
  else if p / 256 = r - 64 then p / 16 % 16 else 16

/-- Slots waiting at a stop, in both directions. -/
def Net.waiting (n : Net) (r p : Nat) : Nat := (n.stop r 0 p).queue.length + (n.stop r 1 p).queue.length

/-- A buffer of 64 slots has fewer than 32 free: it raises full (R298). -/
def raisesFull (used : Nat) : Bool := decide (64 < used + 32)

/-- The bridge of course `c` raises full, towards the wall ring (`up`) or towards the course. -/
def bridgeFull (s : State) (up : Bool) (c : Nat) : Bool :=
  if up then raisesFull (s.net.waiting (64 + c / 16) (c % 16)) else raisesFull ((s.net.waiting c 16 + 1) / 2)

/-- The gateway of wall `w` raises full, towards the package ring (`up`) or towards the wall ring. -/
def gatewayFull (s : State) (up : Bool) (w : Nat) : Bool :=
  if up then raisesFull (s.net.links.filter fun l => l.wall == w && !l.sent).length else raisesFull ((s.net.waiting (64 + w) 16 + 1) / 2)

/-- The plinth raises full towards the arcade ring. -/
def plinthFull (s : State) : Bool := raisesFull s.net.outq.length

/-- A point behind the package ring that a slot must cross raises full: the plinth, or the gateway of its wall and the bridge of its
course. -/
def farFull (s : State) (x : RSlot) : Bool :=
  if x.pkg ≠ s.mgmt.arcNum then plinthFull s
  else gatewayFull s false (s.wallOf x.tile) || bridgeFull s false (physOf s.hw x.tile / 16)

/-- What a stop inserts now on ring `r` must cross at a point that raises full: a bridge, a gateway or the plinth (R298; log entry 141). -/
def crossFull (s : State) (r : Nat) (x : RSlot) : Bool :=
  let c := physOf s.hw x.tile / 16
  let w := if r < 64 then r / 16 else r - 64
  let own := x.pkg == s.mgmt.arcNum
  if own && c == r then false
  else
    (decide (r < 64) && bridgeFull s true r) ||
      (if own && s.wallOf x.tile == w then bridgeFull s false c else gatewayFull s true w || farFull s x)

/-- A ring that is not kept is taken up: at each stop stands traffic that is not followed, or none. -/
def wakeRing (s : State) (r d : Nat) : State :=
  if s.net.live.contains (r, d) then s
  else
    let s := s.modNet fun n => { n with live := n.live ++ [(r, d)] }
    (List.range 17).foldl (fun s p =>
      { s with draws := s.draws + 1 }.setSlot r d p ((Config.ringOther s.draws).map fun h => { hops := h % 17 })) s

/-- Slots of one message join the queue of stop `p` of ring `r`, in the direction they take (R296). -/
def enterRing (s : State) (r p : Nat) (xs : List RSlot) : State :=
  match xs with
  | [] => s
  | x :: _ =>
    let d := if x.query then 0 else nearDir 17 p (leaveAt s r x)
    (wakeRing s r d).modStop r d p fun k => { k with queue := k.queue ++ xs }

/-- The course-ring slots that a slot of a wall ring carries. -/
def expand (x : RSlot) : List RSlot := if x.k + 1 < x.n then [x, { x with k := x.k + 1 }] else [x]

/-- A new message for a tile of a package, put in the injection queue of a tile's stop: `n` slots (R296, R314). -/
def injectMsg (s : State) (t pkg tile n : Nat) (load : RingLoad) : State :=
  let id := s.net.nextMsg
  let q := match load with
    | .query _ => true
    | _ => false
  let p := physOf s.hw t
  enterRing (s.modNet fun k => { k with nextMsg := id + 1, msgs := k.msgs ++ [{ id := id, load := load, src := t }] }) (p / 16) (p % 16)
    ((List.range n).map fun k => { msg := id, k := k, n := n, query := q, pkg := pkg, tile := tile })

/-- A message that comes from another package crosses to the package ring at the plinth. -/
def injectPlinth (s : State) (src tile n : Nat) (load : RingLoad) : State :=
  let id := s.net.nextMsg
  s.modNet fun k =>
    { k with nextMsg := id + 1, msgs := k.msgs ++ [{ id := id, load := load, src := src }]
             links := k.links ++ (List.range ((n + 1) / 2)).map fun i =>
               { slot := { msg := id, k := 2 * i, n := n, query := true, pkg := s.mgmt.arcNum, tile := tile }, wall := 4 } }

/-- A message is over. -/
def dropRing (s : State) (id : Nat) : State := s.modNet fun n => { n with msgs := n.msgs.filter (·.id != id) }

/-- A message. -/
def Net.msg? (n : Net) (id : Nat) : Option RingMsg := n.msgs.find? (·.id == id)

/-- A message changed. -/
def State.modMsg (s : State) (id : Nat) (f : RingMsg → RingMsg) : State :=
  s.modNet fun n => { n with msgs := n.msgs.map fun m => if m.id = id then f m else m }

/-! ## Arrivals -/

/-- QSKIP.DROP of a tile raised. -/
def countDrop (s : State) (t : Nat) : State := s.modRing t fun x => { x with qdrop := min (x.qdrop + 1) 65535 }

/-- The last slot of a message reaches the stop it is addressed to, or the plinth. -/
def deliverMsg (s : State) (x : RSlot) : State :=
  match s.net.msg? x.msg with
  | none => s
  | some m =>
    let s := dropRing s x.msg
    match m.load with
    | .query bytes =>
      if s.refusesPackage x.pkg then countDrop s m.src else sendArc s m.src true x.pkg (.query m.src x.tile bytes)
    | .store t id => s.modMem t fun k => { k with stores := k.stores.map fun e => if e.id = id then { e with xb := 2 } else e }
    | .kv op => s.modRing x.tile fun k => { k with kvq := k.kvq ++ [op] }
    | .out o => s.send o

/-- Bytes written to the query FIFO of a tile from an offset on, round its end (R303). -/
def writeFifo (s : State) (t off : Nat) (bytes : List Byte) : State :=
  let mt := fld (s.tile t).ring.rscfg.toNat 0 4
  let off := off % 65536
  let k := 65536 - off
  let s := writeMt s t mt off (bytes.take k) none
  if bytes.drop k = [] then s else writeMt s t mt 0 (bytes.drop k) none

/-- The 256-byte slot `i` of a message on a course ring. -/
def slotBytes (bytes : List Byte) (i : Nat) : List Byte := (bytes.drop (256 * i)).take 256

/-- A slot of a diverted token is written into the query FIFO, through its shared port (spec/09_memory.md R210); with the last one the token is whole, and QSEM is raised (R304,
spec/14_attention.md R319). -/
def takeSlot (s : State) (t : Nat) (x : RSlot) : State :=
  match s.net.msg? x.msg, (s.tile t).ring.fifo.find? (·.msg == x.msg) with
  | some { load := .query bytes, .. }, some q =>
    let s := writeFifo (queuePort s t (fld (s.tile t).ring.rscfg.toNat 0 4) 4) t (q.start * 64 + 256 * x.k) (slotBytes bytes x.k)
    if x.k + 1 < x.n then s
    else semRaise (dropRing (s.modRing t fun r => { r with fifo := r.fifo.map fun q => if q.msg = x.msg then { q with msg := 0 } else q }) x.msg)
      t (fld (s.tile t).seq.ascfg.toNat 16 8) 1
  | _, _ => s

/-- What was decided for a message at a tile's stop. -/
def RingMsg.wayAt (m : RingMsg) (t : Nat) : Option RingWay := (m.ways.find? fun w => w.1 == t).map (·.2)

/-- A slot of a query token that has come to the stop of the tile it is addressed to does what was decided there (R304). -/
def followWay (s : State) (r d p : Nat) (x : RSlot) (w : RingWay) : State :=
  let last := decide (x.n ≤ x.k + 1)
  let forget (s : State) : State := if last then s.modMsg x.msg fun m => { m with ways := Tab.drop m.ways x.tile } else s
  match w with
  | .lap => s
  | .taken => takeSlot (s.setSlot r d p none) x.tile x
  | .gone => let s := s.setSlot r d p none; if last then dropRing s x.msg else s
  | .onward pk ti => forget (s.setSlot r d p (some { x with pkg := pk, tile := ti }))

/-- A slot arrives at the stop of the tile it is addressed to: the first slot of a query token is to be examined, and those behind it
follow what was decided (R304). -/
def arriveTile (s : State) (r d p : Nat) (x : RSlot) : State :=
  if !x.query then
    let s := s.setSlot r d p none
    if x.k + 1 < x.n then s else deliverMsg s x
  else if x.k = 0 then s.modNet fun n => { n with exams := n.exams ++ [x.tile] }
  else match (s.net.msg? x.msg).bind fun m => m.wayAt x.tile with
    | some w => followWay s r d p x w
    | none => s

/-- What the slot that has come to a stop does: it goes on, leaves the ring, or crosses (R296, R298). -/
def arrive (s : State) (r d p : Nat) : State :=
  match s.net.slot r d p with
  | none => s
  | some x =>
    if x.msg = 0 then (if passThrough s r p then s else s.setSlot r d p (if x.hops = 0 then none else some { x with hops := x.hops - 1 }))
    else if leaveAt s r x ≠ p then s
    else if r < 64 then
      (if p = 16 then enterRing (s.setSlot r d p none) (64 + r / 16) (r % 16) [x] else arriveTile s r d p x)
    else if p = 16 then (s.setSlot r d p none).modNet fun n => { n with links := n.links ++ [{ slot := x, wall := r - 64 }] }
    else enterRing (s.setSlot r d p none) ((r - 64) * 16 + p) 16 (expand x)

/-- A ring moves on by one stop, and what has come to each stop arrives. -/
def shiftRing (s : State) (rd : Nat × Nat) : State :=
  let (r, d) := rd
  let old := (List.range 17).map fun p => s.net.slot r d ((p + (if d = 0 then 16 else 1)) % 17)
  let s := ((List.range 17).zip old).foldl (fun s p => s.setSlot r d p.1 p.2) s
  (List.range 17).foldl (fun s p => arrive s r d p) s

/-! ## The package ring -/

/-- The wall whose gateway a slot leaves the package ring at; 4 for the plinth. -/
def goalOf (s : State) (x : RSlot) : Nat := if x.pkg = s.mgmt.arcNum then s.wallOf x.tile else 4

/-- The link that a slot takes from wall `w` (4: the plinth), and where it leads (R296, spec/19_boundary.md R432). -/
def nextLink (s : State) (x : RSlot) (w : Nat) : Nat × Nat :=
  let g := goalOf s x
  let step (d : Nat) : Nat × Nat := (d, if d = 0 then (w + 1) % 4 else (w + 3) % 4)
  if w = 4 then (2, spokeWall s.hw 1 g)
  else if g = 4 then
    let v := spokeWall s.hw 0 w
    if v = w then (2, 4) else step (wallDir s.hw x.query w v)
  else step (wallDir s.hw x.query w g)

/-- A slot comes out of the package ring: into the queue of its gateway, or into the plinth's buffer. -/
def leaveLinks (s : State) (x : RSlot) (g : Nat) : State :=
  if g = 4 then s.modNet fun n => { n with outq := n.outq ++ [x] } else enterRing s (64 + g) 16 (expand x)

/-- The arcade ring takes a slot out of the plinth's buffer in a cycle, or none (log entry 141). -/
def stepPlinth (s : State) : State :=
  match s.net.outq with
  | [] => s
  | x :: rest =>
    let n := s.draws
    let s := { s with draws := n + 1 }
    if !s.mgmt.arcUp || !Config.arcadeTakes n then s
    else
      let s := s.modNet fun k => { k with outq := rest }
      if x.k + 2 < x.n then s else deliverMsg s x

/-- One cycle of the package ring: of every gateway's buffer the slots that may leave it do, and of every link the oldest slot arrives when
its time has come; each keeps its order. -/
def stepLinks (s : State) : State :=
  let l := s.net.links
  if l = [] then s
  else
    let s := s.modNet fun n => { n with links := [] }
    let go (s : State) (i : Nat) (x : LinkSlot) : State × Option LinkSlot × Option LinkSlot :=
      let before := l.take i
      if x.sent then
        if s.cyc < x.at' || before.any fun y => y.sent && y.wall == x.wall && y.dir == x.dir then (s, some x, none)
        else
          let w := (nextLink s x.slot x.wall).2
          if w = goalOf s x.slot then (leaveLinks s x.slot w, none, none)
          else ({ s with draws := s.draws + 1 }, none,
            some { x with wall := w, dir := (nextLink s x.slot w).1, at' := s.cyc + Config.travel s.draws })
      else if farFull s x.slot || before.any (fun y => !y.sent && y.wall == x.wall && goalOf s y.slot == goalOf s x.slot) then
        (s, some x, none)
      else ({ s with draws := s.draws + 1 }, none,
        some { x with sent := true, dir := (nextLink s x.slot x.wall).1, at' := s.cyc + Config.travel s.draws })
    let (s, kept, moved) := ((List.range l.length).zip l).foldl (fun (a : State × List LinkSlot × List LinkSlot) p =>
      let (s, k, m) := go a.1 p.1 p.2
      (s, a.2.1 ++ k.toList, a.2.2 ++ m.toList)) (s, [], [])
    s.modNet fun n => { n with links := kept ++ moved ++ n.links }

/-- The rings move on, at the start of a cycle. -/
def netShift (s : State) : State :=
  if s.net.msgs = [] then s else stepPlinth (stepLinks (s.net.live.foldl shiftRing s))

/-! ## Insertion (R296, R297) -/

/-- The slot of a queue that is ready to be inserted: the first that has no slot for the same place before it, need not cross where full
stands, and is not for another package while the arcade does not run (R298, spec/19_boundary.md R431); on a wall ring, whose slots carry
two, its companion must have come. -/
def readySlot (s : State) (r d p : Nat) : Option RSlot :=
  let q := (s.net.stop r d p).queue
  (List.range q.length).findSome? fun i => match q[i]? with
    | none => none
    | some x =>
      if (q.take i).any (fun y => y.pkg == x.pkg && y.tile == x.tile) || crossFull s r x || (x.pkg != s.mgmt.arcNum && !s.mgmt.arcUp) ||
          (decide (64 ≤ r ∧ x.k + 1 < x.n) && !q.any (fun y => y.msg == x.msg && y.k == x.k + 1)) then none
      else some x

/-- A slot, and on a wall ring its companion, leave the queue. -/
def RStop.take (k : RStop) (r : Nat) (x : RSlot) : RStop :=
  { k with queue := k.queue.filter fun y => !(y.msg == x.msg && (y.k == x.k || (decide (64 ≤ r) && y.k == x.k + 1))) }

/-- What a stop inserts when it may: its own slot or that of other traffic, the less recently granted first; and the stop afterwards. -/
def chooseSlot (s : State) (r d p : Nat) : Option (RSlot × RStop) :=
  let k := s.net.stop r d p
  match readySlot s r d p, k.other with
  | none, none => none
  | some x, none => some (x, { k.take r x with turn := false, pass := 0 })
  | none, some h => some ({ hops := h % 17 }, { k with other := none, turn := true, pass := 0 })
  | some x, some h =>
    if k.turn then some (x, { k.take r x with turn := false, pass := 0 })
    else some ({ hops := h % 17 }, { k with other := none, turn := true, pass := 0 })

/-- A stop serves its bypass latch, or gives an empty slot to a local requester, or counts the slot that passes (R296, R297); that of a
retired tile forwards what comes (spec/01_machine.md R18). -/
def serveStop (s : State) (r d p : Nat) : State :=
  if passThrough s r p then s else
  let k := s.net.stop r d p
  let (s, k) := if k.other.isSome then (s, k) else
    let k := { k with other := Config.ringOther s.draws }
    ({ s with draws := s.draws + 1 }.modStop r d p fun _ => k, k)
  if k.spliced = s.cyc + 1 then s
  else match k.latch, s.net.slot r d p with
    | some l, a => (s.setSlot r d p (some l)).modStop r d p fun k => { k with latch := a, pass := 0 }
    | none, none => match chooseSlot s r d p with
      | some (x, k) => (s.setSlot r d p (some x)).modStop r d p fun _ => k
      | none => s.modStop r d p fun k => { k with pass := 0 }
    | none, some _ => s.modStop r d p fun k => { k with pass := if (chooseSlot s r d p).isSome then k.pass + 1 else 0 }

/-- A stop splices now: 64 occupied slots have passed, its latch is empty, and another occupied slot is there (R297). -/
def spliceDue (s : State) (r d p : Nat) : Bool :=
  let k := s.net.stop r d p
  !passThrough s r p && decide (64 ≤ k.pass) && k.latch.isNone && k.spliced != s.cyc + 1 && (s.net.slot r d p).isSome && (chooseSlot s r d p).isSome

/-- A ring carries a message that is followed. -/
def ringUsed (n : Net) (rd : Nat × Nat) : Bool :=
  let own (x : Option RSlot) : Bool := match x with
    | some x => x.msg != 0
    | none => false
  (List.range 17).any fun p => own (n.slot rd.1 rd.2 p) || (n.stop rd.1 rd.2 p).queue != [] || own (n.stop rd.1 rd.2 p).latch

/-- A ring is no longer kept. -/
def restRing (s : State) (rd : Nat × Nat) : State :=
  if ringUsed s.net rd then s
  else s.modNet fun n => { n with live := n.live.filter (· != rd), slots := n.slots.filter fun x => x.1 / 17 != rd.1 * 2 + rd.2,
                                  stops := n.stops.filter fun x => x.1 / 17 != rd.1 * 2 + rd.2 }

/-- The stops of every ring are served, at the end of a cycle. -/
def netServe (s : State) : State :=
  let s := s.net.live.foldl (fun s rd => (List.range 17).foldl (fun s p => serveStop s rd.1 rd.2 p) s) s
  s.net.live.foldl restRing s

/-- The next splice of this cycle: stop and direction. -/
def nextSplice (s : State) : Option (Nat × Nat) :=
  s.net.live.findSome? fun rd => ((List.range 17).find? fun p => spliceDue s rd.1 rd.2 p).map fun p => (rd.1 * 17 + p, rd.2)

/-- RING_SPLICE: a stop that 64 occupied slots have passed while it had a slot ready sends that slot in the place of the one that
arrives, which it takes into its bypass latch (R297). -/
def execRingSplice (stop : Nat) (dir : RingDir) (s : State) : Host.Outcome State Fault Refusal :=
  let r := stop / 17
  let p := stop % 17
  let d := if dir = .cw then 0 else 1
  .next (if spliceDue s r d p then
      match chooseSlot s r d p with
      | some (x, k) => (s.setSlot r d p (some x)).modStop r d p fun _ => { k with latch := s.net.slot r d p, spliced := s.cyc + 1 }
      | none => s
    else s)

end Sys2Proof.Machine
end

