-- ==== Sys2Proof/Machine/Crossbar.lean ====
section
/-!
DEFINITION. The wall crossbars (spec/09_memory.md R229): the way of a global access through them, its injection, and what the
outputs grant in a cycle. An access that no crossbar carries, because a cache bank of its tile serves it, is past it at once.
-/
namespace Sys2Proof.Machine

/-- The crossbar port of a tile's course. -/
def coursePort (s : State) (t : Nat) : Nat := physOf s.hw t / 16 % 16

/-- The number of slice `j` among the endpoints of a crossbar: behind the 20 ports. -/
def slicePort (j : Nat) : Nat := 20 + j

/-- The ring port of a crossbar for a direction: 17 clockwise, 16 counter-clockwise (log entry 136). -/
def ringPort (d : Nat) : Nat := if d = 0 then 17 else 16

/-- The crossings from an input of wall `a` to an output of wall `b`. -/
def legsTo (h : Hw) (a inp b out : Nat) : List (Nat × Nat × Nat) :=
  if a = b then [(a, inp, out)]
  else
    let p := ringPort (wallDir h false a b)
    [(a, inp, p), (b, p, out)]

/-- The crossings from wall `w` to the plinth. -/
def legsToPlinth (h : Hw) (w inp : Nat) : List (Nat × Nat × Nat) := legsTo h w inp (spokeWall h 0 w) 18

/-- The crossings of an access of tile `t` to a physical address; `near`: the issuing wall's reserved way serves it. -/
def legsOf (s : State) (t pa : Nat) (near : Bool) : List (Nat × Nat × Nat) :=
  let w := s.wallOf t
  let inp := coursePort s t
  let slice (a : Nat) : Nat := slicePort (a / 128 % 16)
  if near then [(w, inp, slice pa)]
  else match s.place pa with
    | .hbm w' off => legsTo s.hw w inp w' (slice off)
    | .tileMem k .. | .weight k _ => legsTo s.hw w inp (s.wallOf k) (coursePort s k)
    | _ => legsToPlinth s.hw w inp

/-- A cache bank of the tile serves an access at region or tile scope: a load whose bytes it holds, or any store (R218, R226). -/
def bankServes (s : State) (t : Nat) (sc : Scope) (pa n : Nat) (nc store : Bool) : Bool :=
  !wideScope sc && s.inBanks t pa nc &&
    (store || match findLine (s.tile t).mem.lines (pa / 128) with
      | some l => l.holds (pa % 128) n
      | none => false)

/-- The issuing wall's reserved way serves an access: one of wall scope or narrower. -/
def waysServe (s : State) (t : Nat) (sc : Scope) (pa : Nat) (nc : Bool) : Bool :=
  (match sc with
   | .package | .arcade => false
   | _ => true) && s.usesWay (s.wallOf t) pa nc

/-- The crossings of a load-table entry, once it may leave the tile. -/
def loadLegs (s : State) (t : Nat) (e : LoadEnt) : Option (List (Nat × Nat × Nat)) :=
  (loadReady s t e).map fun (pa, nc) =>
    if e.rmw.isNone && bankServes s t e.scope pa e.size.bytes nc false then []
    else legsOf s t pa (waysServe s t e.scope pa nc)

/-- The crossings of a store-queue entry, once it may leave the tile. -/
def storeLegs (s : State) (t : Nat) (e : StoreEnt) : Option (List (Nat × Nat × Nat)) :=
  if !storeReady s t e then none
  else match e.kind, e.xlat with
    | .store b, .done pa nc _ =>
      some (if bankServes s t e.scope pa b.length nc true then [] else legsOf s t pa (waysServe s t e.scope pa nc))
    | _, _ => some []

/-- Where the rings take a store-queue entry: package and tile (R223, spec/10_ordering.md R242). -/
def ringGoal (s : State) (e : StoreEnt) : Option (Nat × Nat) :=
  match e.kind with
  | .mirror k .. => some (s.mgmt.arcNum, k)
  | .remote xpkg pkg k _ _ => some (if xpkg then pkg else s.mgmt.arcNum, k)
  | _ => none

/-- A message on its way to its first crossing, some cycles later. -/
def inject (s : State) (t id : Nat) (legs : List (Nat × Nat × Nat)) : State :=
  if legs = [] then s
  else { s with draws := s.draws + 1, xbar := s.xbar ++ [{ tile := t, id := id, legs := legs, at' := s.cyc + Config.travel s.draws }] }

/-- The place of an access after it has left its tile: in a crossbar, or past it. -/
def xbOf (legs : List (Nat × Nat × Nat)) : Nat := if legs = [] then 2 else 1

/-- The place of an entry of the store queue set. -/
def setXb (s : State) (t id n : Nat) : State :=
  s.modMem t fun m => { m with stores := m.stores.map fun x => if x.id = id then { x with xb := n } else x }

/-- The accesses of a tile that may leave it do: through the crossbars, or as a message on the rings. -/
def sendOut (s : State) (t : Nat) : State :=
  let s := (s.tile t).mem.loads.foldl (fun s e => if e.xb ≠ 0 then s else match loadLegs s t e with
    | none => s
    | some l => (inject s t e.id l).modMem t fun m =>
        { m with loads := m.loads.map fun x => if x.id = e.id then { x with xb := xbOf l } else x }) s
  (s.tile t).mem.stores.foldl (fun s e => if e.xb ≠ 0 then s else match storeLegs s t e, ringGoal s e with
    | none, _ => s
    | some _, some (p, k) =>
      if p = s.mgmt.arcNum ∧ k = t then setXb s t e.id 2 else setXb (injectMsg s t p k 1 (.store t e.id)) t e.id 1
    | some l, none => setXb (inject s t e.id l) t e.id (xbOf l)) s

/-- How recently an output has granted an input: those not yet granted come first, lower numbers before higher. -/
def grantRank (order : List Nat) (i : Nat) : Nat := if order.contains i then 36 + order.idxOf i else i

/-- The messages at the heads of the inputs of a wall for an output: of each input the first injected, if it lies whole in its buffer. -/
def headsFor (s : State) (w out : Nat) : List XMsg :=
  let l := s.xbar.filter fun m => match m.legs with
    | (a, _, o) :: _ => a == w && o == out
    | [] => false
  let inp (m : XMsg) : Nat := (m.legs.headD (0, 0, 0)).2.1
  (l.foldl (fun r m => if r.any fun x => inp x == inp m then r else r ++ [m]) []).filter fun m => decide (m.at' ≤ s.cyc)

/-- Traffic that is not followed and asks for an output in a cycle beside some messages: its input, which has none of them, and its flits;
a slice sends to no slice (R229; log entry 136). -/
def otherAt (s : State) (out : Nat) (heads : List XMsg) : Option (Nat × Nat) :=
  (Config.xbarOther s.draws).bind fun o =>
    let i := o.1 % 36
    if heads.any (fun m => (m.legs.headD (0, 0, 0)).2.1 == i) || decide (20 ≤ i ∧ 20 ≤ out) then none else some (i, o.2 % 8 + 1)

/-- An output is held by what it has granted from an input, for as many cycles as it has flits (R229). -/
def holdOut (s : State) (w out inp flits : Nat) : State :=
  s.modWall w fun x => { x with xfree := Tab.set x.xfree out (s.cyc + flits),
                                xorder := Tab.set x.xorder out ((Tab.get x.xorder out).filter (· != inp) ++ [inp]) }

/-- A message is granted an output; behind a ring port it travels on to its next crossing. -/
def grantMsg (s : State) (w out : Nat) (m : XMsg) : State :=
  let s := holdOut s w out (m.legs.headD (0, 0, 0)).2.1 m.flits
  let rest := m.legs.drop 1
  let m' := { m with legs := rest, last := m.legs.headD (0, 0, 0), at' := s.cyc + m.flits + if rest = [] then 0 else Config.travel s.draws }
  { s with draws := if rest = [] then s.draws else s.draws + 1,
           xbar := s.xbar.map fun x => if x.tile = m.tile ∧ x.id = m.id then m' else x }

/-- An output grants the input it granted least recently, of those with a message for it; traffic that is not followed has its turn too
(R229). -/
def grantOut (s : State) (w out : Nat) : State :=
  if s.cyc < Tab.get (s.wall w).xfree out then s
  else
    let rank (i : Nat) : Nat := grantRank (Tab.get (s.wall w).xorder out) i
    let inp (m : XMsg) : Nat := (m.legs.headD (0, 0, 0)).2.1
    let heads := headsFor s w out
    let best := heads.foldl (fun (b : Option XMsg) m => match b with
      | none => some m
      | some x => if rank (inp m) < rank (inp x) then some m else some x) none
    let other := otherAt s out heads
    let s := { s with draws := s.draws + 1 }
    match best, other with
    | none, none => s
    | some m, none => grantMsg s w out m
    | none, some o => holdOut s w out o.1 o.2
    | some m, some o => if rank (inp m) < rank o.1 then grantMsg s w out m else holdOut s w out o.1 o.2

/-- One cycle of the crossbars: accesses leave their tiles, and every output with a message for it makes its grant. -/
def crossTick (s : State) : State :=
  let s := (Tab.keys s.tiles).foldl sendOut s
  let outs := (s.xbar.filterMap fun m => m.legs.head?).map fun l => (l.1, l.2.2)
  outs.eraseDups.foldl (fun s o => grantOut s o.1 o.2) s

end Sys2Proof.Machine
end

