-- ==== Sys2Proof/Machine/BankMem.lean ====
section
/-!
DEFINITION. The banker's memory instructions, row 0x6 (spec/09_memory.md R213 to R225).
-/
namespace Sys2Proof.Machine

/-- An acquire of the banker has not written its data: no later memory instruction issues (R218). -/
def bankerHeld (s : State) (t : Nat) : Bool := (s.tile t).mem.loads.any fun e => e.who == .banker && isAcquire e.order

/-- A memory instruction of the banker, with up to two sources. -/
def runMem (f : BForm) (need : List Nat) (s : State) (body : State → Nat → Word → Word → BRes) : Host.Outcome State Fault Refusal :=
  let a := readB s s.actor f.a
  let b := readB s s.actor f.b
  .next (runBanker false f.guard f.dst (formRegs f ++ need) [a, b]
    (fun s t => if bankerHeld s t then .keep s else body s t a.v b.v) s)

/-- A form of another row that accesses memory: an earlier acquire of the banker holds it too (R218). -/
def runAccess (f : BForm) (s : State) (body : State → Nat → Word → Word → BRes) : Host.Outcome State Fault Refusal :=
  runForm f s fun s t a b => if bankerHeld s t then .keep s else body s t a b

/-- An access fault of a banker's instruction: the address in INFO (R395). -/
def accessFault (c : Nat) (a : Word) : BRes := .cause c a

/-- An issued access retires at once; a full table makes the banker wait (R216). -/
def issued (i : Issue) (s : State) (a : Word) : BRes :=
  match i with
  | .ok s' => .done s' none 1
  | .stall => .keep s
  | .fault c => accessFault c a

/-- A destination awaits a value from outside. -/
def awaitDst (s : State) (t : Nat) (d : BDst) : State :=
  match d with
  | .none => s
  | d => s.modBk t fun b => { b with ready := Tab.set b.ready (dstSlot d) pendingReg }

/-- The number of a destination register; 32 stands for none. -/
def dstNum : BDst → Nat
  | .g i => i.val
  | _ => 32

/-- A local access of the banker through the shared port (R210): it waits for the banker's own earlier accesses to the bytes, and for the
port. -/
def bankPort (s : State) (t mt off n : Nat) (load : Bool) (go : State → BRes) : BRes :=
  if localBlocked s t mt off n load then .keep s else withPort s t mt 0 .keep go

/-- Bytes that an instruction of the banker reads at a local address, in `n` accesses of the shared port; an uncorrectable error is a
precise fault (R210, R214, R217). -/
def bankRead (s : State) (t : Nat) (a : Word) (mt off n ports : Nat) (go : State → List Byte → BRes) : BRes :=
  bankPort s t mt off n true fun s =>
    if s.ue then .faultWith (eccEvent s (mtAddr t mt off)) { cause := 0x14, info := a }
    else go (usePort (eccNote s (mtAddr t mt off)) t mt 0 ports) (readMt s t mt off n)

/-- `ld`: a local load through the shared port; d is written in the next cycle (R211, R215; log entry 23). -/
def execBLd (uns : Bool) (sz : Size) (f : BForm) (s : State) : Host.Outcome State Fault Refusal :=
  runMem f [] s fun s t a b =>
    let la := a + b
    match localCheck s t la.toNat sz.bytes sz.bytes with
    | .error c => accessFault c la
    | .ok (mt, off) =>
      bankPort s t mt off sz.bytes true fun s =>
        if s.ue then .faultWith (eccEvent s (mtAddr t mt off)) { cause := 0x14, info := la }
        else .val (traceMemory (eccNote s (mtAddr t mt off)) t true 0 0 0 la.toNat) (extendLoad sz uns (leNat (readMt s t mt off sz.bytes))) 1

/-- `st`: a local store through the shared port (R211, R215). -/
def execBSt (sz : Size) (f : BForm) (s : State) : Host.Outcome State Fault Refusal :=
  runMem f [] s fun s t a b =>
    match localCheck s t a.toNat sz.bytes sz.bytes with
    | .error c => accessFault c a
    | .ok (mt, off) =>
      bankPort s t mt off sz.bytes false fun s =>
        .done (writeMt (traceMemory s t true 0 0 1 a.toNat) t mt off (leBytes sz.bytes b.toNat) none) none 1

/-- `ldg` (R216 to R218). -/
def execBLdg (m : MemMods) (f : BForm) (s : State) : Host.Outcome State Fault Refusal :=
  runMem f [] s fun s t a b =>
    let va := a + b
    let e : LoadEnt := { who := .banker, g := dstNum f.dst, va := va.toNat, size := m.size, uns := m.uns, order := m.order,
                         scope := m.scope, loc := (s.tile t).bk.pc }
    match issueLoad s t e with
    | .ok s' => .done (awaitDst (traceMemory s' t true 0 0 0 va.toNat) t f.dst) none 1
    | i => issued i s va

/-- `stg` (R216 to R218). -/
def execBStg (m : MemMods) (f : BForm) (s : State) : Host.Outcome State Fault Refusal :=
  runMem f [] s fun s t a b =>
    let e : StoreEnt := { who := .banker, va := a.toNat, order := m.order, scope := m.scope, loc := (s.tile t).bk.pc }
    match issueStore s t e (leBytes m.size.bytes b.toNat) with
    | .ok s' => .done (traceMemory s' t true 0 0 1 a.toNat) none 1
    | i => issued i s a

/-- `pf`: a fill is started; it never faults, and a poisoned source makes it do nothing (R215, R219). -/
def execBPf (lv : PfLevel) (f : BForm) (s : State) : Host.Outcome State Fault Refusal :=
  let a := readB s s.actor f.a
  let b := readB s s.actor f.b
  .next (runBanker false f.guard f.dst (formRegs f) []
    (fun s t =>
      if bankerHeld s t then .keep s
      else if a.poison || b.poison then .done s none 1
      else .done (s.modMem t fun m => { m with pfs := m.pfs ++ [{ id := m.nextId, level := lv, va := (a.v + b.v).toNat }],
                                               nextId := m.nextId + 1 }) none 1) s)

/-- The memory tile a tag instruction names, and the slot bits of its address (R214). -/
def tagCheck (s : State) (t : Nat) (a : Word) (slot : Bool) : Except Nat (Nat × Nat) :=
  let x := a.toNat
  if x / 2 ^ 20 ≠ 0 ∨ (slot ∧ fld x 8 8 ≠ 0) then .error 0x0B
  else if !(s.roleOf t (fld x 16 4)).isBuffer then .error 0x0C
  else .ok (fld x 16 4, fld x 0 8)

/-- `tlook`: all ten bits of the answer; a flag receives HIT (R221). R211 and R221 give the time of a slot's result only; the banker's comes
after one cycle (log entry 23). -/
def execBTlook (f : BForm) (s : State) : Host.Outcome State Fault Refusal :=
  runMem f [] s fun s t a b =>
    match tagCheck s t a false with
    | .error c => accessFault c a
    | .ok (mt, _) =>
      bankPort s t mt 0 0 true fun s =>
        let r := tagLook s t mt (fld b.toNat 0 48)
        let s := if bitOf r 8 then tagUse s t mt (fld r 0 8) else s
        .nat s (match f.dst with
          | .f _ => fld r 8 1
          | _ => r) 1

/-- `tset` (R221). -/
def execBTset (f : BForm) (s : State) : Host.Outcome State Fault Refusal :=
  runMem f [] s fun s t a b =>
    match tagCheck s t a true with
    | .error c => accessFault c a
    | .ok (mt, e) => bankPort s t mt 0 0 false fun s => .done (tagSet s t mt e (fld b.toNat 0 48)) none 1

/-- `tclr` (R221). -/
def execBTclr (f : BForm) (s : State) : Host.Outcome State Fault Refusal :=
  runMem f [] s fun s t a _ =>
    match tagCheck s t a true with
    | .error c => accessFault c a
    | .ok (mt, e) => bankPort s t mt 0 0 false fun s => .done (tagClear s t mt e) none 1

/-- `stmw`: the local bytes written, and the copies for the other members on their way (R223). -/
def execBStmw (m : MemMods) (f : BForm) (s : State) : Host.Outcome State Fault Refusal :=
  runMem f [] s fun s t a b =>
    let n := m.size.bytes
    match localCheck s t a.toNat n n with
    | .error c => accessFault c a
    | .ok (mt, off) =>
      match windowAt s t mt off n with
      | none => accessFault 0x15 a
      | some w =>
        let bytes := leBytes n b.toNat
        bankPort s t mt off n false fun u =>
          match issueMirror u t .banker m w off bytes (s.tile t).bk.pc with
          | .ok u => .done (writeMt (traceMemory u t true 0 0 3 a.toNat) t mt off bytes none) none 1
          | i => issued i s a

/-! ## Cache maintenance (R224, R225) -/

/-- The translation of an address as it stands, nothing installed. -/
def xlatPeek (s : State) (t va : Nat) : Option Tlb :=
  if !bitOf s.plinth.ptroot.toNat 0 then none
  else match tlbFind (s.tile t).mem.tlb va with
    | some e => some e
    | none => match tlbFind (s.wall (s.wallOf t)).tlb va with
      | some e => some e
      | none => (walk s (s.wallOf t) va).2.toOption

/-- The last address of a range, inside the virtual space. -/
def rangeEnd (a b : Nat) : Nat := min (a + b) (2 ^ 56)

/-- Physical line ranges, first and last, of the pages of a range that translate. -/
def coveredLines (s : State) (t a b : Nat) : List (Nat × Nat) :=
  let hi := rangeEnd a b
  (List.range ((hi - 1) / 65536 + 1 - a / 65536)).filterMap fun i =>
    let p := (a / 65536 + i) * 65536
    (xlatPeek s t p).map fun e => (e.map (max p a) / 128, e.map (min (p + 65535) (hi - 1)) / 128)

/-- Whether a flush or an invalidation covers a line; a length of 0 covers every line (R224). -/
def covers (s : State) (t a b : Nat) : Nat → Bool :=
  if b = 0 then fun _ => true
  else
    let l := coveredLines s t a b
    fun n => l.any fun r => decide (r.1 ≤ n) && decide (n ≤ r.2)

/-- Lines within a scope's reach written back, and invalidated where asked. -/
def flushReach (s : State) (t : Nat) (sc : Scope) (pick : Nat → Bool) (invalidate : Bool) : State :=
  let s := flushLines s t pick invalidate
  match sc with
  | .package | .arcade => (List.range 4).foldl (fun s w => flushWays s w pick invalidate) s
  | .wall => flushWays s (s.wallOf t) pick invalidate
  | _ => s

/-- `flush` (R224). -/
def execFlush (sc : Scope) (f : BForm) (s : State) : Host.Outcome State Fault Refusal :=
  runMem f [] s fun s t a b => .done (flushReach s t sc (covers s t a.toNat b.toNat) false) none 1

/-- A TLB entry maps an address of a range; a length of 0 covers every entry (R225). -/
def tlbCovered (a b : Nat) (e : Tlb) : Bool :=
  b == 0 || (decide (e.vpn * 2 ^ e.bits < rangeEnd a b) && decide (a < (e.vpn + 1) * 2 ^ e.bits))

/-- Tiles a TLB invalidation reaches. -/
def reachTiles (s : State) (t : Nat) : Scope → List Nat
  | .wall => (Tab.keys s.tiles).filter fun k => s.wallOf k == s.wallOf t
  | .package | .arcade => Tab.keys s.tiles
  | _ => [t]

/-- Walls a TLB invalidation reaches. -/
def reachWalls (s : State) (t : Nat) : Scope → List Nat
  | .wall => [s.wallOf t]
  | .package | .arcade => List.range 4
  | _ => []

/-- TLB entries within reach invalidated (R225). -/
def dropXlat (s : State) (t : Nat) (sc : Scope) (a b : Nat) : State :=
  let s := (reachTiles s t sc).foldl (fun s k => s.modMem k fun m => { m with tlb := m.tlb.filter fun e => !tlbCovered a b e }) s
  (reachWalls s t sc).foldl (fun s w => s.modWall w fun x => { x with tlb := x.tlb.filter fun e => !tlbCovered a b e }) s

/-- An access of a tile waits on a walk. -/
def tileWalking (s : State) (t : Nat) : Bool :=
  let m := (s.tile t).mem
  let w (x : Xlat) : Bool := match x with
    | .walking _ => true
    | _ => false
  m.loads.any (fun e => w e.xlat) || m.stores.any (fun e => w e.xlat)

/-- A walk within a scope's reach is in progress (R225). -/
def walking (s : State) (t : Nat) (sc : Scope) : Bool :=
  match sc with
  | .wall | .package | .arcade => (reachWalls s t sc).any fun w => (s.wall w).walks != []
  | _ => tileWalking s t

/-- `inval` (R225): for translations it waits for the walks within its reach. -/
def execInval (k : InvKind) (sc : Scope) (f : BForm) (s : State) : Host.Outcome State Fault Refusal :=
  runMem f [] s fun s t a b =>
    let lines (s : State) : State := flushReach s t sc (covers s t a.toNat b.toNat) true
    match k with
    | .dat => .done (lines s) none 1
    | .xl => if walking s t sc then .keep s else .done (dropXlat s t sc a.toNat b.toNat) none 1
    | .all => if walking s t sc then .keep s else .done (dropXlat (lines s) t sc a.toNat b.toNat) none 1

end Sys2Proof.Machine
end

