-- ==== Sys2Proof/Machine/Control.lean ====
section
/-!
DEFINITION. The banker's control instructions, row 0x4 (spec/07_control.md R160 to R167), and the fetch of a banker's word
(R167, spec/02_words.md R59, spec/18_system.md R410).
-/
namespace Sys2Proof.Machine

/-! ## Fetching -/

/-- A word read from memory for the fetch cache: a package-scope load from an executable page (spec/18_system.md R410,
spec/09_memory.md R233). -/
def fetchMemory (s : State) (t : Nat) (pc : Word) : Except TrapInfo (State × Nat) :=
  if 2 ^ 56 ≤ pc.toNat then .error { cause := 0x0E, info := pc }
  else match xlatNow s t pc.toNat with
    | .error c => .error { cause := c, info := pc }
    | .ok (s, e) =>
      if !e.x then .error { cause := 0x12, info := pc }
      else match homeFault s (e.map pc.toNat) with
        | some c => .error { cause := c, info := pc }
        | none => if s.ue then .error { cause := 0x14, info := pc } else
          let pa := e.map pc.toNat
          let (s, b) := perfLoad (holdHome (eccNote s pa) pa) t .package pa 8 e.nc
          .ok (s, leNat b)

/-- A word put into the fetch cache; which of 512 words gives way is not stated (log entry 9). -/
def fillFetch (s : State) (t : Nat) (pc : Word) (w : Nat) : State :=
  let c := (s.tile t).bk.fcache
  if c.length < 512 then s.modBk t fun b => { b with fcache := b.fcache ++ [(pc.toNat, w)] }
  else { s with draws := s.draws + 1 }.modBk t fun b =>
    { b with fcache := b.fcache.eraseIdx (Config.fetchVictim s.draws % 512) ++ [(pc.toNat, w)] }

/-- The word at the pc: from the loop buffer, the fetch cache or memory (R167, R410); a pc that is no multiple of 8 faults
BAD_TARGET and nothing is read (R59). -/
def fetchWord (s : State) (t : Nat) (pc : Word) : Except TrapInfo (State × Nat) :=
  let b := (s.tile t).bk
  if pc.toNat % 8 ≠ 0 then .error { cause := 0x18, info := pc }
  else if b.inBuffer pc then .ok (s, (Tab.get b.lb ((pc.toNat - b.lbbase.toNat) / 8)).toNat)
  else match b.fcache.find? (fun p => p.1 == pc.toNat) with
    | some (_, w) => .ok (s, w)
    | none => match fetchMemory s t pc with
      | .error e => .error e
      | .ok (s, w) => .ok (fillFetch s t pc w, w)

/-- The fetch of a word waits for the walk of its page, or for the port of the memory tile it lies in (spec/09_memory.md R210, R234). -/
def fetchWaits (s : State) (t : Nat) (pc : Word) : Bool :=
  let b := (s.tile t).bk
  !b.inBuffer pc && !b.fcache.any (fun p => p.1 == pc.toNat) && decide (pc.toNat % 8 = 0 ∧ pc.toNat < 2 ^ 56) && !areaFree s t 0 pc.toNat 8

/-- A fault of a fetch: an uncorrectable error is reported as well (spec/19_boundary.md R428). -/
def fetchFault (s : State) (t : Nat) (tr : TrapInfo) (pc : Word) : State :=
  preciseFault (reportUe s t (tr.cause, pc.toNat)) t tr pc

/-! ## Transfers (R161) -/

/-- A taken transfer or a return is recorded when TRACECTL.EBR is set (spec/18_system.md R413). -/
def transferTrace (s : State) (t : Nat) (ret : Bool) (target : Word) : State :=
  if target.toNat % 8 ≠ 0 then s
  else traceEvent s t none (s.traceBit t 15) 0 (traceEntry s.cyc (b2n ret) true 0 0 target.toNat)

/-- The pc of the acting banker. -/
def State.pc (s : State) : Word := (s.tile s.actor).bk.pc

/-- The target of a displacement in words. -/
def dispTarget (pc : Word) (imm : BitVec 24) : Word := pc + imm.signExtend 64 * 8

/-- A transfer to a target, with the link where it has one. -/
def goTo (s : State) (t : Nat) (ret : Bool) (target : Word) (link : Option Word) : BRes :=
  .go (transferTrace s t ret target) target link

/-- `br` (R161). -/
def execBr (w : BWide) (s : State) : Host.Outcome State Fault Refusal :=
  .next (runBanker true w.guard w.dst [] [] (fun s t => goTo s t false (dispTarget s.pc w.imm) none) s)

/-- `brr` (R161). -/
def execBrr (f : BForm) (s : State) : Host.Outcome State Fault Refusal :=
  let a := readB s s.actor f.a
  .next (runBanker true f.guard f.dst (formRegs f) [a] (fun s t => goTo s t false a.v none) s)

/-- `call` (R161). -/
def execCall (w : BWide) (s : State) : Host.Outcome State Fault Refusal :=
  .next (runBanker true w.guard w.dst [] [] (fun s t => goTo s t false (dispTarget s.pc w.imm) (some (s.pc + 8))) s)

/-- `callr`: A is read before d is written (R161). -/
def execCallr (f : BForm) (s : State) : Host.Outcome State Fault Refusal :=
  let a := readB s s.actor f.a
  .next (runBanker true f.guard f.dst (formRegs f) [a] (fun s t => goTo s t false a.v (some (s.pc + 8))) s)

/-- `ret` (R161). -/
def execRet (f : BForm) (s : State) : Host.Outcome State Fault Refusal :=
  let a := readB s s.actor f.a
  .next (runBanker true f.guard f.dst (formRegs f) [a] (fun s t => goTo s t true a.v none) s)

/-- `jtab`: the index is clamped to B (R161). -/
def execJtab (f : BForm) (s : State) : Host.Outcome State Fault Refusal :=
  let a := readB s s.actor f.a
  let b := readB s s.actor f.b
  .next (runBanker true f.guard f.dst (formRegs f) [a, b]
    (fun s t => goTo s t false (s.pc + 8 + (if a.v.toNat < b.v.toNat then a.v else b.v) * 8) none) s)

/-! ## Hardware loops (R164) -/

/-- A loop level opened: counter, start, end and active bit; a count of 0 skips the body (R164), and the word behind it issues as after a
taken transfer (log entry 149). -/
def openLoop (s : State) (t n cnt len : Nat) : BRes :=
  if len = 0 ∨ 256 < len then .cause 0x19 (BitVec.ofNat 64 len)
  else
    let pc := (s.tile t).bk.pc
    let last := pc + BitVec.ofNat 64 (8 * len)
    let s := s.modRegs t fun r =>
      { r with lc := Tab.set r.lc n cnt, start := Tab.set r.start n (pc + 8), stop := Tab.set r.stop n last,
               active := Tab.set r.active n (cnt != 0) }
    let s := s.modBk t fun b => { b with ready := Tab.set b.ready (40 + n) (s.cyc + 1) }
    .keep (retire s t true (if cnt = 0 then some (last + 8) else none))

/-- The loop level a destination names. -/
def dstLevel : BDst → Nat
  | .lc i => i.val
  | _ => 0

/-- `loop` (R164). -/
def execLoop (f : BForm) (s : State) : Host.Outcome State Fault Refusal :=
  let a := readB s s.actor f.a
  let b := readB s s.actor f.b
  .next (runBanker true f.guard f.dst (formRegs f) [a, b]
    (fun s t => openLoop s t (dstLevel f.dst) (fld a.v.toNat 0 32) b.v.toNat) s)

/-- `loopi` (R164). -/
def execLoopi (w : BWide) (s : State) : Host.Outcome State Fault Refusal :=
  .next (runBanker true w.guard w.dst [] []
    (fun s t => openLoop s t (dstLevel w.dst) (fld w.imm.toNat 8 16) (fld w.imm.toNat 0 8 + 1)) s)

/-! ## The loop buffer (R167) -/

/-- Words copied from memory by translated reads, or the first failure. -/
def copyWords (t : Nat) : Nat → State → Nat → Except TrapInfo (State × List Word)
  | 0, s, _ => .ok (s, [])
  | n + 1, s, a =>
    match vRead s t (a % 2 ^ 64) 8 with
    | .error (c, x) => .error { cause := c, info := BitVec.ofNat 64 x }
    | .ok (s, b) => match copyWords t n s (a + 8) with
      | .error e => .error e
      | .ok (s, ws) => .ok (s, BitVec.ofNat 64 (leNat b) :: ws)

/-- A banker still has accesses that have not completed. -/
def bankerBusy (s : State) (t : Nat) : Bool :=
  let m := (s.tile t).mem
  m.loads.any (fun e => e.who == .banker) || m.stores.any (fun e => e.who == .banker)

/-- The loop buffer loaded, or emptied (R167). The words are read after the banker's earlier accesses (log entry 22). -/
def loadBuffer (s : State) (t : Nat) (a b : Nat) (run : Bool) : BRes :=
  let n := min b 256
  if a % 8 ≠ 0 then .cause 0x18 (BitVec.ofNat 64 a)
  else if bankerBusy s t then .keep s
  else if n != 0 && !areaFree s t 0 (a % 2 ^ 64) (8 * n) then .keep (askArea s t 0 (a % 2 ^ 64) (8 * n))
  else
    let off := s.modBk t fun k => { k with lbvalid := false }
    match copyWords t n off a with
    | .error tr => .faultWith off tr
    | .ok (s', ws) =>
      let s' := s'.modBk t fun k =>
        { k with lb := tabOf n fun i => ws.getD i 0, lbbase := BitVec.ofNat 64 a, lblen := n, lbvalid := decide (0 < n),
                 nextIssue := s.cyc + 2 + n }
      if run then .go s' (BitVec.ofNat 64 a) none else .done s' none 1

/-- `lbload` (R167). -/
def execLbload (f : BForm) (s : State) : Host.Outcome State Fault Refusal :=
  let a := readB s s.actor f.a
  let b := readB s s.actor f.b
  .next (runBanker true f.guard f.dst (formRegs f) [a, b] (fun s t => loadBuffer s t a.v.toNat b.v.toNat false) s)

/-- `lbrun` (R167). -/
def execLbrun (f : BForm) (s : State) : Host.Outcome State Fault Refusal :=
  let a := readB s s.actor f.a
  let b := readB s s.actor f.b
  .next (runBanker true f.guard f.dst (formRegs f) [a, b] (fun s t => loadBuffer s t a.v.toNat b.v.toNat true) s)

end Sys2Proof.Machine
end

