-- ==== Sys2Proof/Machine/Sync.lean ====
section
/-!
DEFINITION. The banker's atomics and synchronisation instructions, row 0x7 (spec/10_ordering.md R236 to R248).
-/
namespace Sys2Proof.Machine

/-- A read-modify-write on a memory tile, performed now: the state and what d receives (R238, R239). -/
def localRmw (s : State) (t mt off : Nat) (sz : Size) (m : Rmw) (who : Option (CopyRef × Nat)) : State × Word :=
  let (new, d) := rmwResult m sz (leNat (readNow s t mt off sz.bytes))
  (match new with
   | some v => writeMt s t mt off (leBytes sz.bytes v) who
   | none => s, d)

/-- An atomic of the banker: at region or tile scope through the shared port, with d in the next cycle; at wider scope through
the load table (R238). `acas` compares with d as it stands. -/
def runAtomic (op : AtomicOp) (m : MemMods) (f : BForm) (s : State) : Host.Outcome State Fault Refusal :=
  let need := if op = .acas then [dstSlot f.dst] else []
  let old : PReg := match op, f.dst with
    | .acas, .g i => Tab.get (s.tile s.actor).bk.r.g i.val
    | _, _ => {}
  let a := readB s s.actor f.a
  let b := readB s s.actor f.b
  .next (runBanker false f.guard f.dst (formRegs f ++ need) [a, b, old]
    (fun s t =>
      let r : Rmw := { op := op, uns := m.uns, b := b.v, e := old.v }
      if bankerHeld s t then .keep s
      else if wideScope m.scope then
        let e : LoadEnt := { who := .banker, g := dstNum f.dst, va := a.v.toNat, size := m.size, uns := m.uns, order := m.order,
                             scope := m.scope, rmw := some r, loc := (s.tile t).bk.pc }
        match issueLoad s t e with
        | .ok s' => .done (awaitDst (traceMemory s' t true 0 0 2 a.v.toNat) t f.dst) none 1
        | i => issued i s a.v
      else match localCheck s t a.v.toNat m.size.bytes m.size.bytes with
        | .error c => accessFault c a.v
        | .ok (mt, off) =>
          if isRelease m.order && outstandingStores (s.tile t).mem .banker != [] then .keep s
          else bankPort s t mt off m.size.bytes false fun s =>
            if s.ue then .faultWith (eccEvent s (mtAddr t mt off)) { cause := 0x14, info := a.v }
            else
              let s := if isAcquire m.order then acquirePoint s t .banker else s
              let (s, d) := localRmw (traceMemory (eccNote s (mtAddr t mt off)) t true 0 0 2 a.v.toNat) t mt off m.size r none
              .val s d 1) s)

/-- `aadd` (R239). -/
def execBAadd (m : MemMods) (f : BForm) (s : State) : Host.Outcome State Fault Refusal := runAtomic .aadd m f s
/-- `aand` (R239). -/
def execBAand (m : MemMods) (f : BForm) (s : State) : Host.Outcome State Fault Refusal := runAtomic .aand m f s
/-- `aor` (R239). -/
def execBAor (m : MemMods) (f : BForm) (s : State) : Host.Outcome State Fault Refusal := runAtomic .aor m f s
/-- `axor` (R239). -/
def execBAxor (m : MemMods) (f : BForm) (s : State) : Host.Outcome State Fault Refusal := runAtomic .axor m f s
/-- `amin` (R239). -/
def execBAmin (m : MemMods) (f : BForm) (s : State) : Host.Outcome State Fault Refusal := runAtomic .amin m f s
/-- `amax` (R239). -/
def execBAmax (m : MemMods) (f : BForm) (s : State) : Host.Outcome State Fault Refusal := runAtomic .amax m f s
/-- `axchg` (R239). -/
def execBAxchg (m : MemMods) (f : BForm) (s : State) : Host.Outcome State Fault Refusal := runAtomic .axchg m f s
/-- `acas` (R239). -/
def execBAcas (m : MemMods) (f : BForm) (s : State) : Host.Outcome State Fault Refusal := runAtomic .acas m f s
/-- `afadd` (R239). -/
def execBAfadd (m : MemMods) (f : BForm) (s : State) : Host.Outcome State Fault Refusal := runAtomic .afadd m f s

/-- The banker's loads and atomics, or its stores, are all over (R244). -/
def bankerLoadsDone (s : State) (t : Nat) : Bool := !((s.tile t).mem.loads.any fun e => e.who == .banker)

/-- `fence`: the banker stalls until the condition of its order is met (R244). -/
def execBFence (o : Order) (_sc : Scope) (g : Guard) (s : State) : Host.Outcome State Fault Refusal :=
  .next (runBanker false g .none [] []
    (fun s t => if (if o = .acquire then !bankerLoadsDone s t else bankerBusy s t) then .keep s
      else .done (if isAcquire o then fencePoint s t .banker else s) none 1) s)

/-- `sig` (R241): plain at t+1; a release through the store queue. -/
def execBSig (rel : Bool) (sc : Scope) (f : BForm) (s : State) : Host.Outcome State Fault Refusal :=
  runMem f [] s fun s t a b =>
    if a.toNat / 256 ≠ 0 then .cause 0x16 a
    else
      let n := fld b.toNat 0 32
      if rel then
        issued (issueOther s t { who := .banker, va := a.toNat, order := .release, scope := sc, kind := .sem a.toNat n,
                                 loc := (s.tile t).bk.pc }) s a
      else .done (semRaise s t a.toNat n) none 1

/-- The smallest scope that contains a tile and a target (R242). -/
def targetScope (s : State) (t : Nat) (xpkg : Bool) (target : Nat) : Nat :=
  if xpkg then 4 else if target = t then 1 else if s.wallOf target = s.wallOf t then 2 else 3

/-- The fields of a semaphore address: package, other package, tile, semaphore (R242). -/
def semAddr (a : Nat) : Nat × Bool × Nat × Nat := (fld a 19 8, bitOf a 18, fld a 8 10, fld a 0 8)

/-- The fault of a remote increment, if any (R242). -/
def sigrFault (s : State) (t : Nat) (sc : Scope) (a : Nat) : Option Nat :=
  let (pkg, xpkg, tile, _) := semAddr a
  if a / 2 ^ 27 ≠ 0 then some 0x16
  else if xpkg && s.refusesPackage pkg then some 0x16
  else if !xpkg && !s.tileOk tile then some 0x1A
  else if sc.code < targetScope s t xpkg tile then some 0x16
  else none

/-- `sigr` (R242): the increment travels from the store queue, counted as four bytes. -/
def execSigr (rel : Bool) (sc : Scope) (f : BForm) (s : State) : Host.Outcome State Fault Refusal :=
  runMem f [] s fun s t a b =>
    match sigrFault s t sc a.toNat with
    | some c => .cause c a
    | none =>
      let (pkg, xpkg, tile, sem) := semAddr a.toNat
      issued (issueOther s t { who := .banker, va := a.toNat, order := if rel then .release else .plain, scope := sc, pend := 4,
                               kind := .remote xpkg pkg tile sem (fld b.toNat 0 32), loc := (s.tile t).bk.pc }) s a

/-- A test of a semaphore succeeds: a take is subtracted when the cycle's tests are over (R240). -/
def passTest (s : State) (t sem thr : Nat) (take : Bool) : State :=
  if take then addDue s { at' := s.cyc + 1, act := .semTake t sem thr } else s

/-- A `wait` passes: an acquire of its own, or one that a later fence makes of it (R243). -/
def waitPoint (s : State) (t : Nat) (acq : Bool) : State := if acq then acquirePoint s t .banker else noteSeen s t .banker

/-- `wait`: the test may pass at once; otherwise the banker stalls (R243). -/
def execWait (take acq : Bool) (_sc : Scope) (f : BForm) (s : State) : Host.Outcome State Fault Refusal :=
  runMem f [] s fun s t a b =>
    if a.toNat / 256 ≠ 0 then .cause 0x16 a
    else
      let thr := fld b.toNat 0 32
      let v := s.semOf t a.toNat
      if thr ≤ v then .nat (passTest (waitPoint s t acq) t a.toNat thr take) v 1
      else .keep (s.modBk t fun k => { k with stall := .wait a.toNat thr take acq f.dst })

/-- A superstep barrier. -/
def State.sbarOf (s : State) (i : Nat) : Sbar := Tab.get s.plinth.sbar i

/-- The release of a barrier has come for the step in which the tile arrived: the EPOCH that the step ended with (R247, R248). -/
def sbarReleased (s : State) (t bar : Nat) : Option Nat :=
  let r := Tab.get (s.tile t).bk.released bar
  if r ≠ 0 then some (r - 1) else none

/-- `sbar`: the tile arrives once in an epoch and the banker waits for the release (R247, R248). -/
def execSbar (f : BForm) (s : State) : Host.Outcome State Fault Refusal :=
  runMem f [] s fun s t a _ =>
    if a.toNat / 16 ≠ 0 ∨ !(s.sbarOf a.toNat).en then .cause 0x17 a
    else
      let bar := a.toNat
      match sbarReleased s t bar with
      | some e => .nat (acquirePoint (s.modBk t fun b => { b with released := Tab.set b.released bar 0 }) t .banker) e 1
      | none => .keep (s.modBk t fun b =>
          { b with stall := .sbar bar f.dst,
                   arrived := if (Tab.get b.arrived bar).1 = 0 then Tab.set b.arrived bar ((s.sbarOf bar).epoch + 1, false) else b.arrived })

/-! ## The events that end these stalls -/

/-- The stalled banker writes its destination and goes on. -/
def unstall (s : State) (t : Nat) (d : BDst) (v : Nat) : State :=
  retire (writeB s t d { v := BitVec.ofNat 64 v } (s.cyc + 1)) t false none

/-- The test of a stalled `wait` succeeds (R240, R243). -/
def execWaitPass (t : Nat) (s : State) : Host.Outcome State Fault Refusal :=
  .next (match (s.tile t).bk.stall with
    | .wait sem thr take acq d =>
      if thr ≤ s.semOf t sem then
        unstall (passTest (waitPoint s t acq) t sem thr take) t d (s.semOf t sem)
      else s
    | _ => s)

/-- The lowest barrier whose arrival the tile has recorded and not sent. -/
def unsentBar (s : State) (t : Nat) : Option Nat :=
  (List.range 16).find? fun i => let x := Tab.get (s.tile t).bk.arrived i; x.1 != 0 && !x.2

/-- The arrival of a tile may be sent: TILE.SBPEND is 0, and as a release at package scope it comes after the banker's loads and its
stores of narrower scope too (R247, R254). -/
def arrivalReady (s : State) (t : Nat) : Bool :=
  (s.tile t).mem.sbpend == 0 && outstanding (s.tile t).mem .banker == []

/-- The tile sends its arrival in the first cycle in which it may (R247). -/
def execSbarArrival (t : Nat) (s : State) : Host.Outcome State Fault Refusal :=
  .next (match unsentBar s t with
    | some i =>
      if arrivalReady s t then
        (s.modBk t fun b => { b with arrived := Tab.modify b.arrived i fun x => (x.1, true) }).modPlinth fun p =>
          { p with sbar := Tab.modify p.sbar i fun x => { x with queue := x.queue ++ [t] } }
      else s
    | none => s)

/-- The root counts the oldest arrival; at COUNT the step ends and every tile that arrived is released (R247). -/
def execBarrierRootArrival (i : Fin 16) (s : State) : Host.Outcome State Fault Refusal :=
  let x := s.sbarOf i.val
  .next (match x.queue with
    | [] => s
    | t :: rest =>
      if x.arr + 1 < x.count then
        s.modPlinth fun p => { p with sbar := Tab.set p.sbar i.val { x with arr := x.arr + 1, queue := rest, tiles := x.tiles ++ [t] } }
      else
        let e := (x.epoch + 1) % 2 ^ 32
        let s := s.modPlinth fun p => { p with sbar := Tab.set p.sbar i.val { x with arr := 0, epoch := e, queue := rest, tiles := [] } }
        (x.tiles ++ [t]).foldl (fun s t => s.modBk t fun b =>
          { b with arrived := Tab.set b.arrived i.val (0, false), released := Tab.set b.released i.val (e + 1) }) s)

/-- A released banker resumes with the new EPOCH (R247). -/
def execSbarResume (t : Nat) (s : State) : Host.Outcome State Fault Refusal :=
  .next (match (s.tile t).bk.stall with
    | .sbar i d =>
      let r := Tab.get (s.tile t).bk.released i
      if r = 0 then s
      else unstall (acquirePoint (s.modBk t fun b => { b with released := Tab.set b.released i 0 }) t .banker) t d (r - 1)
    | _ => s)

/-! ## Completions of global accesses -/

/-- The data of a global load returns (R216, R217). -/
def execLoadDataReturn (t id : Nat) (ecc : Bool) (s : State) : Host.Outcome State Fault Refusal :=
  .next (match (s.tile t).mem.loads.find? (fun e => e.id == id && e.rmw.isNone) with
    | some e => finishLoad s t e ecc
    | none => s)

/-- The reply of a global atomic returns (R238). -/
def execAtomicReply (t id : Nat) (ecc : Bool) (s : State) : Host.Outcome State Fault Refusal :=
  .next (match (s.tile t).mem.loads.find? (fun e => e.id == id && e.rmw.isSome) with
    | some e => finishLoad s t e ecc
    | none => s)

/-- A store of another package arrives: translated here and performed at the home; the answer says which fault it met
(spec/12_engines.md R281, R285). -/
def arcadeStore (s : State) (pkg id va : Nat) (bytes : List Byte) : State :=
  match vWrite s 0 va bytes with
  | (s, none) => plinthArc s pkg (.ack id 0)
  | (s, some (c, _)) => plinthArc s pkg (.ack id c)

/-- A write or token that a copy engine sent to another package has been answered. -/
def remoteDone (s : State) (t id : Nat) : State :=
  let n := ((Tab.get (s.tile t).chains 0).remote.find? (·.1 == id)).map (·.2.1)
  (s.modMem t fun m => { m with sbpend := m.sbpend - n.getD 0 }).modChain t 0 fun x =>
    { x with remote := x.remote.filter (·.1 != id) }

/-- A mirrored copy arrives at a member: it is written through the shared port, or dropped and counted, and acknowledged either way
(R223). -/
def mirrorArrive (s : State) (k gid off : Nat) (bytes : List Byte) (after : State → State) : State :=
  let drop : State := after (s.modMem k fun m => { m with mwdrop := satAdd32 m.mwdrop 1 })
  match windowOf s k gid with
  | some w =>
    if off + bytes.length ≤ mwLen w && s.isOwned k (mwMt w) then
      withPort s k (mwMt w) 4 id fun s => after (writeMt s k (mwMt w) (mwBase w + off) bytes none)
    else drop
  | none => drop

/-- A store entry is a copy for a member. -/
def StoreEnt.isFor (e : StoreEnt) (k : Nat) : Bool :=
  match e.kind with
  | .mirror m .. => m == k
  | _ => false

/-- The members that the copies of an `stmw` are for when it leaves its ring stop (R223). -/
def fanMembers (s : State) (t gid : Nat) : List Nat := (groupMembers s gid).filter (· != t)

/-- There is room for the copies of an `stmw` whose group has grown since its issue, in the store queue and in TILE.SBPEND; one that finds
none waits at its ring stop (spec/10_ordering.md R245, R216). -/
def fanRoom (s : State) (t : Nat) (e : StoreEnt) : Bool :=
  match e.kind with
  | .fan gid _ bytes k =>
    let m := (s.tile t).mem
    let n := (fanMembers s t gid).length
    decide (n ≤ k) || (decide (storesUsed m - k + n ≤ 64) &&
      decide (m.sbpend - e.pend + (if wideScope e.scope then bytes.length else 0) * n < 2 ^ 32))
  | _ => true

/-- An `stmw` leaves its ring stop: its copies are for the members of this cycle, and stand in its place for what comes after it (R223,
R218). -/
def leaveStop (s : State) (t : Nat) (e : StoreEnt) : State :=
  match e.kind with
  | .fan gid off bytes _ =>
    let ks := fanMembers s t gid
    let n := if wideScope e.scope then bytes.length else 0
    let s := s.modMem t fun m => { m with stores := m.stores.filter (·.id != e.id), sbpend := m.sbpend - e.pend + n * ks.length }
    if ks = [] then accessOver s t e.seq
    else ks.foldl (fun s k => s.modMem t fun m =>
      { m with stores := m.stores ++ [{ e with id := m.nextId, kind := .mirror k gid off bytes, pend := n, cycle := s.cyc }],
               nextId := m.nextId + 1 }) s
  | _ => s

/-- The oldest `stmw` of a tile that has not left its ring stop. -/
def oldestFan (s : State) (t : Nat) : Option StoreEnt :=
  (s.tile t).mem.stores.find? fun e => match e.kind with
    | .fan .. => true
    | _ => false

/-- The oldest `stmw` of a tile leaves the ring stop, if it may; the oldest copy for a member arrives. With the tile itself for the
member nothing arrives (R223). -/
def execStmwArrival (src member : Nat) (s : State) : Host.Outcome State Fault Refusal :=
  let s := match oldestFan s src with
    | some e => if released s src e.cycle e.after && fanRoom s src e then leaveStop s src e else s
    | none => s
  .next (match (s.tile src).mem.stores.find? (·.isFor member) with
    | some e => match e.kind with
      | .mirror k gid off bytes =>
        if storeReady s src e && crossed s src e.id e.xb then mirrorArrive s k gid off bytes (fun s => dropStore s src e) else s
      | _ => s
    | none => s)

/-- A remote increment goes to the same semaphore as another. -/
def sameSem (a b : StoreKind) : Bool :=
  match a, b with
  | .remote x p t i _, .remote y q u j _ => x == y && p == q && t == u && i == j
  | _, _ => false

/-- An increment from another package: counted in SIGDROP when its tile is not assigned here (R242). -/
def arcadeSig (s : State) (tile sem n : Nat) : State :=
  if s.tileOk tile then semRaise s tile sem n else s.modPlinth fun p => { p with sigdrop := satAdd32 p.sigdrop 1 }

/-- What a finished walk gives an access that waits on it. -/
def walked (r : Except Nat Tlb) (va : Nat) (write : Bool) : Xlat :=
  match r with
  | .error c => .failed c
  | .ok e => if write && !e.w then .failed 0x11 else .done (e.map va) e.nc e.w

/-- The cause of a failed translation. -/
def Xlat.cause? : Xlat → Option Nat
  | .failed c => some c
  | _ => none

/-- The accesses of a tile that wait on a page's walk take its result; those it fails fault (R217, R233). -/
def wakeWalk (s : State) (page : Nat) (r : Except Nat Tlb) (t : Nat) : State :=
  let m := (s.tile t).mem
  let ls := m.loads.filter (·.xlat == .walking page)
  let ss := m.stores.filter (·.xlat == .walking page)
  if ls = [] ∧ ss = [] then s
  else
    let s := match r with
      | .ok e => tlbTouch s t e
      | .error _ => s
    let s := s.modMem t fun m =>
      { m with loads := m.loads.map fun e => if e.xlat == .walking page then { e with xlat := walked r e.va e.rmw.isSome } else e
               stores := m.stores.map fun e => if e.xlat == .walking page then { e with xlat := walked r e.va true } else e }
    let s := ls.foldl (fun s e => match (walked r e.va e.rmw.isSome).cause? with
      | some c => faultLoad s t e c
      | none => s) s
    ss.foldl (fun s e => match (walked r e.va true).cause? with
      | some c => faultStore s t e c
      | none => s) s

/-- A walk is over: its translation is installed, or it fails and installs nothing, and all that wait for it learn so. Of the walks that
are to be made, in order of arrival, the first 16 have a walker (R233, R234). -/
def execPageWalkComplete (w page : Nat) (ecc : Bool) (s : State) : Host.Outcome State Fault Refusal :=
  .next (if ((s.wall w).walks.take 16).any (·.page == page) then
      let (s, r) := if ecc then walkStruck s w (page * 65536) else walk s w (page * 65536)
      let s := s.modWall w fun x => { x with walks := x.walks.filter (·.page != page) }
      let s := match r with
        | .ok e => wallTlbPut s w e
        | .error _ => s
      ((Tab.keys s.tiles).filter fun t => s.wallOf t == w).foldl (fun s t =>
        tellAsked (wakeWalk s page r t) t page ecc r.toBool) s
    else s)

/-- A prefetch comes to its end: a line in a cache bank or a reserved way, or a translation; any failure drops it (R219). It waits for its
walk (R234). -/
def execPfFillComplete (t id : Nat) (ecc : Bool) (s : State) : Host.Outcome State Fault Refusal :=
  .next (match (s.tile t).mem.pfs.find? (·.id == id) with
    | none => s
    | some e =>
      if !xlatFree s t 6 e.va then askWalk s t 6 e.va else
      let s := forgetAsked (s.modMem t fun m => { m with pfs := m.pfs.filter (·.id != id) }) t fun k => k == askKey 6 e.va
      if 2 ^ 56 ≤ e.va then s
      else match xlatNow s t e.va with
        | .error _ => s
        | .ok (s', x) =>
          let pa := x.map e.va
          if e.level = .xl then s'
          else if (homeFault s' pa).isSome then s
          else match e.level with
            | .xl => s'
            | .cb => if ecc then eccEvent s' pa else if s'.inBanks t pa x.nc then (perfLoad s' t .tile (pa / 128 * 128) 128 x.nc).1 else s'
            | .sl => if ecc then eccEvent s' pa else (wallRead s' (s'.wallOf t) (pa / 128 * 128) 128 x.nc).1)

end Sys2Proof.Machine
end

