-- ==== Sys2Proof/Machine/Engines.lean ====
section
/-!
DEFINITION. Command chains and the banker's row 0x8 (spec/12_engines.md R277 to R284), and the frame every command of an
engine runs in (R280, R281, spec/02_words.md R61, R62, R71).
-/
namespace Sys2Proof.Machine

/-! ## Chains (R278, R279) -/

/-- A chain of a tile. -/
def State.chain (s : State) (t c : Nat) : Chain := Tab.get (s.tile t).chains c

/-- Records appended and not yet completed. -/
def Chain.occupancy (x : Chain) : Nat := (x.issued + 2 ^ 32 - x.done) % 2 ^ 32

/-- Byte offset of the slot of record `n` (R279). -/
def Chain.slotOff (x : Chain) (n : Nat) : Nat := x.base + 32 * ((n + 2 ^ 32 - 1) % 2 ^ 32 % 2 ^ x.sz)

/-- The sequence number of the head command. -/
def Chain.head (x : Chain) : Nat := (x.done + 1) % 2 ^ 32

/-- Every slot of the chain is taken. -/
def Chain.full (x : Chain) : Bool := decide (2 ^ x.sz ≤ x.occupancy)

/-! ## Appending (R282, R283) -/

/-- The registers of a record operand. -/
def recordRegs (a : BSrc) : List Nat :=
  match a with
  | .g i => (List.range 4).map (i.val + ·)
  | _ => []

/-- The values of a record operand's registers. -/
def recordVals (s : State) (t : Nat) (a : BSrc) : List PReg := (recordRegs a).map fun i => Tab.get (s.tile t).bk.r.g i

/-- The 256-bit record in some registers. -/
def recordOf (l : List PReg) : Nat := leNat (wordsBytes (l.map (·.v.toNat)))

/-- A record appended to a chain: its slot written and ISSUED advanced in one cycle (R283). -/
def appendRecord (s : State) (t c rec : Nat) : State :=
  let x := s.chain t c
  let n := (x.issued + 1) % 2 ^ 32
  let s := writeMt s t x.mt (x.slotOff n) (leBytes 32 rec) none
  s.modChain t c fun x => { x with issued := n }

/-- An append, with the TYPE values its form names (R283). -/
def append (s : State) (t c rec : Nat) (types : List Nat) : BRes :=
  if 4 ≤ c then .nat s 0x01 1
  else
    let x := s.chain t c
    if !x.en then .nat s 0x02 1
    else if types != [] && !types.contains (rec % 256) then .nat s 0x03 1
    else if x.full then .keep s
    else withPort s t x.mt 0 .keep fun s => .nat (appendRecord s t c rec) ((x.issued + 1) % 2 ^ 32 * 2 ^ 8) 1

/-- A form with a record operand. -/
def runRecord (f : BForm) (s : State) (body : State → Nat → Nat → Word → BRes) : Host.Outcome State Fault Refusal :=
  let r := recordVals s s.actor f.a
  let b := readB s s.actor f.b
  .next (runBanker false f.guard f.dst (recordRegs f.a ++ srcRegs f.b) (r ++ [b]) (fun s t => body s t (recordOf r) b.v) s)

/-- `ecmd` (R283). -/
def execEcmd (f : BForm) (s : State) : Host.Outcome State Fault Refusal := runRecord f s fun s t rec b => append s t b.toNat rec []
/-- `ecpy` (R283). -/
def execEcpy (f : BForm) (s : State) : Host.Outcome State Fault Refusal := runRecord f s fun s t rec _ => append s t 0 rec [0x00, 0x04]
/-- `egath` (R283). -/
def execEgath (f : BForm) (s : State) : Host.Outcome State Fault Refusal := runRecord f s fun s t rec _ => append s t 0 rec [0x01]
/-- `escat` (R283). -/
def execEscat (f : BForm) (s : State) : Host.Outcome State Fault Refusal := runRecord f s fun s t rec _ => append s t 0 rec [0x02]
/-- `efetch` (R283). -/
def execEfetch (f : BForm) (s : State) : Host.Outcome State Fault Refusal := runRecord f s fun s t rec _ => append s t 0 rec [0x03]
/-- `ecoll` (R283). -/
def execEcoll (f : BForm) (s : State) : Host.Outcome State Fault Refusal :=
  runRecord f s fun s t rec _ => append s t 2 rec [0x20, 0x21, 0x22, 0x23]
/-- `eexp` (R283). -/
def execEexp (f : BForm) (s : State) : Host.Outcome State Fault Refusal :=
  runRecord f s fun s t rec _ => append s t 1 rec [0x10, 0x11, 0x12, 0x13]

/-- The fault of a semaphore address apart from the scope test (spec/10_ordering.md R242). -/
def semAddrFault (s : State) (t a : Nat) : Option Nat := sigrFault s t .arcade a

/-- The rsig record that `esig` builds (R283). -/
def rsigRecord (a b : Nat) : Nat := 0x05 + fld a 0 27 * 2 ^ 64 + fld b 0 32 * 2 ^ 128

/-- `esig` (R283). -/
def execEsig (f : BForm) (s : State) : Host.Outcome State Fault Refusal :=
  runForm f s fun s t a b =>
    match semAddrFault s t a.toNat with
    | some c => .cause c a
    | none => append s t 0 (rsigRecord a.toNat b.toNat) []

/-! ## Managing chains (R284) -/

/-- An instruction that names a chain in A. -/
def runChain (f : BForm) (s : State) (body : State → Nat → Nat → Word → BRes) : Host.Outcome State Fault Refusal :=
  runForm f s fun s t a b => if 4 ≤ a.toNat then .nat s 0x01 1 else body s t a.toNat b

/-- `eseq` (R284). -/
def execEseq (f : BForm) (s : State) : Host.Outcome State Fault Refusal :=
  runChain f s fun s t c _ => .nat s ((s.chain t c).done * 2 ^ 8) 1

/-- What `edrain` answers, once one of its conditions holds (R284). -/
def drained (x : Chain) : Option Nat :=
  if x.issued = x.done then some (x.done * 2 ^ 8)
  else if x.flt then some (0x05 + x.done * 2 ^ 8)
  else if x.hold && x.run == .idle then some (0x06 + x.done * 2 ^ 8)
  else none

/-- `edrain` (R284). -/
def execEdrain (f : BForm) (s : State) : Host.Outcome State Fault Refusal :=
  runChain f s fun s t c _ =>
    match drained (s.chain t c) with
    | some v => .nat s v 1
    | none => .keep (s.modBk t fun k => { k with stall := .edrain c f.dst })

/-- A stalled `edrain` completes (R284). -/
def execEdrainDone (t : Nat) (s : State) : Host.Outcome State Fault Refusal :=
  .next (match (s.tile t).bk.stall with
    | .edrain c d => match drained (s.chain t c) with
      | some v => unstall s t d v
      | none => s
    | _ => s)

/-- An operation of `echain`; an operation number above 3 is refused (R284). -/
def runEchain (f : BForm) (s : State) (op : Chain → Chain) : Host.Outcome State Fault Refusal :=
  runChain f s fun s t c b => if 4 ≤ b.toNat then .nat s 0x04 1 else .nat (s.modChain t c op) 0 1

/-- `echain` GO (R284). -/
def execEchainGo (f : BForm) (s : State) : Host.Outcome State Fault Refusal := runEchain f s fun x => { x with hold := false }
/-- `echain` STOP (R284). -/
def execEchainStop (f : BForm) (s : State) : Host.Outcome State Fault Refusal := runEchain f s fun x => { x with hold := true }
/-- `echain` RETRY (R284). -/
def execEchainRetry (f : BForm) (s : State) : Host.Outcome State Fault Refusal := runEchain f s fun x => { x with flt := false }
/-- `echain` SKIP (R284). -/
def execEchainSkip (f : BForm) (s : State) : Host.Outcome State Fault Refusal :=
  runEchain f s fun x => if x.flt then { x with flt := false, done := x.head } else x

/-- `estat` (R284). -/
def execEstat (f : BForm) (s : State) : Host.Outcome State Fault Refusal :=
  runChain f s fun s t c _ =>
    let x := s.chain t c
    .nat s (x.occupancy * 2 ^ 8 + b2n x.flt * 2 ^ 20 + b2n x.hold * 2 ^ 21 + b2n x.en * 2 ^ 22 + b2n (x.run != .idle) * 2 ^ 23 +
      b2n (x.run == .waiting) * 2 ^ 24) 1

/-! ## The frame of a command (R280, R281) -/

/-- A chain at rest: nothing of the running command is left but what is still in flight. -/
def Chain.reset (x : Chain) : Chain :=
  { x with run := .idle, record := 0, pos := 0, shape := [], fin := false, pend := 0, stripes := [], coll := none, next := 0,
           remote := x.remote.map fun r => (r.1, r.2.1, false) }

/-- Local address of the slot of the head record. -/
def Chain.headAddr (x : Chain) : Nat := x.mt * 65536 + x.slotOff x.head

/-- A chain stops faulted: ENGINE_CMD, or ENGINE_FAULT with an access or engine cause; its bytes in flight are acknowledged,
nothing is signalled or numbered (R71, R281, spec/18_system.md R395). -/
def chainFault (s : State) (t c cause acause : Nat) : State :=
  let x := s.chain t c
  let s := s.modMem t fun m => { m with sbpend := m.sbpend - x.pend }
  let s := s.modChain t c fun x => { x.reset with flt := true }
  postTrap s t { trap := { cause := cause, acause := acause, posted := true, info := BitVec.ofNat 64 x.headAddr,
                           info2 := BitVec.ofNat 64 (x.head + c * 2 ^ 32) }, rank := 1, sub := c }

/-- ENGINE_FAULT of the acting chain. -/
def cmdFault (s : State) (t c acause : Nat) : State := chainFault s t c 0x1E acause

/-- An access of an engine has not been made: the command faults with its cause; 0 says that it waits and is tried again. -/
def cmdStop (s : State) (t c acause : Nat) : State := if acause = 0 then s else cmdFault s t c acause

/-- Who asks for a shared port on behalf of a chain (R210): the copy engine, the exponent engine, or the crossbar for the others. -/
def chainPort (c : Nat) : Nat := if c = 0 then 1 else if c = 1 then 2 else 4

/-- Bytes of a local address read through the shared port; or the cause of an uncorrectable error, or 0 where the engine waits. -/
def portRead (s : State) (t c mt off n : Nat) : Except (State × Nat) (State × List Byte) :=
  withPort s t mt (chainPort c) (fun s => .error (s, 0)) fun s =>
    if s.ue then .error (eccEvent s (mtAddr t mt off), 0x14)
    else .ok (eccNote s (mtAddr t mt off), readMt s t mt off n)

/-- The chain that serves a command; `null` is served by every one (R277). -/
def servedBy (c : Nat) : Instr → Bool
  | .cCopy .. | .cGather .. | .cScatter .. | .cFetch .. | .cFill .. | .cRsig .. => c == 0
  | .cVexp2 .. | .cVlog2 .. | .cVrcp .. | .cVrsqrt .. => c == 1
  | .cAllred .. | .cAllgat .. | .cRedsc .. | .cBcast .. => c == 2
  | .cQtok .. | .cSdet .. | .cBstep .. => c == 3
  | .cNull .. => true
  | _ => false

/-- A command of the acting chain: it waits on its semaphore, then its body performs the next of its accesses (R280, R62). -/
def runCmd (h : CHead) (body : State → Nat → Nat → State) (s : State) : Host.Outcome State Fault Refusal :=
  let t := s.actor
  let c := s.actorChain
  .next (if s.cyc < (s.chain t c).next then s else match (s.chain t c).run with
    | .ending => s
    | .started => if (s.chain t c).fin then s else body s t c
    | _ =>
      if h.waitEn && decide (s.semOf t h.wsem.toNat < h.wthr.toNat) then s.modChain t c fun x => { x with run := .waiting }
      else body (s.modChain t c fun x => { x with run := .started }) t c)

/-- Every access of the running command has been issued. -/
def issuedAll (s : State) (t c : Nat) : State := s.modChain t c fun x => { x with fin := true }

/-- The bytes of an engine's last write are acknowledged by the time it makes its next access (spec/10_ordering.md R245, log entry 140). -/
def ackPend (s : State) (t c : Nat) : State :=
  let x := s.chain t c
  if x.pend = 0 then s else (s.modMem t fun m => { m with sbpend := m.sbpend - x.pend }).modChain t c fun x => { x with pend := 0 }

/-- Bytes an engine writes, counted in TILE.SBPEND; none while there is no room for them (R245, R285). -/
def addPend (s : State) (t c n : Nat) : Option State :=
  let s := ackPend s t c
  if pendRoom (s.tile t).mem n then
    some ((s.modMem t fun m => { m with sbpend := m.sbpend + n }).modChain t c fun x => { x with pend := n })
  else none

/-- Every access of the running command is over: a collective engine's member no longer stands in its instance, a copy engine's writes
and increments are answered (R280, R285, R291). -/
def cmdOver (s : State) (t c : Nat) : Bool :=
  let x := s.chain t c
  x.run == .started && x.fin && x.port == [] && x.results == 0 && x.stripes == [] && x.coll.isNone &&
    x.remote.all (fun r => !r.2.2) && (c != 0 || outstanding (s.tile t).mem .engine == [])

/-- A command completes: DONE advances and the increment of its signal arrives, in phase 1 of one cycle (R280, spec/10_ordering.md
R240). -/
def finishCmd (s : State) (t c : Nat) : State :=
  let x := s.chain t c
  if x.run != .ending then s
  else
    let s := s.modMem t fun m => { m with sbpend := m.sbpend - x.pend }
    let s := s.modChain t c fun x => { x.reset with done := x.head }
    if bitOf x.record 9 then semAdd s t (fld x.record 40 8) (fld x.record 48 8) else s

/-- Every access of a command is over: it completes at the start of the next cycle (R280). -/
def execEngineCmdComplete (t : Nat) (c : Fin 4) (s : State) : Host.Outcome State Fault Refusal :=
  .next (if cmdOver s t c.val then
      addDue (s.modChain t c.val fun x => { x with run := .ending }) { at' := s.cyc + 1, phase := 1, iss := s.cyc, act := .cmdDone t c.val }
    else s)

/-- A store is performed at its scope and acknowledged; a release increment of the tile's own file is performed (spec/09_memory.md R218,
spec/10_ordering.md R241); a write of another package is performed and answered; the answer to a write of the own copy engine stops
the chain where it tells of a fault (R281, R285). -/
def execStoreAck (src : StoreSrc) (ecc : Bool) (s : State) : Host.Outcome State Fault Refusal :=
  .next (match src with
    | .tile t id => match (s.tile t).mem.stores.find? (·.id == id) with
      | some e => finishStore s t e ecc
      | none => s
    | .arcade pkg id va bytes => arcadeStore s pkg id va.toNat bytes
    | .reply t id cause =>
      let mine := (s.chain t 0).remote.any fun r => r.1 == id && r.2.2
      let s := remoteDone s t id
      if mine && cause != 0 then cmdFault s t 0 cause else s)

/-- A remote increment that meets a fault after its issue; one of the copy engine stops its chain (R281, R291). -/
def sigrFails (s : State) (t : Nat) (e : StoreEnt) (cause : Nat) : State :=
  let s := faultStore s t e cause
  if e.who == .engine && (s.chain t 0).run == .started then cmdFault s t 0 cause else s

/-- A remote increment is applied and acknowledged, in issue order per issuer and semaphore; one for another package leaves for it, and is
acknowledged when that package's answer comes (R242). -/
def execSigrArrival (src : SigSrc) (s : State) : Host.Outcome State Fault Refusal :=
  .next (match src with
    | .tile t id => match (s.tile t).mem.stores.find? (·.id == id) with
      | some e => match e.kind with
        | .remote xpkg pkg tile sem n =>
          if released s t e.cycle e.after && !e.sent && crossed s t id e.xb &&
              !((s.tile t).mem.stores.any fun x => x.who == e.who && decide (x.id < id) && sameSem x.kind e.kind) then
            if !xpkg then dropStore (semRaise s tile sem n) t e
            else if !s.mgmt.arcUp then s
            else if s.refusesPackage pkg then sigrFails s t e 0x16
            else (sendArc s t false pkg (.sem id tile sem n)).modMem t fun m =>
              { m with stores := m.stores.map fun x => if x.id = id then { x with sent := true } else x }
          else s
        | _ => s
      | none => s
    | .arcade pkg id tile sem inc =>
      let s' := arcadeSig s tile sem.toNat inc.toNat
      if s.tileOk tile then sendArc s' tile false pkg (.ack id 0) else plinthArc s' pkg (.ack id 0)
    | .reply t id => match (s.tile t).mem.stores.find? (fun e => e.id == id && e.sent) with
      | some e => dropStore s t e
      | none => s)

/-- `null`: its wait and its signal only (R66). -/
def execCNull (h : CHead) (s : State) : Host.Outcome State Fault Refusal := runCmd h issuedAll s

end Sys2Proof.Machine
end

