-- ==== Sys2Proof/Machine/Float.lean ====
section
/-!
DEFINITION. The results of the floating-point and narrow-format instructions (spec/05_float.md) and of the correctly
rounded functions (spec/03_numbers.md R107). Formats arrive resolved; how a slot's edge formats are found stands with the
firing of a region.
-/
namespace Sys2Proof.Machine

/-! ## Row 0x3 (R131 to R133) -/

/-- A source decoded in format f from its low bits (R127). -/
def fRead (f : Fmt) (x : Word) : FVal := f.decode (x.toNat % 2 ^ f.width)

/-- `a × b + c` with one rounding still to come (R131). -/
def fmaVal (rm : Rounding) (a b c : FVal) : FVal := FVal.add rm (a.mul b) c

/-- The lesser of two values, −0 below +0; the other source when exactly one is NaN (R132). -/
def fminVal (a b : FVal) : FVal :=
  if a.isNan then b
  else if b.isNan then a
  else if a.isZero && b.isZero then (if a.neg? then a else b)
  else if FVal.cmp a b ≤ 0 then a else b

/-- The greater of two values (R132). -/
def fmaxVal (a b : FVal) : FVal :=
  if a.isNan then b
  else if b.isNan then a
  else if a.isZero && b.isZero then (if a.neg? then b else a)
  else if 0 ≤ FVal.cmp a b then a else b

/-- |a| with a given sign; NaN stays NaN (R132). -/
def FVal.withSign (a : FVal) (neg : Bool) : FVal := if neg then a.mag.negate else a.mag

/-- A value rounded to an integral value, keeping the sign of a (R131). -/
def frintVal (rm : Rounding) (a : FVal) : FVal :=
  match a with
  | .fin neg num den exp => .fin neg (quantise rm neg num den exp 0) 1 0
  | x => x

/-- The class mask of a code (R133). -/
def fclassMask (f : Fmt) (code : Nat) : Nat :=
  match f.decode code with
  | .nan => 2 ^ 8
  | .inf neg => if neg then 2 ^ 0 else 2 ^ 7
  | .fin neg num _ _ =>
    if num = 0 then (if neg then 2 ^ 3 else 2 ^ 4)
    else if num < 2 ^ f.m then (if neg then 2 ^ 2 else 2 ^ 5)
    else if neg then 2 ^ 1 else 2 ^ 6

/-- The truth value of a float compare (R133). -/
def fTest (op : FloatOp) (a b : FVal) : Bool :=
  if a.isNan || b.isNan then false
  else match op with
    | .fcmpeq => FVal.cmp a b == 0
    | .fcmplt => FVal.cmp a b == -1
    | .fcmple => decide (FVal.cmp a b ≤ 0)
    | _ => false

/-- The value of a row-0x3 operation before it is rounded (R131, R132). -/
def floatVal (op : FloatOp) (f : Fmt) (rm : Rounding) (av bv cv : Word) : FVal :=
  let a := fRead f av
  let b := fRead f bv
  let c := fRead f cv
  match op with
  | .fadd => FVal.add rm a b
  | .fsub => FVal.add rm a b.negate
  | .fmul => a.mul b
  | .fma => fmaVal rm a b c
  | .fms => fmaVal rm a b c.negate
  | .fnma => FVal.add rm (a.mul b).negate c
  | .fmin => fminVal a b
  | .fmax => fmaxVal a b
  | .fabs => a.mag
  | .fneg => a.negate
  | .fsgn => a.withSign (bitOf bv.toNat (f.width - 1))
  | .frint => frintVal rm a
  | .fcmpeq | .fcmplt | .fcmple | .fclass => .nan

/-- The 64-bit result of a row-0x3 operation in format f (R127, R131 to R133). -/
def floatResult (op : FloatOp) (f : Fmt) (rm : Rounding) (a b c : Word) : Word :=
  match op with
  | .fcmpeq | .fcmplt | .fcmple => BitVec.ofNat 64 (b2n (fTest op (fRead f a) (fRead f b)))
  | .fclass => BitVec.ofNat 64 (fclassMask f (a.toNat % 2 ^ f.width))
  | op => BitVec.ofNat 64 (f.round rm (floatVal op f rm a b c))

/-- Latency of a row-0x3 operation (R131 to R133). -/
def floatLatency : FloatOp → Nat
  | .fadd | .fsub | .fmul => 3
  | .fma | .fms | .fnma => 4
  | .frint => 2
  | _ => 1

/-! ## Integer square root -/

/-- Bits below `k` of the root, found from the top. -/
def isqrtGo (n : Nat) : Nat → Nat → Nat
  | 0, r => r
  | k + 1, r => isqrtGo n k (if (r + 2 ^ k) * (r + 2 ^ k) ≤ n then r + 2 ^ k else r)

/-- The integer square root of n < 2^(2k). -/
def isqrt (k n : Nat) : Nat := isqrtGo n k 0

/-- A root known to its last place, with half a place more when it is not exact: round decides the same on it as on the
exact root, whose grid is coarser. -/
def rootVal (r : Nat) (exact : Bool) (exp : Int) : FVal := .fin false (2 * r + b2n (!exact)) 1 (exp - 1)

/-- √x (R107). -/
def sqrtVal : FVal → FVal
  | .nan => .nan
  | .inf neg => if neg then .nan else .inf false
  | .fin neg num den exp =>
    if num = 0 then .zero neg
    else if neg then .nan
    else
      -- num/den × 2^exp = (num × den × 2^s) / (den² × 2^(s − exp)), with s − exp even
      let s : Nat := if exp % 2 = 0 then 200 else 201
      let n := num * den * 2 ^ s
      let r := isqrt 400 n
      let q := r / den
      rootVal q (decide (r * r = n) && r % den == 0) ((exp - (s : Int)) / 2)

/-- 1/√x (R107). -/
def rsqrtVal : FVal → FVal
  | .nan => .nan
  | .inf neg => if neg then .nan else .zero false
  | .fin neg num den exp =>
    if num = 0 then .inf neg
    else if neg then .nan
    else sqrtVal (.fin false den num (-exp))

/-! ## EXP2 and LOG2 (R107)

Both are computed in fixed point with 256 fraction bits from series; the error is far below the distance of any result
that is not exact from a rounding boundary. -/

/-- Fraction bits of the working precision. -/
def fxBits : Nat := 256

/-- Σ z^(2i+1) / (2i+1) from term `i`, `p` the current power of z, in fixed point. -/
def atanhGo (z2 : Nat) : Nat → Nat → Nat → Nat
  | 0, _, _ => 0
  | n + 1, i, p => p / (2 * i + 1) + atanhGo z2 n (i + 1) (p * z2 / 2 ^ fxBits)

/-- 2 atanh(a / b) = ln((b + a) / (b − a)), in fixed point. -/
def lnRatio (a b : Nat) : Nat :=
  let z := a * 2 ^ fxBits / b
  2 * atanhGo (z * z / 2 ^ fxBits) 90 0 z

/-- ln 2. -/
def ln2Fx : Nat := lnRatio 1 3

/-- Σ t^i / i! from term `i`, `p` the current term, in fixed point. -/
def expGo (t : Nat) : Nat → Nat → Nat → Nat
  | 0, _, _ => 0
  | n + 1, i, p => p + expGo t n (i + 1) (p * t / 2 ^ fxBits / (i + 1))

/-- 2^x (R107). -/
def exp2Val : FVal → FVal
  | .nan => .nan
  | .inf neg => if neg then .zero false else .inf false
  | .fin neg num den exp =>
    if num = 0 then .fin false 1 1 0
    else if 12 ≤ leadExp num den exp then .fin false 1 1 (if neg then -8192 else 8192)
    else
      let n := if 0 ≤ exp then shiftBy num exp else num
      let d := if 0 ≤ exp then den else shiftBy den (-exp)
      let x : Int := if neg then -(n : Int) else n
      let i := x / (d : Int)
      let f := (x % (d : Int)).toNat
      if f = 0 then .fin false 1 1 i
      else
        let t := (f * 2 ^ fxBits / d) * ln2Fx / 2 ^ fxBits
        .fin false (2 * expGo t 70 0 (2 ^ fxBits) + 1) 1 (i - (fxBits : Int) - 1)

/-- log2 x (R107). -/
def log2Val : FVal → FVal
  | .nan => .nan
  | .inf neg => if neg then .nan else .inf false
  | .fin neg num den exp =>
    if num = 0 then .inf true
    else if neg then .nan
    else
      let k := leadExp num den exp
      -- m = a / b in [1, 2)
      let h := k - exp
      let a := if h ≤ 0 then shiftBy num (-h) else num
      let b := if h ≤ 0 then den else shiftBy den h
      if a = b then .ofInt k
      else
        let l := lnRatio (a - b) (a + b) * 2 ^ fxBits / ln2Fx
        let tot : Int := 2 * (k * ((2 ^ fxBits : Nat) : Int) + (l : Int)) + 1
        .fin (decide (tot < 0)) tot.natAbs 1 (-(fxBits : Int) - 1)

/-- The exact result of an exponent-engine function (R142). -/
def expFnVal (fn : ExpFn) (x : FVal) : FVal :=
  match fn with
  | .exp2 => exp2Val x
  | .log2 => log2Val x
  | .rcp => FVal.div (.fin false 1 1 0) x
  | .rsqrt => rsqrtVal x

/-! ## Conversions (R134) and narrow lanes (R135 to R140) -/

/-- `cvt`: the value of the source rounded into the destination (R101, R134). -/
def cvtResult (src : EdgeFmt) (d : Fmt) (rm : Rounding) (a : Word) : Word :=
  BitVec.ofNat 64 (d.round rm (src.value a.toNat))

/-- `cvti` (R134). -/
def cvtiResult (src : EdgeFmt) (d : IntFmt) (rm : Rounding) (a : Word) : Word :=
  let x := src.value a.toNat
  BitVec.ofNat 64 (wrapInt (match d with
    | .s32 => toIntType true 32 rm x
    | .s64 => toIntType true 64 rm x
    | .z32 => toIntType false 32 rm x
    | .z64 => toIntType false 64 rm x) 64)

/-- FMT of a narrow descriptor (R135). -/
def descFmt (b : Word) : Option Fmt :=
  match fmtOfReg (fld b.toNat 0 16) with
  | some (.narrow f) => some f
  | _ => none

/-- SCALE of a narrow descriptor. -/
def descScale (b : Word) : Nat := fld b.toNat 16 20
/-- LANE of a narrow descriptor. -/
def descLane (b : Word) : Nat := fld b.toNat 36 6
/-- POP of a narrow descriptor. -/
def descPop (b : Word) : Bool := bitOf b.toNat 42

/-- Elements per token of a narrow format (R91). -/
def lanesOf (f : Fmt) : Nat := 64 / containerBits f.width

/-- x / s for a block scale s: 0 / 0 and NaN / 0 are NaN, anything else over zero an infinity (R136). -/
def divScale (x : FVal) (s : Nat) : FVal := FVal.div x (s20Val s)

/-- `cvtn`: a wide value scaled and rounded into a narrow code (R136). -/
def cvtnResult (src : EdgeFmt) (f : Fmt) (rm : Rounding) (a b : Word) : Word :=
  BitVec.ofNat 64 (f.round rm (divScale (src.value a.toNat) (descScale b)))

/-- The block scale `cvtnf` chooses (R137). -/
def cvtnfScale (src : EdgeFmt) (f : Fmt) (a : Word) : Nat :=
  let s := s20Fmt.round .ru (FVal.div (src.value a.toNat).mag f.maxFin)
  if s = 0 then scaleOne else s

/-- `cvtnf`: B with its SCALE replaced (R137). -/
def cvtnfResult (src : EdgeFmt) (f : Fmt) (a b : Word) : Word :=
  BitVec.ofNat 64 (setFld b.toNat 16 20 (cvtnfScale src f a))

/-- `scext`: NVAL, SCALE and FMT of the held header (R138). -/
def scextResult (h : Nat) : Word := BitVec.ofNat 64 (hdrNval h * 2 ^ 36 + hdrScale h * 2 ^ 16 + hdrFmt h)

/-- `npack`: one lane of the old destination replaced (R139). -/
def npackResult (f : Fmt) (old a b : Word) : Word :=
  let c := containerBits f.width
  BitVec.ofNat 64 (setFld old.toNat (descLane b * c) c (a.toNat % 2 ^ f.width))

/-- `nunpk`: one lane scaled and rounded into a wide format (R140). -/
def nunpkResult (f : Fmt) (scale lane : Nat) (d : Fmt) (rm : Rounding) (a : Word) : Word :=
  let e := EdgeFmt.narrow f
  BitVec.ofNat 64 (d.round rm ((e.value (tokenElem e a.toNat lane)).mul (s20Val scale)))

/-! ## Division and square root (R141) -/

/-- `fdiv` (R141). -/
def fdivResult (s d : Fmt) (rm : Rounding) (a b : Word) : Word :=
  BitVec.ofNat 64 (d.round rm (FVal.div (fRead s a) (fRead s b)))

/-- `fsqrt` (R141). -/
def fsqrtResult (s d : Fmt) (rm : Rounding) (a : Word) : Word := BitVec.ofNat 64 (d.round rm (sqrtVal (fRead s a)))

/-- Latency of the divider for a destination format (R141). -/
def divideLatency (d : Fmt) : Nat := if d.width = 32 then 12 else 8

/-- The result of an exponent-engine request (R142). -/
def expFnResult (fn : ExpFn) (s d : Fmt) (rm : Rounding) (a : Word) : Word :=
  BitVec.ofNat 64 (d.round rm (expFnVal fn (fRead s a)))

end Sys2Proof.Machine
end

