-- ==== Sys2Proof/Machine/Commands.lean ====
section
/-!
DEFINITION. The commands of the copy engine, the exponent engine and the collective engine (spec/12_engines.md R285 to R294),
the lanes of the exponent engine (spec/05_float.md R143), tokens on their way to a port, and the object-read replies a fetch
waits for (spec/19_boundary.md R430). Each turn of an engine performs the next access of its command, in the element order of
the command (log entry 40).
-/
namespace Sys2Proof.Machine

/-! ## Accesses of the copy engine (R285) -/

/-- The check of an engine's virtual access before translation (spec/09_memory.md R217). -/
def engineCheck (va n : Nat) : Option Nat := globalCheck va n

/-- An area read for an asker; or the cause of its fault, or 0 where it waits for a walk or a port. -/
def areaRead (s : State) (t r va n : Nat) : Except (State × Nat) (State × List Byte) :=
  if n != 0 && !areaFree s t r va n then .error (askArea s t r va n, 0)
  else match vRead s t va n with
    | .error f => .error (reportUe s t f, f.1)
    | .ok r => .ok r

/-- A virtual read of one element by an engine. -/
def engineRead (s : State) (t c va n : Nat) : Except (State × Nat) (State × List Byte) :=
  match engineCheck va n with
  | some e => .error (s, e)
  | none => areaRead s t (1 + c) va n

/-- Where a copy-engine write goes: this package, or another one. -/
inductive Target where
  | here
  | package (p : Nat)
deriving DecidableEq, Repr, Inhabited

/-- The target of a command's writes, or the fault of its DPKG (R285), or 0 while the arcade does not run yet (spec/19_boundary.md R431). -/
def targetOf (s : State) (xpkg : Bool) (dpkg : Nat) : Except Nat Target :=
  if !xpkg then .ok .here
  else if dpkg = s.mgmt.arcNum then .error 0x32
  else if s.refusesPackage dpkg then .error 0x36
  else if !s.mgmt.arcUp then .error 0
  else .ok (.package dpkg)

/-- A write or token sent to another package, whose answer is awaited; `n` bytes are counted. -/
def sendRemote (s : State) (t pkg n : Nat) (msg : Nat → ArcMsg) : State :=
  let id := (s.tile t).mem.nextId
  ((sendArc s t false pkg (msg id)).modMem t fun m => { m with nextId := id + 1, sbpend := m.sbpend + n }).modChain t 0 fun x =>
    { x with remote := x.remote ++ [(id, n, true)] }

/-- A virtual write of an element or a piece aligned to `al`: performed at package scope, or sent to another package; its bytes are
counted (R285, spec/17_text.md R387). -/
def engineWrite (s : State) (t c : Nat) (x : Target) (va al : Nat) (bytes : List Byte) : Except (State × Nat) State :=
  match engineCheck va al with
  | some e => .error (s, e)
  | none =>
    let s := ackPend s t c
    match x with
    | .package p =>
      if pendRoom (s.tile t).mem bytes.length then .ok (sendRemote s t p bytes.length fun id => .store id va bytes) else .error (s, 0)
    | .here =>
      if bytes != [] && !areaFree s t (1 + c) va bytes.length then .error (askArea s t (1 + c) va bytes.length, 0)
      else match addPend s t c bytes.length with
        | none => .error (s, 0)
        | some s => match vWrite s t va bytes with
          | (s, none) => .ok s
          | (s, some (e, _)) => .error (s, e)

/-- The next access of a command is due. -/
def advance (s : State) (t c n : Nat) : State := s.modChain t c fun x => { x with pos := x.pos + n }

/-- One element read and written. -/
def moveElement (s : State) (t c : Nat) (x : Target) (src dst n : Nat) : State :=
  match engineRead s t c src n with
  | .error (s, e) => cmdStop s t c e
  | .ok (u, bytes) => match engineWrite u t c x dst n bytes with
    | .error (u, e) => if e = 0 then askArea s t (1 + c) dst n else cmdFault u t c e
    | .ok s => advance s t c 1

/-! ## copy (R287, R288) -/

/-- The shape descriptor at a local address: its double words are read through the shared port; or the fault of reading it. -/
def readShape (s : State) (t c desc : Nat) : Except (State × Nat) (State × List Nat) :=
  match localCheck s t desc 8 8 with
  | .error e => .error (s, e)
  | .ok (mt, off) => match portRead s t c mt off 8 with
    | .error e => .error e
    | .ok (s, b) =>
      let w := leNat b
      let ndim := fld w 0 4
      if fld w 6 58 ≠ 0 ∨ ndim = 0 ∨ 9 < ndim then .error (s, 0x30)
      else match localCheck s t desc (8 + 16 * ndim) 8 with
        | .error e => .error (s, e)
        | .ok _ =>
          let l := wordsOf (1 + 2 * ndim) (readMt s t mt off (8 + 16 * ndim))
          if (List.range ndim).any (fun i => fld (l.getD (1 + 2 * i) 0) 32 32 != 0) then .error (s, 0x30)
          else .ok (usePort s t mt (chainPort c) (1 + 2 * ndim), l)

/-- The dimensions of a descriptor: COUNT, SSTR and DSTR, innermost first. -/
def shapeDimsOf : List Nat → List (Nat × Int × Int)
  | c :: w :: l => (fld c 0 32, sextNat (fld w 32 32) 32, sextNat (fld w 0 32) 32) :: shapeDimsOf l
  | _ => []

/-- Number of elements of a shape. -/
def shapeTotal (l : List (Nat × Int × Int)) : Nat := l.foldl (fun n d => n * d.1) 1

/-- Source and destination offsets of element `i`, j_0 fastest. -/
def shapeAt : List (Nat × Int × Int) → Nat → Int × Int
  | [], _ => (0, 0)
  | (n, ss, ds) :: l, i =>
    let (so, dd) := shapeAt l (i / n)
    (so + (i % n : Nat) * ss, dd + (i % n : Nat) * ds)

/-- A base and a signed offset, modulo 2^64. -/
def offsetBy (a : Nat) (d : Int) : Nat := wrapInt ((a : Int) + d) 64

/-- Element `i` of a port copy of `total` as a token: its place in its block, and the header of the block, whose NVAL the count gives; as
element `total` the end-of-stream (R288). -/
def portToken (e : Edge) (total i v : Nat) : Token :=
  if total ≤ i then eosToken total 0 0
  else
    let per := (edgeFmt e).perToken
    let pos := i % ((e.blk + per) / per)
    let nval := min (e.blk + 1) ((total - (i - pos)) * per) - 1
    let (t, _) := blockToken e 0 scaleOne { n := pos * per, hdr := 0, toks := pos, ntok := 0 } { v := BitVec.ofNat 64 v }
    { t with hdr := mkHeader scaleOne e.fmt e.blk nval 0 0 }

/-- Element `i` sent to a port of this package, where it waits to be taken, or to another package. -/
def sendToken (s : State) (t c : Nat) (x : Target) (dst total i v : Nat) : State :=
  match x with
  | .here => s.modChain t c fun k => { k with port := k.port ++ [(BitVec.ofNat 64 dst, portToken (portEdge s dst) total i v)] }
  | .package p => sendRemote s t p 0 fun id => .port id dst v i total

/-- The next element of a port copy becomes a token; end-of-stream follows the last one when EOS is set. A token that has not been
acknowledged holds the engine (R288). -/
def portStep (s : State) (t c : Nat) (x : Target) (src dst : Nat) (eos : Bool) (dims : List (Nat × Int × Int)) : State :=
  let k := s.chain t c
  let total := shapeTotal dims
  if k.port != [] || k.remote.any (·.2.2) then s
  else if k.pos < total then
    match engineRead s t c (offsetBy src (shapeAt dims k.pos).1) 8 with
    | .error (s, e) => cmdStop s t c e
    | .ok (s, bytes) => advance (sendToken s t c x dst total k.pos (leNat bytes)) t c 1
  else if eos && k.pos = total then advance (sendToken s t c x dst total total 0) t c 1
  else issuedAll s t c

/-- A copy between areas: one element. -/
def copyStep (s : State) (t c : Nat) (x : Target) (src dst esz : Nat) (dims : List (Nat × Int × Int)) : State :=
  let k := s.chain t c
  if k.pos < shapeTotal dims then
    let (so, dd) := shapeAt dims k.pos
    moveElement s t c x (offsetBy src so) (offsetBy dst dd) (2 ^ esz)
  else issuedAll s t c

/-- DST is a port address (R288). -/
def isPortDst (dst : Nat) : Bool := fld dst 48 8 == 0xFF

/-- copy (R287, R288). -/
def execCCopy (h : CHead) (src dst : BitVec 56) (dpkg : BitVec 8) (desc : BitVec 20) (xpkg eos : Bool) (s : State) :
    Host.Outcome State Fault Refusal :=
  runCmd h (fun s t c =>
    match targetOf s xpkg dpkg.toNat with
    | .error e => cmdStop s t c e
    | .ok x =>
      match (s.chain t c).shape with
      | [] =>
        match readShape s t c desc.toNat with
        | .error (s, e) => cmdStop s t c e
        | .ok (s, l) =>
          let port := isPortDst dst.toNat
          if port && fld (l.getD 0 0) 4 2 != 3 then cmdFault s t c 0x30
          else if port && fld dst.toNat 0 13 != 0 then cmdFault s t c 0x31
          else match (if port && x == .here then portFault s dst.toNat else none) with
            | some e => cmdFault s t c e
            | none => s.modChain t c fun k => { k with shape := l }
      | w :: l =>
        if isPortDst dst.toNat then portStep s t c x src.toNat dst.toNat eos (shapeDimsOf l)
        else copyStep s t c x src.toNat dst.toNat (fld w 4 2) (shapeDimsOf l)) s

/-- A token reaches an input port: from this package's copy engine, which holds while the port is full, or from another
package (R195, R288). -/
def execPortTokenArrival (src : PortSrc) (s : State) : Host.Outcome State Fault Refusal :=
  .next (match src with
    | .engine t => match (s.chain t 0).port with
      | [] => s
      | (a, tok) :: rest => match portPush s a.toNat tok with
        | some s => s.modChain t 0 fun x => { x with port := rest }
        | none => s
    | .arcade pkg id dst v i total =>
      match portFault s dst.toNat with
      | some e => plinthArc s pkg (.ack id e)
      | none => match portPush s dst.toNat (portToken (portEdge s dst.toNat) total i v.toNat) with
        | some s => sendArc s (portOf dst.toNat).1.issuer false pkg (.ack id 0)
        | none => s)

/-! ## gather, scatter, fill, rsig (R289, R291) -/

/-- Index `i` of an index array, read through the shared port, or the fault of the array (R289, spec/09_memory.md R214). -/
def indexAt (s : State) (t c idx count i : Nat) : Except (State × Nat) (State × Nat) :=
  match localCheck s t idx (4 * count) 4 with
  | .error e => .error (s, e)
  | .ok (mt, off) =>
    if count ≤ i then .ok (s, 0)
    else match portRead s t c mt (off + 4 * i) 4 with
      | .error e => .error e
      | .ok (s, b) => .ok (s, leNat b)

/-- The next element of a gather or a scatter. -/
def indexedStep (s : State) (t c : Nat) (x : Target) (src dst idx count esz : Nat) (scatter : Bool) : State :=
  let i := (s.chain t c).pos
  let e := 2 ^ esz
  match indexAt s t c idx count i with
  | .error (s, f) => cmdStop s t c f
  | .ok (s, k) =>
    if i < count then
      moveElement s t c x ((src + (if scatter then i else k) * e) % 2 ^ 64) ((dst + (if scatter then k else i) * e) % 2 ^ 64) e
    else issuedAll s t c

/-- gather (R289); DPKG is there and is not read (R286). -/
def execCGather (h : CHead) (src dst : BitVec 56) (_dpkg : BitVec 8) (idx : BitVec 20) (count : BitVec 14) (esz : BitVec 2) (s : State) :
    Host.Outcome State Fault Refusal :=
  runCmd h (fun s t c => indexedStep s t c .here src.toNat dst.toNat idx.toNat count.toNat esz.toNat false) s

/-- scatter (R289). -/
def execCScatter (h : CHead) (src dst : BitVec 56) (dpkg : BitVec 8) (idx : BitVec 20) (xpkg : Bool) (count : BitVec 14)
    (esz : BitVec 2) (s : State) : Host.Outcome State Fault Refusal :=
  runCmd h (fun s t c =>
    match targetOf s xpkg dpkg.toNat with
    | .error e => cmdStop s t c e
    | .ok x => indexedStep s t c x src.toNat dst.toNat idx.toNat count.toNat esz.toNat true) s

/-- Bytes `i … i + n − 1` of a pattern repeated. -/
def patternBytes (p : Word) (i n : Nat) : List Byte := (List.range n).map fun j => BitVec.ofNat 8 (fld p.toNat (8 * ((i + j) % 8)) 8)

/-- fill: a piece within one line at a time, in ascending order (R289). -/
def execCFill (h : CHead) (pattern : Word) (dst : BitVec 56) (dpkg : BitVec 8) (len : BitVec 40) (xpkg : Bool) (s : State) :
    Host.Outcome State Fault Refusal :=
  runCmd h (fun s t c =>
    match targetOf s xpkg dpkg.toNat with
    | .error e => cmdStop s t c e
    | .ok x =>
      let i := (s.chain t c).pos
      if i < len.toNat then
        let a := (dst.toNat + i) % 2 ^ 64
        let n := pieceLen a (len.toNat - i)
        match engineWrite s t c x a 1 (patternBytes pattern i n) with
        | .error (s, e) => cmdStop s t c e
        | .ok s => advance s t c n
      else issuedAll s t c) s

/-- rsig: a `sigr.rel` at arcade scope without the scope test (R291). -/
def execCRsig (h : CHead) (saddr : BitVec 27) (inc : BitVec 32) (s : State) : Host.Outcome State Fault Refusal :=
  runCmd h (fun s t c =>
    match semAddrFault s t saddr.toNat with
    | some e => cmdFault s t c e
    | none =>
      let (pkg, xpkg, tile, sem) := semAddr saddr.toNat
      match issueOther s t { who := .engine, va := saddr.toNat, order := .release, scope := .arcade, pend := 4,
                             kind := .remote xpkg pkg tile sem inc.toNat } with
      | .ok s => issuedAll s t c
      | _ => s) s

/-! ## fetch (R290) -/

/-- A manifest entry: object, offset, length, log of the stripe, endpoint and destination; none when it is bad. -/
def manifestEntry (l : List Nat) : Option (Nat × Nat × Nat × Nat × Nat × Nat) :=
  let w := l.getD 2 0
  let slog := fld w 40 6
  if fld w 46 2 ≠ 0 ∨ fld w 54 10 ≠ 0 ∨ slog < 12 ∨ 30 < slog then none
  else some (l.getD 0 0, l.getD 1 0, fld w 0 40, slog, fld w 48 6, l.getD 3 0)

/-- The packet of an object-read request (spec/19_boundary.md R430). -/
def objRequest (tag obj off len : Nat) : List Byte := wordsBytes [0x0B1EC7D5 + 0x11 * 2 ^ 32, tag, obj, off, len]

/-- STATUS, TAG, ROFF and the bytes of an object-read reply; none for a packet of another form (R430). -/
def objReply (b : List Byte) : Option (Nat × Nat × Nat × List Byte) :=
  let h := leNat (b.take 8)
  if b.length < 24 ∨ fld h 0 32 ≠ 0x0B1EC7D5 ∨ fld h 32 8 ≠ 0x91 ∨ fld h 48 16 ≠ 0 then none
  else some (fld h 40 8, leNat ((b.drop 8).take 8), leNat ((b.drop 16).take 8), b.drop 24)

/-- One stripe asked for (R430). -/
def askStripe (s : State) (t c obj off srv va len : Nat) : State :=
  let tag := s.plinth.nextTag
  let s := s.modPlinth fun p =>
    { p with nextTag := p.nextTag + 1, stripes := p.stripes ++ [{ tag := tag, tile := t, va := va, len := len }] }
  (s.send (.objRead srv (objRequest (tag % 2 ^ 64) obj (off % 2 ^ 64) len))).modChain t c fun x => { x with stripes := x.stripes ++ [tag] }

/-- The stripes of one manifest entry that this package takes: `k`-th own stripe first. -/
def askStripes (s : State) (t c : Nat) (e : Nat × Nat × Nat × Nat × Nat × Nat) (dst rk pcount : Nat) : Nat → Nat → State
  | 0, _ => s
  | fuel + 1, k =>
    let (obj, off, len, slog, srv, doff) := e
    let st := 2 ^ slog
    let j := rk + k * pcount
    if j * st < len then
      let s := askStripe s t c obj (off + j * st) srv ((dst + doff + k * st) % 2 ^ 64) (min st (len - j * st))
      askStripes s t c e dst rk pcount fuel (k + 1)
    else s

/-- An endpoint is enabled: EN of MGMT.SRVn (spec/19_boundary.md R422). -/
def srvOn (s : State) (n : Nat) : Bool := bitOf (Tab.get s.mgmt.srv n).toNat 63

/-- fetch: one manifest entry a turn (R290). -/
def execCFetch (h : CHead) (man dst : BitVec 56) (nent : BitVec 16) (pbase : BitVec 8) (pcount : BitVec 9) (s : State) :
    Host.Outcome State Fault Refusal :=
  runCmd h (fun s t c =>
    let rk := (s.mgmt.arcNum + 256 - pbase.toNat) % 256
    let i := (s.chain t c).pos
    if pcount.toNat ≤ rk ∨ nent.toNat ≤ i then issuedAll s t c
    else if man.toNat % 32 ≠ 0 then cmdFault s t c 0x0D
    else match areaRead s t (1 + c) (man.toNat + 32 * i) 32 with
      | .error (s, e) => cmdStop s t c e
      | .ok (s, bytes) => match manifestEntry (wordsOf 4 bytes) with
        | none => cmdFault s t c 0x30
        | some e =>
          if e.2.2.1 ≠ 0 ∧ !srvOn s e.2.2.2.2.1 then cmdFault s t c 0x33
          else advance (askStripes s t c e dst.toNat rk pcount.toNat (e.2.2.1 / 2 ^ e.2.2.2.1 + 1) 0) t c 1) s

/-- The chain-0 command of a tile waits for a stripe. -/
def awaits (s : State) (t tag : Nat) : Bool := (s.chain t 0).stripes.contains tag

/-- A stripe forgotten. -/
def dropStripe (s : State) (t tag : Nat) : State :=
  (s.modPlinth fun p => { p with stripes := p.stripes.filter (·.tag != tag) }).modChain t 0 fun x =>
    { x with stripes := x.stripes.filter (· != tag) }

/-- Bytes of a reply placed by ROFF; those past the stripe are not its own. -/
def placeBytes (x : Stripe) (roff : Nat) (bytes : List Byte) : Stripe :=
  { x with got := ((List.range bytes.length).zip bytes).foldl (fun g (i, b) => if roff + i < x.len then Tab.put g (roff + i) b else g) x.got }

/-- An object-read reply (spec/19_boundary.md R430): an error faults OBJ_READ; the stripe is written when it is whole; its last packet is
taken once TILE.SBPEND has room for the stripe. -/
def execObjReadReply (packet : List Byte) (s : State) : Host.Outcome State Fault Refusal :=
  .next (match (objReply packet).bind fun r => (s.plinth.stripes.find? fun x => x.tag % 2 ^ 64 == r.2.1).map fun x => (r, x) with
    | none => s
    | some ((status, _, roff, bytes), x) =>
      let mine := awaits s x.tile x.tag
      if status ≠ 0 then
        let s := dropStripe s x.tile x.tag
        if mine then cmdFault s x.tile 0 0x33 else s
      else
        let x := placeBytes x roff bytes
        if x.got.length < x.len then
          s.modPlinth fun p => { p with stripes := p.stripes.map fun y => if y.tag = x.tag then x else y }
        else if !areaFree s x.tile 7 x.va x.len then askArea s x.tile 7 x.va x.len
        else match (if mine then addPend s x.tile 0 x.len else some s) with
          | none => s
          | some s => match vWrite (forgetAsked (dropStripe s x.tile x.tag) x.tile fun k => k % 8 == 7) x.tile x.va (x.got.map (·.2)) with
            | (s, none) => s
            | (s, some (e, _)) => if mine then cmdFault s x.tile 0 e else s)

/-- A stripe still incomplete 2 s after its request (spec/19_boundary.md R430). -/
def execObjReadTimeout (tag : Word) (s : State) : Host.Outcome State Fault Refusal :=
  .next (match s.plinth.stripes.find? (fun x => x.tag % 2 ^ 64 == tag.toNat) with
    | none => s
    | some x =>
      let mine := awaits s x.tile x.tag
      let s := dropStripe s x.tile x.tag
      if mine then cmdFault s x.tile 0 0x33 else s)

/-! ## Exponent-engine commands and lanes (R292, spec/05_float.md R143) -/

/-- A wide float format with subnormals (spec/05_float.md R126). -/
def wideFmt : FloatFmt → Fmt
  | .f32 => f32Fmt
  | .f16 => f16Fmt true
  | _ => b16Fmt true

/-- A lane of a tile. -/
def State.lane (s : State) (t l : Nat) : Lane := Tab.get (s.tile t).lanes l

/-- The state with one lane changed. -/
def State.modLane (s : State) (t l : Nat) (f : Lane → Lane) : State :=
  s.modTile t fun x => { x with lanes := Tab.modify x.lanes l f }

/-- The next request of an array command sent to the lane of DST's page; its element is read through the shared port (R292). -/
def arrayStep (fn : ExpFn) (b : CExp) (s : State) (t c : Nat) : State :=
  let sf := wideFmt b.sfmt
  let df := wideFmt b.dfmt
  let sw := sf.width / 8
  let dw := df.width / 8
  let n := b.count.toNat
  let i := (s.chain t c).pos
  match localCheck s t b.src.toNat (n * sw) sw, localCheck s t b.dst.toNat (n * dw) dw with
  | .error e, _ => cmdFault s t c e
  | _, .error e => cmdFault s t c e
  | .ok (smt, soff), .ok (dmt, doff) =>
    if i < n then
      match portRead s t c smt (soff + i * sw) sw with
      | .error (s, e) => cmdStop s t c e
      | .ok (s, bytes) =>
        let y := leBytes dw (expFnResult fn sf df b.rm (BitVec.ofNat 64 (leNat bytes))).toNat
        let s := s.modLane t (dmt / 4) fun l => { l with chain := l.chain ++ [.chain dmt (doff + i * dw) y] }
        s.modChain t c fun k => { k with pos := i + 1, results := k.results + 1, next := s.cyc + 1 }
    else issuedAll s t c

/-- vexp2 (R292). -/
def execCVexp2 (h : CHead) (b : CExp) (s : State) : Host.Outcome State Fault Refusal := runCmd h (arrayStep .exp2 b) s
/-- vlog2 (R292). -/
def execCVlog2 (h : CHead) (b : CExp) (s : State) : Host.Outcome State Fault Refusal := runCmd h (arrayStep .log2 b) s
/-- vrcp (R292). -/
def execCVrcp (h : CHead) (b : CExp) (s : State) : Host.Outcome State Fault Refusal := runCmd h (arrayStep .rcp b) s
/-- vrsqrt (R292). -/
def execCVrsqrt (h : CHead) (b : CExp) (s : State) : Host.Outcome State Fault Refusal := runCmd h (arrayStep .rsqrt b) s

/-- A request started: its result returns 16 cycles later (spec/05_float.md R143). -/
def startRequest (s : State) (t l : Nat) (r : ExpReq) (hl : Fin 4) : State :=
  schedule (s.modLane t l fun x => { x with flight := x.flight ++ [(s.cyc + 16, r)] }) (s.cyc + 16) (.expEngineResult t hl)

/-- A lane accepts one request in a cycle: a slot's before a chain's, but a chain's that has waited through 15 cycles of slot
service first (spec/05_float.md R143). -/
def serveLane (s : State) (t : Nat) (hl : Fin 4) : State :=
  let l := hl.val
  let x := s.lane t l
  match x.slots, x.chain with
  | [], [] => s
  | r :: rs, [] => startRequest (s.modLane t l fun x => { x with slots := rs, waited := 0 }) t l r hl
  | [], r :: rs => startRequest (s.modLane t l fun x => { x with chain := rs, waited := 0 }) t l r hl
  | r :: rs, q :: qs =>
    if 15 ≤ x.waited then startRequest (s.modLane t l fun x => { x with chain := qs, waited := 0 }) t l q hl
    else startRequest (s.modLane t l fun x => { x with slots := rs, waited := x.waited + 1 }) t l r hl

/-- What a lane does with a result: it goes into the leased register, to the sequencer, or waits for the shared port of the memory tile it
is written to (spec/05_float.md R143, R145; R292). -/
def returnResult (t : Nat) (hl : Fin 4) (s : State) : ExpReq → State
  | .slot c ce d v iss => landLeased s iss c ce d { v := v }
  | .chain mt off bytes => s.modLane t hl.val fun x => { x with back := x.back ++ [(mt, off, bytes)] }
  | .seq => s.modSeq t fun q => { q with engine := q.engine - 1 }

/-- The oldest result that a lane still has to write goes through the shared port, behind the slot writes of the cycle, if the port serves
the exponent engine (R292, spec/09_memory.md R210, R211); where the memory tile is no buffer any more, the command faults MEM_ROLE
(R281, spec/09_memory.md R208). -/
def writeBack (s : State) (t l : Nat) : State :=
  match (s.lane t l).back with
  | [] => s
  | (mt, off, bytes) :: rest =>
    let gone (s : State) : State :=
      (s.modLane t l fun x => { x with back := rest }).modChain t 1 fun x => { x with results := x.results - 1 }
    if (s.roleOf t mt).isBuffer then withPort s t mt 2 id fun s => gone (writeMt s t mt off bytes none)
    else if (s.chain t 1).run == .started then gone (cmdFault s t 1 0x0C) else gone s

/-- A lane returns the results whose time has come (spec/05_float.md R143). -/
def execExpEngineResult (t : Nat) (l : Fin 4) (s : State) : Host.Outcome State Fault Refusal :=
  let due := (s.lane t l.val).flight.filter fun p => decide (p.1 ≤ s.cyc)
  let s := s.modLane t l.val fun x => { x with flight := x.flight.filter fun p => !decide (p.1 ≤ s.cyc) }
  .next (due.foldl (fun s p => returnResult t l s p.2) s)

/-! ## Collective commands (R293, R294) -/

/-- EN of a group. -/
def Group.en (g : Group) : Bool := bitOf g.cgrp.toNat 63
/-- NPART of a group. -/
def Group.npart (g : Group) : Nat := fld g.cgrp.toNat 32 16
/-- PSPAN of a group. -/
def Group.pspan (g : Group) : Nat := fld g.cgrp.toNat 8 8

/-- A collective group. -/
def State.group (s : State) (g : Nat) : Group := Tab.get s.plinth.cgrp g

/-- Element size of a collective operation. -/
def collSize : CollOp → Nat
  | .s64add => 8
  | _ => 4

/-- One reduction step (R294). -/
def collApply (op : CollOp) (a b : Nat) : Nat :=
  match op with
  | .f32add => f32Add .rne a b
  | .f32max => f32Fmt.round .rne (fmaxVal (f32Fmt.decode a) (f32Fmt.decode b))
  | .f32min => f32Fmt.round .rne (fminVal (f32Fmt.decode a) (f32Fmt.decode b))
  | .s32add => (a + b) % 2 ^ 32
  | .z32max => max a b
  | .s64add => (a + b) % 2 ^ 64

/-- Elements a participant's SRC holds. -/
def collSrcLen (type count npart rank : Nat) : Nat :=
  if type = 0x22 then npart * count else if type = 0x23 ∧ rank ≠ 0 then 0 else count

/-- Elements a participant's DST receives. -/
def collDstLen (type count npart : Nat) : Nat := if type = 0x21 then npart * count else count

/-- The other packages that a group spans (R293). -/
def Group.others (g : Group) (own : Nat) : List Nat :=
  ((List.range (g.pspan + 1)).map fun i => (fld g.cgrp.toNat 0 8 + i) % 256).filter (· != own)

/-- What a tile of one package tells the others of a group. -/
def tellGroup (s : State) (t g : Nat) (m : ArcMsg) : State :=
  ((s.group g).others s.mgmt.arcNum).foldl (fun s p => sendArc s t false p m) s

/-- A participant's SRC, read for its instance; or the cause of its fault: a SRC or DST that is not aligned, or one of the access; 0 where
it waits for a walk or a port (R294). -/
def collSource (s : State) (m : CollMember) (r npart : Nat) : Except (State × Nat) (State × List Byte) :=
  let b := m.body
  let e := collSize b.op
  if b.src.toNat % e ≠ 0 ∨ b.dst.toNat % e ≠ 0 then .error (s, 0x0D)
  else areaRead s m.tile r b.src.toNat (e * collSrcLen m.type b.count.toNat npart b.rank.toNat)

/-- A participant's command starts and joins its instance; in a group that spans packages it reads its elements then, and tells the others
them, or its fault. It waits for room in TILE.SBPEND, and for the arcade (R294, spec/10_ordering.md R245, spec/19_boundary.md R431). -/
def joinColl (type : Nat) (b : CColl) (s : State) (t c : Nat) : State :=
  let g := b.gid.toNat
  let grp := s.group g
  if !grp.en then cmdFault s t c 0x34
  else if grp.pspan ≠ 0 ∧ !s.mgmt.arcUp then s
  else match addPend s t c (collSize b.op * collDstLen type b.count.toNat grp.npart) with
    | none => s
    | some u =>
      let k := Tab.get (s.tile t).collCount g
      let m : CollMember := { tile := t, type := type, body := b }
      let join (s : State) (m : CollMember) : State :=
        let s := s.modTile t fun x => { x with collCount := Tab.set x.collCount g (k + 1) }
        let s := s.modPlinth fun p => { p with cgrp := Tab.modify p.cgrp g fun x => { x with insts := Tab.modify x.insts k (· ++ [m]) } }
        s.modChain t c fun x => { x with coll := some (g, k), fin := true }
      if grp.pspan = 0 then join u m
      else match collSource u m (1 + c) grp.npart with
        | .ok (u, bytes) => join (tellGroup u t g (.coll g m bytes)) { m with src := some bytes }
        | .error (u, e) =>
          if e = 0 then askArea s t (1 + c) b.src.toNat (collSize b.op * collSrcLen type b.count.toNat grp.npart b.rank.toNat)
          else join (tellGroup u t g (.collFault g e)) { m with fault := e }

/-- allred (R294). -/
def execCAllred (h : CHead) (b : CColl) (s : State) : Host.Outcome State Fault Refusal := runCmd h (joinColl 0x20 b) s
/-- allgat (R294). -/
def execCAllgat (h : CHead) (b : CColl) (s : State) : Host.Outcome State Fault Refusal := runCmd h (joinColl 0x21 b) s
/-- redsc (R294). -/
def execCRedsc (h : CHead) (b : CColl) (s : State) : Host.Outcome State Fault Refusal := runCmd h (joinColl 0x22 b) s
/-- bcast (R294). -/
def execCBcast (h : CHead) (b : CColl) (s : State) : Host.Outcome State Fault Refusal := runCmd h (joinColl 0x23 b) s

/-- What a participant brings to its instance: the bytes of its SRC, read at its start or now; or the cause of its fault (R294). -/
def memberSource (npart : Nat) (s : State) (m : CollMember) : Except (State × Nat) (State × List Byte) :=
  if m.fault ≠ 0 then .error (s, m.fault)
  else match m.src with
    | some bytes => .ok (s, bytes)
    | none => collSource s m 7 npart

/-- The participants as the instance sees them: type, count, operation, rank and the bytes of SRC. -/
def localParts (npart : Nat) : State → List CollMember → Except (State × Nat) (State × List CollPart)
  | s, [] => .ok (s, [])
  | s, m :: ms =>
    match memberSource npart s m with
    | .error e => .error e
    | .ok (s, bytes) => match localParts npart s ms with
      | .error e => .error e
      | .ok (s, ps) => .ok (s, { type := m.type, count := m.body.count.toNat, op := m.body.op, rank := m.body.rank.toNat,
                                 src := bytes, fault := 0 } :: ps)

/-- The commands of an instance agree, and each rank stands once (R294). -/
def partsAgree (npart : Nat) (ps : List (Nat × Nat × CollOp × Nat)) : Bool :=
  match ps with
  | [] => true
  | (ty, n, op, _) :: _ =>
    ps.all (fun p => p.1 == ty && p.2.1 == n && p.2.2.1 == op && decide (p.2.2.2 < npart)) &&
      (List.range npart).all fun r => (ps.filter fun p => p.2.2.2 == r).length == 1

/-- Element `i` of a participant's SRC. -/
def collElem (ps : List CollPart) (op : CollOp) (r i : Nat) : Nat :=
  match ps.find? (·.rank == r) with
  | some p => leNat ((p.src.drop (collSize op * i)).take (collSize op))
  | none => 0

/-- red(i): the ranks' elements in ascending rank (R294). -/
def collRed (ps : List CollPart) (op : CollOp) (npart i : Nat) : Nat :=
  (List.range (npart - 1)).foldl (fun a q => collApply op a (collElem ps op (q + 1) i)) (collElem ps op 0 i)

/-- The bytes a rank's DST receives (R294). -/
def collResult (ps : List CollPart) (type : Nat) (op : CollOp) (npart count r : Nat) : List Byte :=
  let elems := match type with
    | 0x20 => (List.range count).map fun i => collRed ps op npart i
    | 0x21 => (List.range npart).flatMap fun q => (List.range count).map fun i => collElem ps op q i
    | 0x22 => (List.range count).map fun i => collRed ps op npart (r * count + i)
    | _ => (List.range count).map fun i => collElem ps op 0 i
  elems.flatMap fun v => leBytes (collSize op) v

/-- Every local command of an instance faults (R294). -/
def faultMembers (s : State) (c : Nat) (ms : List CollMember) : State := ms.foldl (fun s m => cmdFault s m.tile 2 c) s

/-- The local participants' DST written, one after another; the first failure faults the instance in every participant, in this
package and in the others. -/
def writeMembers (gid : Nat) (ps : List CollPart) (npart : Nat) (all : List CollMember) : State → List CollMember → State
  | s, [] => all.foldl (fun s m => s.modChain m.tile 2 fun x => { x with coll := none }) s
  | s, m :: ms =>
    match vWrite s m.tile m.body.dst.toNat (collResult ps m.type m.body.op npart m.body.count.toNat m.body.rank.toNat) with
    | (s, none) => writeMembers gid ps npart all s ms
    | (s, some (c, _)) => tellGroup (faultMembers s c all) m.tile gid (.collFault gid c)

/-- Where a participant's DST lies. -/
def memberArea (npart : Nat) (m : CollMember) : Nat × Nat :=
  (m.body.dst.toNat, collSize m.body.op * collDstLen m.type m.body.count.toNat npart)

/-- The DST of every local participant can be written: no walk or port is to be waited for. -/
def membersFree (s : State) (npart : Nat) (ms : List CollMember) : Bool :=
  ms.all fun m => let a := memberArea npart m; a.2 == 0 || areaFree s m.tile 7 a.1 a.2

/-- What is still to wait for is asked for. -/
def askMembers (s : State) (npart : Nat) (ms : List CollMember) : State :=
  ms.foldl (fun s m => let a := memberArea npart m; if a.2 = 0 then s else askArea s m.tile 7 a.1 a.2) s

/-- An instance of a group is complete once every participant's command has started: it proceeds, or faults. The
participants of other packages, where the group spans any, come with the event (R294). -/
def execCollInstanceStart (gid : Nat) (remote : List CollPart) (s : State) : Host.Outcome State Fault Refusal :=
  let g := s.group gid
  .next (match g.insts.find? (fun p => p.2.length + remote.length == g.npart) with
    | none => s
    | some (k, ms) =>
      if g.pspan = 0 ∧ remote ≠ [] then s
      else if !membersFree s g.npart ms then askMembers s g.npart ms
      else
        let ended (s : State) : State :=
          (ms.foldl (fun s m => forgetAsked s m.tile fun k => k % 8 == 7) s).modPlinth fun p => { p with cgrp := Tab.modify p.cgrp gid fun x => { x with insts := Tab.drop x.insts k } }
        let heads := ms.map (fun m => (m.type, m.body.count.toNat, m.body.op, m.body.rank.toNat)) ++
          remote.map fun p => (p.type, p.count, p.op, p.rank)
        if !partsAgree g.npart heads then faultMembers (ended s) 0x34 ms
        else match remote.find? (·.fault != 0) with
          | some p => faultMembers (ended s) p.fault ms
          | none => match localParts g.npart s ms with
            | .error (u, c) => if c = 0 then u else faultMembers (ended u) c ms
            | .ok (u, ps) => writeMembers gid (ps ++ remote) g.npart ms (ended u) ms)

end Sys2Proof.Machine
end

