-- ==== Sys2Proof/Machine/Kv.lean ====
section
/-!
DEFINITION. KV pools, sets and pages, and what the KV unit of a ring stop does (spec/13_rings.md R305 to R308, R316), shard
tables (R309, R310, R315), the banker's instructions on them (R311, R312), and the replies a stalled banker waits for.
-/
namespace Sys2Proof.Machine

/-! ## Set references (R307) -/

/-- INC of a set reference. -/
def refInc (r : Nat) : Nat := fld r 51 12
/-- SLOT of a set reference. -/
def refSlot (r : Nat) : Nat := fld r 39 12
/-- XPKG of a set reference. -/
def refFar (r : Nat) : Bool := bitOf r 38
/-- PKG of a set reference. -/
def refPkg (r : Nat) : Nat := fld r 30 8
/-- TILE of a set reference. -/
def refTile (r : Nat) : Nat := fld r 20 10
/-- SET of a set reference. -/
def refSet (r : Nat) : Nat := fld r 0 20

/-! ## The pool (R305, R306) -/

/-- EN of a tile's pool. -/
def RingStop.poolOn (x : RingStop) : Bool := bitOf x.kvpool.toNat 63
/-- log2 of the set size. -/
def RingStop.setl (x : RingStop) : Nat := fld x.kvpool.toNat 8 5
/-- Row bytes RB. -/
def RingStop.rowBytes (x : RingStop) : Nat := 8 * (fld x.kvpool.toNat 0 6 + 1)
/-- The address of a set. -/
def RingStop.setAddr (x : RingStop) (set : Nat) : Nat := fld x.kvpool.toNat 16 32 * 2 ^ 16 + set * 2 ^ x.setl
/-- The address of a set's status entry. -/
def RingStop.entAddr (x : RingStop) (set : Nat) : Nat := fld x.kvstat.toNat 5 43 * 32 + 32 * set
/-- The address of page `page` of a set. -/
def RingStop.pageAddr (x : RingStop) (set page : Nat) : Nat := x.setAddr set + page * 128 * x.rowBytes

/-- REF of a status entry. -/
def entRef (e : Nat) : Nat := fld e 0 16
/-- PIN of a status entry. -/
def entPin (e : Nat) : Nat := fld e 16 16
/-- STATE of a status entry. -/
def entState (e : Nat) : Nat := fld e 32 2
/-- NEXT of a status entry. -/
def entNext (e : Nat) : Nat := fld e 34 20
/-- OSLOT of a status entry. -/
def entSlot (e : Nat) : Nat := fld e 64 12
/-- OINC of a status entry. -/
def entInc (e : Nat) : Nat := fld e 76 12
/-- VMASK of a status entry. -/
def entVmask (e : Nat) : Nat := fld e 128 64
/-- TMASK of a status entry. -/
def entTmask (e : Nat) : Nat := fld e 192 64

/-- The status entry of a set, or the fault of reading it (R306). -/
def readEnt (s : State) (x : RingStop) (ecc : Bool) (set : Nat) : Except (Nat × Nat) (State × Nat) :=
  let a := x.entAddr set
  match areaFault s a 32 with
  | some c => .error (c, a)
  | none => if ecc || s.ue then .error (0x14, a) else .ok (eccNote s a, leNat (homeRead s a 32))

/-- An operation met a fault: an uncorrectable error is reported (R306, spec/19_boundary.md R428). -/
def kvReport (s : State) (r : Nat × Nat) : State := if r.1 = 0x14 then eccEvent s r.2 else s

/-- A status entry written. -/
def writeEnt (s : State) (x : RingStop) (set e : Nat) : State := homeWrite s (x.entAddr set) (leBytes 32 e)

/-- The set pushed onto the free list (R307): its entry, and the new HEAD. -/
def pushFree (s : State) (t set e : Nat) : State × Nat :=
  let h := (s.tile t).ring.head
  (s.modRing t fun x => { x with head := set }, setFld (setFld e 32 2 0) 34 20 h)

/-! ## The unit (R306 to R308, R312, R316) -/

/-- The set an operation names; an allocation names none. -/
def KvOp.set? : KvOp → Option Nat
  | .alloc .. => none
  | .ref s | .free s | .pin s | .unpin s | .image s | .masks s .. | .fill s _ => some s
  | .write s .. => some s
  | .commit s .. => some s

/-- An operation on the entry of the set it names: the state, the status and the payload. -/
def kvOnEntry (s : State) (t : Nat) (x : RingStop) (set e : Nat) (op : KvOp) : Except (Nat × Nat) (State × Nat × Nat) :=
  let live := entState e == 1
  match op with
  | .alloc .. => .ok (s, 0, 0)
  | .ref _ =>
    if !live then .ok (s, 0x05, 0)
    else if entRef e = 65535 then .ok (s, 0x0B, 0)
    else .ok (writeEnt s x set (setFld e 0 16 (entRef e + 1)), 0, entRef e + 1)
  | .free _ =>
    if !live || entRef e == 0 then .ok (s, 0x05, 0)
    else
      let r := entRef e - 1
      let e := setFld e 0 16 r
      if r ≠ 0 then .ok (writeEnt s x set e, 0, r)
      else if entPin e = 0 then
        let (s, e) := pushFree s t set e
        .ok (writeEnt s x set e, 0, 0)
      else .ok (writeEnt s x set (setFld e 32 2 2), 0, 0)
  | .pin _ =>
    if !live then .ok (s, 0x05, 0)
    else if entPin e = 65535 then .ok (s, 0x0B, 0)
    else .ok (writeEnt s x set (setFld e 16 16 (entPin e + 1)), 0, entPin e + 1)
  | .unpin _ =>
    if !(live || entState e == 2) || entPin e == 0 then .ok (s, 0x05, 0)
    else
      let p := entPin e - 1
      let e := setFld e 16 16 p
      if p = 0 ∧ entState e = 2 then
        let (s, e) := pushFree s t set e
        .ok (writeEnt s x set e, 0, 0)
      else .ok (writeEnt s x set e, 0, p)
  | .write _ slot inc page j tent row =>
    if !live || entSlot e != slot || entInc e != inc then .ok (s, 0x06, 0)
    else if 1 < entRef e then .ok (s, 0x07, 0)
    else
      let rb := x.rowBytes
      let k := x.pageAddr set page + j * rb
      match areaFault s k rb, areaFault s (k + 64 * rb) rb with
      | some c, _ => .error (c, k)
      | none, some c => .error (c, k + 64 * rb)
      | none, none =>
        let s := homeWrite (homeWrite s k (row.take rb)) (k + 64 * rb) ((row.drop rb).take rb)
        .ok (writeEnt s x set (setFld (setFld e (128 + j) 1 1) (192 + j) 1 (b2n tent)), 0, 0)
  | .commit _ slot inc mask =>
    if !live || entSlot e != slot || entInc e != inc then .ok (s, 0x06, 0)
    else .ok (writeEnt s x set (setFld e 192 64 (entTmask e &&& (2 ^ 64 - 1 - mask.toNat))), 0, 0)
  | .image _ => match areaFault s (x.setAddr set) (2 ^ x.setl) with
    | some c => .error (c, x.setAddr set)
    | none => .ok (s, 0, e + 2 ^ 256 * leNat (homeRead s (x.setAddr set) (2 ^ x.setl)))
  | .masks _ vm tm => .ok (writeEnt s x set (setFld (setFld e 128 64 vm) 192 64 tm), 0, 0)
  | .fill _ bytes => match areaFault s (x.setAddr set) (2 ^ x.setl) with
    | some c => .error (c, x.setAddr set)
    | none => .ok (homeWrite s (x.setAddr set) (bytes.take (2 ^ x.setl)), 0, 0)

/-- The page of a write ends beyond its set (R316). -/
def KvOp.beyond (x : RingStop) : KvOp → Bool
  | .write _ _ _ page .. => decide (2 ^ x.setl < (page + 1) * 128 * x.rowBytes)
  | _ => false

/-- One operation of a tile's KV unit, indivisible: the state, the status and the payload, or the cause and the address of
an access fault, which changes nothing. An unpin that the attention sequencer makes is performed whatever EN holds (R305). -/
def kvPerform (s : State) (t : Nat) (ecc seq : Bool) (op : KvOp) : Except (Nat × Nat) (State × Nat × Nat) :=
  let x := (s.tile t).ring
  if op.beyond x then .ok (s, 0x01, 0)
  else if !x.poolOn && !seq then .ok (s, 0x02, 0)
  else match op, op.set? with
    | .alloc slot inc, _ =>
      if x.head = 0xFFFFF then .ok (s, 0x03, 0)
      else match readEnt s x ecc x.head with
        | .error e => .error e
        | .ok (s, e) =>
          let s := s.modRing t fun x => { x with head := entNext e }
          let e := setFld (setFld (setFld (setFld e 0 32 1) 32 2 1) 64 12 slot) 76 12 inc
          .ok (writeEnt s x x.head (setFld e 128 128 0), 0, x.head)
    | op, some set =>
      if x.nset ≤ set then .ok (s, 0x04, 0)
      else match readEnt s x ecc set with
        | .error e => .error e
        | .ok (s, e) => kvOnEntry s t x set e op
    | _, none => .ok (s, 0, 0)

/-- The value of d: a status, and the payload where it is OK (R311). -/
def kvValue (st pay : Nat) : Nat := if st = 0 then pay * 2 ^ 8 else st

/-- The stale-write counter of a record, saturating (R308, spec/15_requests.md R339). -/
def bumpStale (s : State) (slot : Nat) : State :=
  let a := recordAddr slot 0x158
  homeWrite s a (leBytes 4 (satAdd32 (readNat s.mem a 4) 1))

/-- An operation performed for a party of this package: a write answered STALE is counted (R308). -/
def kvLocal (s : State) (t : Nat) (ecc seq : Bool) (op : KvOp) : Except (Nat × Nat) (State × Nat × Nat) :=
  match kvPerform s t ecc seq op with
  | .ok (s, 0x06, p) => .ok (match op with
    | .write _ slot .. => bumpStale s slot
    | _ => s, 0x06, p)
  | r => r

/-- The operation of another package, once its reference is known to be well formed. -/
def remoteOp : KvRemote → Nat × KvOp
  | .alloc r => (r.toNat, .alloc (refSlot r.toNat) (refInc r.toNat))
  | .free r => (r.toNat, .free (refSet r.toNat))
  | .ref r => (r.toNat, .ref (refSet r.toNat))
  | .pin r => (r.toNat, .pin (refSet r.toNat))
  | .unpin r => (r.toNat, .unpin (refSet r.toNat))
  | .write r page j tent row => (r.toNat, .write (refSet r.toNat) (refSlot r.toNat) (refInc r.toNat) page j tent row)
  | .commit r m => (r.toNat, .commit (refSet r.toNat) (refSlot r.toNat) (refInc r.toNat) m)
  | .image r => (r.toNat, .image (refSet r.toNat))
  | .masks r vm tm => (r.toNat, .masks (refSet r.toNat) vm.toNat tm.toNat)
  | .fill r b => (r.toNat, .fill (refSet r.toNat) b)

/-- The answer of a fault to another package: the status byte, and the cause above it. -/
def faultAnswer (c : Nat) : Nat := 256 + c

/-- The KV unit of a tile performs one operation: the oldest that is waiting, or one of another package (R306). -/
def execKvUnitOperation (t : Nat) (remote : Option (Nat × KvRemote)) (ecc : Bool) (s : State) : Host.Outcome State Fault Refusal :=
  .next (match remote with
    | some (p, r) =>
      if !s.tileOk t then plinthArc s p (.kvAnswer 0x0E 0)
      else match kvPerform s t ecc false (remoteOp r).2 with
        | .ok (s, st, pay) => sendArc s t false p (.kvAnswer st (if st = 0 then pay else 0))
        | .error e => sendArc (kvReport s e) t false p (.kvAnswer (faultAnswer e.1) e.2)
    | none =>
      match (s.tile t).ring.kvq with
      | [] => s
      | m :: rest =>
        let s := s.modRing t fun x => { x with kvq := rest }
        let answer (s : State) (l : List Nat) : State :=
          match m.from' with
          | some k => s.modBk k fun b => { b with answer := some l }
          | none => s
        match kvLocal s t ecc false m.op with
        | .ok (s, st, pay) => answer s [kvValue st pay]
        | .error e => answer (kvReport s e) [e.1, e.2])

/-! ## Set operations of the banker (R311, R312) -/

/-- A set reference that returns BAD_ARG (R307, R312). -/
def badRef (s : State) (r : Nat) : Bool := bitOf r 63 || (refFar r && s.refusesPackage (refPkg r))

/-- A set operation sent to its home over the rings; an operation of the own tile is performed at once (R311, log entry 50). One for
another package waits until the arcade runs (spec/19_boundary.md R431). -/
def kvSend (s : State) (t : Nat) (d : BDst) (a : Word) (r : Nat) (op : KvOp) (pend : Nat) (slot : Option Nat) : BRes :=
  let stalled (s : State) (far : Bool) : BRes :=
    .keep ((s.modMem t fun m => { m with sbpend := m.sbpend + pend }).modBk t fun b =>
      { b with stall := .reply d far pend slot, answer := none })
  let slots := match op with
    | .write .. => (pend + 255) / 256
    | _ => 1
  if badRef s r then .nat s 0x01 1
  else if refFar r then
    (if !pendRoom (s.tile t).mem pend || !s.mgmt.arcUp then .keep s
     else stalled (injectMsg s t (refPkg r) (refTile r) slots
       (.out (.arcade (arcadePort s t false (refPkg r)) (refPkg r) (.kv (refTile r) op)))) true)
  else if !s.tileOk (refTile r) then .cause 0x1A a
  else if refTile r = t then
    match kvLocal s t false false op with
    | .ok (s, st, pay) => .nat s (kvValue st pay) 1
    | .error e => .faultWith (kvReport s e) { cause := e.1, info := BitVec.ofNat 64 e.2 }
  else if !pendRoom (s.tile t).mem pend then .keep s
  else stalled (injectMsg s t s.mgmt.arcNum (refTile r) slots (.kv { op := op, from' := some t })) false

/-- `kvalloc` (R307). -/
def execKvalloc (f : BForm) (s : State) : Host.Outcome State Fault Refusal :=
  runForm f s fun s t a _ =>
    if refSet a.toNat ≠ 0 then .nat s 0x01 1
    else kvSend s t f.dst a a.toNat (.alloc (refSlot a.toNat) (refInc a.toNat)) 0 none
/-- `kvfree` (R307). -/
def execKvfree (f : BForm) (s : State) : Host.Outcome State Fault Refusal :=
  runForm f s fun s t a _ => kvSend s t f.dst a a.toNat (.free (refSet a.toNat)) 0 none
/-- `kvref` (R307). -/
def execKvref (f : BForm) (s : State) : Host.Outcome State Fault Refusal :=
  runForm f s fun s t a _ => kvSend s t f.dst a a.toNat (.ref (refSet a.toNat)) 0 none
/-- `kvpin` (R307). -/
def execKvpin (f : BForm) (s : State) : Host.Outcome State Fault Refusal :=
  runForm f s fun s t a _ => kvSend s t f.dst a a.toNat (.pin (refSet a.toNat)) 0 none
/-- `kvunpin` (R307). -/
def execKvunpin (f : BForm) (s : State) : Host.Outcome State Fault Refusal :=
  runForm f s fun s t a _ => kvSend s t f.dst a a.toNat (.unpin (refSet a.toNat)) 0 none

/-- `kvcommit` (R316). -/
def execKvcommit (f : BForm) (s : State) : Host.Outcome State Fault Refusal :=
  runForm f s fun s t a b =>
    kvSend s t f.dst a a.toNat (.commit (refSet a.toNat) (refSlot a.toNat) (refInc a.toNat) b) 0 none

/-- RB of the pool that a write goes to; of one in another package, which is not known here, that of the own pool (log entry 51). -/
def rowBytesOf (s : State) (t r : Nat) : Nat := (s.tile (if refFar r then t else refTile r)).ring.rowBytes

/-- `kvwr` (R316): the descriptor and the rows are read through the shared port. -/
def execKvwr (f : BForm) (s : State) : Host.Outcome State Fault Refusal :=
  runAccess f s fun s t a _ =>
    match localCheck s t a.toNat 32 8 with
    | .error c => .cause c a
    | .ok (mt, off) => bankRead s t a mt off 32 1 fun s bytes =>
      let l := wordsOf 4 bytes
      let r := l.getD 0 0
      let w := l.getD 1 0
      let src := l.getD 2 0
      let head := fld w 12 8
      let nk := fld w 27 8 + 1
      if fld w 35 29 ≠ 0 ∨ fld src 20 44 ≠ 0 ∨ l.getD 3 0 ≠ 0 ∨ nk ≤ head ∨ badRef s r then .nat s 0x01 1
      else if !refFar r && !s.tileOk (refTile r) then .cause 0x1A a
      else
        let n := 2 * rowBytesOf s t r
        match localCheck s t src n 8 with
        | .error c => .cause c (BitVec.ofNat 64 src)
        | .ok (smt, soff) =>
          if localBlocked s t smt soff n true then .keep s
          else
            kvSend (usePort s t smt 0 ((n + 63) / 64)) t f.dst a r
              (.write (refSet r) (refSlot r) (refInc r) (fld w 0 12 * nk + head) (fld w 20 6) (bitOf w 26) (readMt s t smt soff n))
              n (some (refSlot r))

/-! ## Shard tables (R309, R310, R315) -/

/-- `shset`: an exchange at package scope, an acquire and a release, once the banker's earlier accesses are over (R315). -/
def execShset (f : BForm) (s : State) : Host.Outcome State Fault Refusal :=
  runAccess f s fun s t a b =>
    match globalCheck a.toNat 8 with
    | some c => .cause c a
    | none =>
      if !areaFree s t 0 a.toNat 8 then .keep (askArea s t 0 a.toNat 8)
      else match xlatNow s t a.toNat with
      | .error c => .cause c a
      | .ok (s', e) =>
        let pa := e.map a.toNat
        if !e.w then .cause 0x11 a
        else match homeFault s pa with
          | some c => .cause c a
          | none =>
            if outstanding (s.tile t).mem .banker != [] then .keep s
            else if s.ue then .faultWith (eccEvent s' pa) { cause := 0x14, info := a }
            else
              let (s, d) := perfAtomic (holdHome (eccNote s' pa) pa) t .package pa .b64 e.nc { op := .axchg, b := b }
              .done (acquirePoint s t .banker) (some { v := d }) 1

/-- A package-scope acquire load of bytes within one line, performed now; or its fault; or 0 while the banker's earlier accesses to the
bytes are outstanding, or a walk or a port is to be waited for (R315, spec/09_memory.md R210, R217, R218, R234). -/
def acquireRead (s : State) (t va n : Nat) : Except (State × Nat) (State × List Byte) :=
  if 2 ^ 56 ≤ va then .error (s, 0x0E)
  else if !areaFree s t 0 va n then .error (askArea s t 0 va n, 0)
  else match xlatNow s t va with
    | .error c => .error (s, c)
    | .ok (u, e) =>
      let pa := e.map va
      if blockedBy s t .banker (s.tile t).mem.nextId [(pa, n)] (some .package) then .error (s, 0)
      else match homeFault s pa with
        | some c => .error (s, c)
        | none =>
          if s.ue then .error (eccEvent u pa, 0x14)
          else .ok (perfLoadAs (holdHome (eccNote u pa) pa) t .package true pa n e.nc)

/-- The header of a shard table breaks R309. -/
def badShard (l : List Nat) : Bool :=
  let h := l.getD 0 0
  decide (4 < fld h 0 3) || fld h 3 5 != 0 || fld h 48 16 != 0 || fld (l.getD 1 0) 26 38 != 0 || fld (l.getD 2 0) 24 40 != 0 ||
    (l.drop 3).any (· != 0)

/-- Where the entry of a position stands in a table, with its generation and its place in the page (R310). -/
def shardPos (nsink w p : Nat) : Nat × Nat × Nat :=
  if p < 64 * nsink then (0x440 + 8 * (p / 64), 0, p % 64)
  else
    let x := p - 64 * nsink
    (0x460 + 8 * (x % w / 64), x / w % 65536, x % w % 64)

/-- The outcome of an entry (R310, R311). -/
def shardOutcome (e g j : Nat) : Nat :=
  if !bitOf e 0 then 0x09
  else
    let k := (g + 65536 - fld e 48 16) % 65536
    if k = 0 then fld e 10 20 * 2 ^ 8 + fld e 30 10 * 2 ^ 28 + fld e 40 8 * 2 ^ 38 + j * 2 ^ 46
    else if 2 ^ 15 ≤ k then 0x0A else 0x08

/-- `shget`: two acquire loads, of the header and of the entry (R315). -/
def execShget (f : BForm) (s : State) : Host.Outcome State Fault Refusal :=
  runAccess f s fun s t a b =>
    let fails (e : State × Nat) (va : Nat) : BRes :=
      if e.2 = 0 then .keep e.1 else .faultWith e.1 { cause := e.2, info := BitVec.ofNat 64 va }
    if a.toNat % 64 ≠ 0 ∨ fld b.toNat 40 24 ≠ 0 then .nat s 0x01 1
    else match acquireRead s t a.toNat 64 with
      | .error e => fails e a.toNat
      | .ok (u, bytes) =>
        let l := wordsOf 8 bytes
        if badShard l then .nat (acquirePoint u t .banker) 0x01 1
        else
          let (off, g, j) := shardPos (fld (l.getD 0 0) 0 3) (64 * (fld (l.getD 1 0) 0 26 + 1)) b.toNat
          let va := a.toNat + off
          match acquireRead u t va 8 with
          | .error e => fails (if e.2 = 0 then (askArea s t 0 va 8, 0) else e) va
          | .ok (u, bytes) => .nat (acquirePoint u t .banker) (shardOutcome (leNat bytes) g j) 1

end Sys2Proof.Machine
end

