-- ==== Sys2Proof/Machine/Rings.lean ====
section
/-!
DEFINITION. Query tokens: their layout (spec/13_rings.md R299, R300), the rings and the match unit (R296, R297, R301 to
R304), and the banker's `qform`, `qinj` and `ringst` (R313, R314, R317).
-/
namespace Sys2Proof.Machine

/-! ## The token (R299, R300) -/

/-- x rounded up to a multiple of 8. -/
def c8 (n : Nat) : Nat := (n + 7) / 8 * 8

/-- Itinerary entries of a header. -/
def tokNit (h : Nat) : Nat := fld h 53 8 + 1
/-- ITIX of a header. -/
def tokItix (h : Nat) : Nat := fld h 44 9
/-- Positions. -/
def tokNpos (h : Nat) : Nat := fld h 82 6 + 1
/-- Query heads. -/
def tokNqh (h : Nat) : Nat := fld h 79 3 + 1
/-- Rows nr. -/
def tokRows (h : Nat) : Nat := tokNqh h * tokNpos h
/-- Head dimension d. -/
def tokDim (h : Nat) : Nat := fld h 88 8 + 1
/-- QFMT. -/
def tokQfmt (h : Nat) : Nat := fld h 96 2
/-- Element size of QFMT. -/
def tokElem (h : Nat) : Nat := if tokQfmt h = 0 then 4 else 2
/-- The format QFMT names. -/
def tokFmt (h : Nat) : Fmt := wideFmt (if tokQfmt h = 0 then .f32 else if tokQfmt h = 1 then .f16 else .b16)
/-- Offset of the queries. -/
def tokQ (h : Nat) : Nat := 0x20 + c8 (4 * tokNit h)
/-- Bytes of a query row. -/
def tokQrow (h : Nat) : Nat := c8 (tokDim h * tokElem h)
/-- Offset of m. -/
def tokM (h : Nat) : Nat := tokQ h + tokRows h * tokQrow h
/-- Offset of l. -/
def tokL (h : Nat) : Nat := tokM h + c8 (4 * tokRows h)
/-- Offset of acc. -/
def tokAcc (h : Nat) : Nat := tokL h + c8 (4 * tokRows h)
/-- Size of the token. -/
def tokSize (h : Nat) : Nat := tokAcc h + 4 * tokRows h * tokDim h

/-- A header that the match unit discards: Reserved bits, or QFMT = 3 (R304). -/
def tokBad (h : Nat) : Bool := fld h 101 27 != 0 || tokQfmt h == 3

/-- The header of some token bytes. -/
def hdrOf (bytes : List Byte) : Nat := leNat (bytes.take 16)

/-- Token bytes under another header. -/
def withHdr (h : Nat) (bytes : List Byte) : List Byte := leBytes 16 h ++ bytes.drop 16

/-- A little-endian number in some bytes. -/
def numAt (bytes : List Byte) (off n : Nat) : Nat := leNat ((bytes.drop off).take n)

/-- A token's destination: package and tile (R301). -/
def tokDest (bytes : List Byte) : Nat × Nat :=
  let h := hdrOf bytes
  if tokNit h ≤ tokItix h then (fld h 71 8, fld h 61 10)
  else
    let e := numAt bytes (0x20 + 4 * tokItix h) 4
    (fld e 10 8, fld e 0 10)

/-! ## The match unit (R302 to R304) -/

/-- QSKIP.SKIP of a tile raised. -/
def countSkip (s : State) (t : Nat) : State := s.modRing t fun x => { x with qskip := min (x.qskip + 1) 65535 }

/-- Slots that a token takes on a course ring (R299). -/
def tokSlots (bytes : List Byte) : Nat := (bytes.length + 255) / 256

/-- The tile a token is addressed to is one that no message reaches: not assigned here, or of a package that the arcade does not hold. -/
def noTarget (s : State) (p n : Nat) : Bool :=
  if p = s.mgmt.arcNum then !s.tileOk n else s.mgmt.arcUp && !s.mgmt.arcList.contains p

/-- A token put in a stop's injection queue for its destination by R301; one for a tile that is not assigned is discarded and counted
(R304). -/
def addressTok (s : State) (t : Nat) (bytes : List Byte) : State :=
  let (p, n) := tokDest bytes
  if noTarget s p n then countDrop s t else injectMsg s t p n (tokSlots bytes) (.query bytes)

/-- The lowest valid match entry for a header (R304). -/
def matchEntry (x : RingStop) (h : Nat) : Option Nat :=
  (List.range 256).find? fun i =>
    let m := Tab.get x.entries i
    bitOf m 63 && fld m 0 24 == fld h 0 24 && decide (fld m 24 12 ≤ fld h 24 12) &&
      decide (fld h 24 12 ≤ fld m 24 12 + fld m 36 12)

/-- Entries of the query FIFO that a token takes (R299). -/
def tokEntries (bytes : List Byte) : Nat := (bytes.length + 63) / 64

/-- What the match unit of a tile decides about a token: it is discarded, it is diverted, by a match entry or as a token at its return
tile, or it goes on (R304). -/
inductive TokFate where
  | discard
  | divert (e : Option Nat)
  | onward
deriving DecidableEq, Repr

/-- The decision on a header (R304). -/
def tokFate (x : RingStop) (h : Nat) : TokFate :=
  if tokBad h then .discard
  else if tokNit h = tokItix h then .divert none
  else match (if bitOf x.rscfg.toNat 63 then matchEntry x h else none) with
    | some i => .divert (some i)
    | none => .onward

/-- The query FIFO has room for a token (R304). -/
def fifoRoom (x : RingStop) (bytes : List Byte) : Bool := decide (x.used + tokEntries bytes ≤ 1024)

/-- Room in the query FIFO reserved for a token, with its side data; `msg` is the ring message whose slots are still to come, 0 for none
(R304, spec/14_attention.md R327). -/
def reserveFifo (s : State) (t : Nat) (bytes : List Byte) (e : Option Nat) (msg : Nat) : State :=
  s.modRing t fun x =>
    let m := match e with
      | some i => Tab.get x.entries i
      | none => 0
    let q : QTok := { start := x.next, size := bytes.length, ret := e.isNone, e := e.getD 0, list := fld m 64 20,
                      lfirst := fld m 24 12, lcm1 := fld m 36 12, msg := msg }
    { x with fifo := x.fifo ++ [q], used := x.used + tokEntries bytes, next := (x.next + tokEntries bytes) % 1024 }

/-- A token under its next itinerary entry. -/
def nextEntry (bytes : List Byte) : List Byte :=
  let h := hdrOf bytes
  withHdr (setFld h 44 9 (tokItix h + 1)) bytes

/-- A whole token presented to the match unit of a tile without the ring (spec/14_attention.md R336). -/
def presentTok (s : State) (t : Nat) (bytes : List Byte) : State :=
  let x := (s.tile t).ring
  match tokFate x (hdrOf bytes) with
  | .discard => countDrop s t
  | .divert e =>
    if fifoRoom x bytes then
      semRaise (writeFifo (reserveFifo s t bytes e 0) t (x.next * 64) bytes) t (fld (s.tile t).seq.ascfg.toNat 16 8) 1
    else s
  | .onward => addressTok (countSkip s t) t (nextEntry bytes)

/-- What the first slot of a token decides at a stop, and the state with it; a token that goes on to this same tile is examined again at
once (R304; log entry 141). -/
def examineAt (s : State) (t id : Nat) : Nat → List Byte → State × RingWay
  | 0, _ => (s, .lap)
  | fuel + 1, bytes =>
    let x := (s.tile t).ring
    match tokFate x (hdrOf bytes) with
    | .discard => (countDrop s t, .gone)
    | .divert e => if fifoRoom x bytes then (reserveFifo s t bytes e id, .taken) else (s, .lap)
    | .onward =>
      let bytes := nextEntry bytes
      let (p, n) := tokDest bytes
      let s := countSkip s t
      if noTarget s p n then (countDrop s t, .gone)
      else
        let s := s.modMsg id fun m => { m with load := .query bytes, src := t }
        if p = s.mgmt.arcNum ∧ n = t then examineAt s t id fuel bytes else (s, .onward p n)

/-- The first slot of a query token at the stop of a tile is examined, and follows what is decided; the slots behind it will. -/
def examineSlot (s : State) (t : Nat) : State :=
  let r := physOf s.hw t / 16
  let p := physOf s.hw t % 16
  match s.net.slot r 0 p with
  | none => s
  | some x => match s.net.msg? x.msg with
    | some { load := .query bytes, .. } =>
      let (s, w) := examineAt s t x.msg 2 bytes
      followWay (if x.n = 1 then s else s.modMsg x.msg fun m => { m with ways := Tab.put m.ways t w }) r 0 p x w
    | _ => s

/-- MATCH_UNIT_EXAMINE: the first slot of a token reaches the stop that it is addressed to (R304); a token of another package comes to the
plinth, where it waits while full is raised (R298), or is discarded for want of its tile, which its sender counts. -/
def execMatchUnitExamine (src : TokSrc) (s : State) : Host.Outcome State Fault Refusal :=
  .next (match src with
    | .stop t => if s.net.exams.contains t then examineSlot (s.modNet fun n => { n with exams := n.exams.erase t }) t else s
    | .arcade pkg stop t bytes =>
      if !s.tileOk t then plinthArc s pkg (.dropped stop)
      else if bytes = [] || raisesFull (s.net.links.filter fun l => l.wall == 4 && !l.sent).length then s
      else injectPlinth s 1024 t (tokSlots bytes) (.query bytes)
    | .dropped stop => countDrop s stop)

/-! ## qform, qinj, ringst (R313, R314, R317) -/

/-- log2(e) / √d rounded to F32 (R313), from log2(e) with 256 fraction bits. -/
def attnScale (d : Nat) : Nat :=
  let l := 2 ^ (2 * fxBits) / ln2Fx
  f32Fmt.round .rne (.fin false (2 * isqrt 260 (l * l / d) + 1) 1 (-(fxBits : Int) - 1))

/-- The checks of a header that come before ITIN_BAD (R313, R314). -/
def tokCheck (h pos0 : Nat) (itix : Bool) : Nat :=
  if tokBad h || bitOf h 100 || bitOf h 98 || fld pos0 40 24 != 0 || !itix then 0x01
  else if 64 < tokRows h || 65536 < tokSize h then 0x0D
  else 0

/-- An itinerary with Reserved bits set or entries that repeat (R312). -/
def itinBad (bytes : List Byte) (nit : Nat) : Bool :=
  let l := (List.range nit).map fun i => numAt bytes (4 * i) 4
  l.any (fun e => fld e 18 14 != 0) || !decide l.Nodup

/-- Bytes padded with zeros to a length. -/
def padTo (n : Nat) (l : List Byte) : List Byte := l ++ List.replicate (n - l.length) 0

/-- The queries of a new token: F32 values scaled and rounded into QFMT (R313). -/
def queryRow (h : Nat) (scale : Bool) (src : List Byte) (r : Nat) : List Byte :=
  let d := tokDim h
  let c := f32Fmt.decode (attnScale d)
  padTo (tokQrow h) ((List.range d).flatMap fun i =>
    let x := f32Fmt.decode (numAt src (4 * (r * d + i)) 4)
    leBytes (tokElem h) ((tokFmt h).round .rne (if scale then x.mul c else x)))

/-- The token `qform` writes (R299, R313). -/
def newToken (h pos0 : Nat) (scale : Bool) (itin src : List Byte) : List Byte :=
  let nr := tokRows h
  leBytes 16 h ++ leBytes 8 pos0 ++ leBytes 8 0 ++ padTo (c8 (4 * tokNit h)) itin ++
    (List.range nr).flatMap (queryRow h scale src) ++
    padTo (c8 (4 * nr)) ((List.replicate nr ()).flatMap fun _ => leBytes 4 0xFF800000) ++
    List.replicate (c8 (4 * nr) + 4 * nr * tokDim h) 0

/-- The banker issues nothing further for some cycles. -/
def holdIssue (s : State) (t n : Nat) : State := s.modBk t fun b => { b with nextIssue := max b.nextIssue (s.cyc + n) }

/-- `qform` (R313). -/
def execQform (f : BForm) (s : State) : Host.Outcome State Fault Refusal :=
  runAccess f s fun s t a b =>
    match localCheck s t a.toNat 32 8 with
    | .error c => .cause c a
    | .ok (mt, off) => bankRead s t a mt off 32 1 fun s bytes =>
      let h := hdrOf bytes
      let pos0 := numAt bytes 16 8
      let w := numAt bytes 24 8
      let st := tokCheck h pos0 (tokItix h == 0 && fld w 41 23 == 0)
      if st ≠ 0 then .nat s st 2
      else
        let its := fld w 20 20
        let qs := fld w 0 20
        match localCheck s t its (4 * tokNit h) 4 with
        | .error c => .cause c (BitVec.ofNat 64 its)
        | .ok (imt, ioff) =>
          let itin := readMt s t imt ioff (4 * tokNit h)
          if itinBad itin (tokNit h) then .nat s 0x0C 2
          else
            let n := 4 * tokRows h * tokDim h
            match localCheck s t qs n 4, localCheck s t b.toNat (tokSize h) 8 with
            | .error c, _ => .cause c (BitVec.ofNat 64 qs)
            | .ok _, .error c => .cause c b
            | .ok (qmt, qoff), .ok (bmt, boff) =>
              if localBlocked s t imt ioff (4 * tokNit h) true || localBlocked s t qmt qoff n true || localBlocked s t bmt boff (tokSize h) false
              then .keep s
              else
              let tok := newToken h pos0 (!bitOf w 40) itin (readMt s t qmt qoff n)
              let s := usePort (writeMt s t bmt boff tok none) t bmt 0 ((tokSize h + 63) / 64)
              .nat (holdIssue s t (2 + (tokSize h + 63) / 64)) (tokSize h * 2 ^ 8) 1

/-- `qinj` (R314). -/
def execQinj (f : BForm) (s : State) : Host.Outcome State Fault Refusal :=
  runAccess f s fun s t a _ =>
    match localCheck s t a.toNat 32 8 with
    | .error c => .cause c a
    | .ok (mt, off) => bankRead s t a mt off 32 1 fun s bytes =>
      let h := hdrOf bytes
      let st := tokCheck h (numAt bytes 16 8) (decide (tokItix h ≤ tokNit h))
      if st ≠ 0 then .nat s st 2
      else match localCheck s t a.toNat (tokSize h) 8 with
        | .error c => .cause c a
        | .ok (mt, off) =>
          let tok := readMt s t mt off (tokSize h)
          if localBlocked s t mt off (tokSize h) true then .keep s
          else if itinBad (tok.drop 0x20) (tokNit h) then .nat s 0x0C 2
          else
            let s := usePort s t mt 0 (1 + (tokSize h + 63) / 64)
            .nat (holdIssue (addressTok s t tok) t (2 + (tokSize h + 63) / 64)) (tokSlots tok * 2 ^ 8) 1

/-- An instruction of `ringst` whose operation is `op`; the other operations stand in their own meanings (R317). -/
def runRingst (f : BForm) (s : State) (body : State → Nat → Nat → Word → BRes) : Host.Outcome State Fault Refusal :=
  runAccess f s fun s t a b => if fld a.toNat 8 2 = 3 then .nat s 0x01 1 else body s t (fld a.toNat 0 8) b

/-- `ringst` operation 0: the entry read into the image. -/
def execRingstRead (f : BForm) (s : State) : Host.Outcome State Fault Refusal :=
  runRingst f s fun s t i b =>
    match localCheck s t b.toNat 16 8 with
    | .error c => .cause c b
    | .ok (mt, off) => bankPort s t mt off 16 false fun s =>
      .nat (writeMt s t mt off (leBytes 16 (Tab.get (s.tile t).ring.entries i)) none) 0 1

/-- `ringst` operation 1: the image written to the entry. -/
def execRingstWrite (f : BForm) (s : State) : Host.Outcome State Fault Refusal :=
  runRingst f s fun s t i b =>
    match localCheck s t b.toNat 16 8 with
    | .error c => .cause c b
    | .ok (mt, off) => bankRead s t b mt off 16 1 fun s bytes =>
      let v := leNat bytes
      if fld v 84 44 ≠ 0 ∨ fld v 48 15 ≠ 0 then .nat s 0x01 1
      else .nat (s.modRing t fun x => { x with entries := Tab.set x.entries i v }) 0 1

/-- `ringst` operation 2: V cleared. -/
def execRingstClear (f : BForm) (s : State) : Host.Outcome State Fault Refusal :=
  runRingst f s fun s t i _ => .nat (s.modRing t fun x => { x with entries := Tab.modify x.entries i fun m => setFld m 63 1 0 }) 0 1

end Sys2Proof.Machine
end

