-- ==== Sys2Proof/Machine/Sampling.lean ====
section
/-!
DEFINITION. The arithmetic of sampling (spec/16_sampling.md R357 to R361, R365, R366): ChaCha20 draws, the Gumbel noise and
the score of an index, the ranking of pairs, and the log-sum-exp partial.
-/
namespace Sys2Proof.Machine

/-! ## The draw (R357, RFC 8439 section 2.3) -/

/-- A 32-bit word rotated left. -/
def rotl32 (x n : Nat) : Nat := x * 2 ^ n % 2 ^ 32 + x / 2 ^ (32 - n)

/-- One add, exclusive-or and rotate on three words of the block: a += b; d := (d xor a) rotated left by n. -/
def chachaStep (a b d n : Nat) (l : List Nat) : List Nat :=
  let l := modifyNth (fun x => (x + l.getD b 0) % 2 ^ 32) a l
  modifyNth (fun x => rotl32 (x ^^^ l.getD a 0) n) d l

/-- A quarter round. -/
def quarterRound (a b c d : Nat) (l : List Nat) : List Nat :=
  chachaStep c d b 7 (chachaStep a b d 8 (chachaStep c d b 12 (chachaStep a b d 16 l)))

/-- A column round and a diagonal round. -/
def doubleRound (l : List Nat) : List Nat :=
  let l := quarterRound 3 7 11 15 (quarterRound 2 6 10 14 (quarterRound 1 5 9 13 (quarterRound 0 4 8 12 l)))
  quarterRound 3 4 9 14 (quarterRound 2 7 8 13 (quarterRound 1 6 11 12 (quarterRound 0 5 10 15 l)))

/-- Some double rounds. -/
def chachaRounds : Nat → List Nat → List Nat
  | 0, l => l
  | n + 1, l => chachaRounds n (doubleRound l)

/-- The block of a key, a counter and a nonce, as 16 words. -/
def chachaBlock (key counter nonce : Nat) : List Nat :=
  let start := [0x61707865, 0x3320646E, 0x79622D32, 0x6B206574] ++ (List.range 8).map (fun i => fld key (32 * i) 32) ++
    [counter % 2 ^ 32] ++ (List.range 3).map (fun i => fld nonce (32 * i) 32)
  (start.zip (chachaRounds 10 start)).map fun p => (p.1 + p.2) % 2 ^ 32

/-! ## The descriptor (R358), as one 512-bit number -/

/-- VSM1 of a sampling descriptor. -/
def sdVsm1 (d : Nat) : Nat := fld d 384 18
/-- GREEDY of a sampling descriptor. -/
def sdGreedy (d : Nat) : Bool := bitOf d 409
/-- DRES of a sampling descriptor. -/
def sdDres (d : Nat) : Bool := bitOf d 410
/-- DBASE of a sampling descriptor. -/
def sdDbase (d : Nat) : Nat := fld d 448 32

/-- The descriptor is bad. -/
def sdBad (d : Nat) : Bool :=
  fld d 296 24 != 0 || fld d 411 37 != 0 || fld d 480 32 != 0 || decide (sdVsm1 d + 1 < fld d 402 7) ||
    (!sdDres d && sdDbase d != 0)

/-- Word `i` of draw `c` (R357). -/
def drawWord (d c i : Nat) : Nat :=
  (chachaBlock (fld d 0 256) c (fld d 256 40 + fld d 320 32 * 2 ^ 64)).getD i 0

/-! ## Noise and score (R359, R360) -/

/-- A value rounded to F32. -/
def f32Rne (x : FVal) : FVal := f32Fmt.decode (f32Fmt.round .rne x)

/-- LN2 of R359. -/
def ln2F32 : FVal := f32Fmt.decode 0x3F317218

/-- −x × LN2, rounded. -/
def negLn2 (x : FVal) : FVal := f32Rne (x.negate.mul ln2F32)

/-- The Gumbel noise of an index. -/
def gumbelVal (d v : Nat) : FVal :=
  let w := fld (drawWord d (v / 16) (v % 16)) 8 24
  negLn2 (f32Rne (log2Val (negLn2 (f32Rne (log2Val (.fin false (2 * w + 1) 1 (-25)))))))

/-- The score of an index with an F32 logit, as an F32 code. -/
def scoreOf (d v z : Nat) : Nat :=
  if sdGreedy d then f32Fmt.round .rne (f32Fmt.decode z)
  else f32Fmt.round .rne (FVal.add .rne (f32Rne (FVal.div (f32Fmt.decode z) (f32Fmt.decode (fld d 352 32)))) (gumbelVal d v))

/-! ## Ranking (R361, spec/11_systolic.md R274) -/

/-- Comparison of two keys by value: −0 equals +0, NaN below every other value and equal to every NaN. -/
def keyCmp (a b : FVal) : Int :=
  if a.isNan then (if b.isNan then 0 else -1) else if b.isNan then 1 else FVal.cmp a b

/-- (a, i) ranks before (b, j): the greater key, then the lower index. -/
def ranksBefore (a : FVal) (i : Nat) (b : FVal) (j : Nat) : Bool :=
  keyCmp a b == 1 || (keyCmp a b == 0 && decide (i < j))

/-- `smax` (R365). -/
def smaxResult (a b : Word) : Word :=
  let va := f32Fmt.decode (fld a.toNat 0 32)
  let vb := f32Fmt.decode (fld b.toNat 0 32)
  if ranksBefore vb (fld b.toNat 32 32) va (fld a.toNat 32 32) then b else a

/-! ## The log-sum-exp partial (R366) -/

/-- The factor of a part whose maximum is `m` under a common maximum `top`. -/
def lseFactor (m top : FVal) : FVal :=
  if m == .inf true then .zero false
  else if FVal.cmp m top == 0 then .fin false 1 1 0
  else f32Rne (exp2Val (f32Rne (FVal.add .rne m top.negate)))

/-- `slse` (R366). -/
def slseResult (merge : Bool) (a b : Word) : Word :=
  let m1 := f32Fmt.decode (fld a.toNat 0 32)
  let l1 := f32Fmt.decode (fld a.toNat 32 32)
  let m2 := f32Fmt.decode (fld b.toNat 0 32)
  let l2 := if merge then f32Fmt.decode (fld b.toNat 32 32) else if m2 == .inf true then .zero false else .fin false 1 1 0
  if m1.isNan || l1.isNan || m2.isNan || l2.isNan then BitVec.ofNat 64 0x7FC000007FC00000
  else
    let top := fmaxVal m1 m2
    let x := f32Rne ((lseFactor m1 top).mul l1)
    let y := f32Rne ((lseFactor m2 top).mul l2)
    BitVec.ofNat 64 (f32Fmt.round .rne (FVal.add .rne x y) * 2 ^ 32 + f32Fmt.round .rne top)

end Sys2Proof.Machine
end

