-- ==== Sys2Proof/Machine/Attention.lean ====
section
/-!
DEFINITION. The attention sequencer (spec/14_attention.md): the banker's instructions that load, start and stop it (R321), the
frame every microword runs in (R318, R325, R337), and the microwords (R325 to R336).
-/
namespace Sys2Proof.Machine

/-! ## Registers and working data (R319 to R323) -/

/-- The sequencer may act: it runs, and its last microword has completed. -/
def Seq.mayIssue (q : Seq) (cyc : Nat) : Bool := q.st == 1 && decide (q.nextIssue ≤ cyc) && q.engine == 0

/-- TILE.ASSTAT of a sequencer (R320). -/
def Seq.stat (q : Seq) : Nat := q.st + q.pc * 2 ^ 16 + q.cause * 2 ^ 32 + q.acause * 2 ^ 48

/-- The query FIFO's memory tile. -/
def State.qmt (s : State) (t : Nat) : Nat := fld (s.tile t).ring.rscfg.toNat 0 4
/-- The work tile. -/
def State.wmt (s : State) (t : Nat) : Nat := fld (s.tile t).seq.ascfg.toNat 4 4
/-- The page tile. -/
def State.pmt (s : State) (t : Nat) : Nat := fld (s.tile t).seq.ascfg.toNat 8 4

/-- The three memory tiles are distinct and reserved to the banker (R319). -/
def seqCfgOk (s : State) (t : Nat) : Bool :=
  let q := s.qmt t
  let w := s.wmt t
  let p := s.pmt t
  q != w && q != p && w != p && s.reserved t q && s.reserved t w && s.reserved t p

/-- A number in the work tile (R322). -/
def workNat (s : State) (t off n : Nat) : Nat := leNat (readMt s t (s.wmt t) off n)

/-- Bytes written to the work tile. -/
def workPut (s : State) (t off : Nat) (bytes : List Byte) : State := writeMt s t (s.wmt t) off bytes none

/-- The third double word of the page record: LI, STEP and CUR. -/
def pageWord (s : State) (t : Nat) : Nat := workNat s t 0x4410 8
/-- A set is pinned as the current page. -/
def curPage (s : State) (t : Nat) : Bool := bitOf (pageWord s t) 19
/-- The last page step done. -/
def pageStep (s : State) (t : Nat) : Nat := fld (pageWord s t) 16 3
/-- LI. -/
def listIndex (s : State) (t : Nat) : Nat := fld (pageWord s t) 0 16
/-- A field of the page record's third double word written. -/
def setPageWord (s : State) (t lo n v : Nat) : State := workPut s t 0x4410 (leBytes 8 (setFld (pageWord s t) lo n v))

/-- The current page unpinned, where there is one; an unpin is performed whatever EN holds (R328, spec/13_rings.md R305). Or the state
that an access fault leaves, and its cause. -/
def unpinPage (s : State) (t : Nat) : Except (State × Nat) State :=
  if !curPage s t then .ok s
  else match kvLocal s t false true (.unpin (fld (workNat s t 0x4400 8) 0 20)) with
    | .error r => .error (kvReport s r, r.1)
    | .ok (s, _, _) => .ok (setPageWord s t 19 1 0)

/-- The sequencer idle, its page unpinned: what `mhalt` does, and a stop or a cleared fault of `asstat` (R321, R325). An unpin
that meets an access fault leaves the sequencer faulted (spec/13_rings.md R306). -/
def seqIdle (s : State) (t : Nat) : State :=
  match unpinPage s t with
  | .ok s => s.modSeq t fun q => { q with st := 0, cause := 0, acause := 0, stopReq := false }
  | .error (s, c) => s.modSeq t fun q => { q with st := 3, cause := 5, acause := c, stopReq := false }

/-! ## Banker instructions (R321) -/

/-- The microwords of some bytes, stored from an address on. -/
def loadStore (store : Tab Nat) (at' : Nat) (bytes : List Byte) (n : Nat) : Tab Nat :=
  (List.range n).foldl (fun t i => Tab.set t (at' + i) (leNat ((bytes.drop (4 * i)).take 4))) store

/-- `asld`: its microwords are read through the shared port, eight bytes a cycle. -/
def execAsld (f : BForm) (s : State) : Host.Outcome State Fault Refusal :=
  runAccess f s fun s t a b =>
    let cs := fld b.toNat 0 10
    let n := fld b.toNat 10 11
    if b.toNat / 2 ^ 21 ≠ 0 ∨ n = 0 ∨ 1024 < n ∨ 1024 < cs + n then .nat s 0x01 1
    else if (s.tile t).seq.st ≠ 0 then .nat s 0x02 1
    else match localCheck s t a.toNat (4 * n) 4 with
      | .error c => .cause c a
      | .ok (mt, off) => bankRead s t a mt off (4 * n) ((n + 1) / 2) fun s bytes =>
        .nat (holdIssue (s.modSeq t fun q => { q with store := loadStore q.store cs bytes n }) t (2 + (n + 1) / 2)) 0 1

/-- A write of GO = 1: an idle sequencer starts two cycles later (R320). -/
def seqGo (s : State) (t entry : Nat) : State :=
  if (s.tile t).seq.st ≠ 0 then s
  else schedule (s.modSeq t fun q => { q with entry := entry, starting := true }) (s.cyc + 2) (.sequencerStart t)

/-- `asgo`. -/
def execAsgo (f : BForm) (s : State) : Host.Outcome State Fault Refusal :=
  runForm f s fun s t a b =>
    if a.toNat / 2 ^ 10 ≠ 0 then .nat s 0x01 2
    else if (s.tile t).seq.st ≠ 0 then .nat s 0x02 2
    else .nat (seqGo (s.modSeq t fun q => { q with a := Tab.set q.a 0 { v := b } }) t (fld a.toNat 0 10)) 0 2

/-- The sequencer starts at ENTRY (R320). -/
def execSequencerStart (t : Nat) (s : State) : Host.Outcome State Fault Refusal :=
  .next (s.modSeq t fun q => if q.starting && q.st == 0 then { q with starting := false, st := 1, pc := q.entry, nextIssue := s.cyc } else q)

/-- An instruction of `asstat`: the payload is ASSTAT as it stood before the operation. -/
def runAsstat (f : BForm) (s : State) (op : State → Nat → State) : Host.Outcome State Fault Refusal :=
  runForm f s fun s t a _ =>
    if a.toNat / 4 ≠ 0 ∨ a.toNat % 4 = 3 then .nat s 0x01 2 else .nat (op s t) (fld (s.tile t).seq.stat 0 40 * 2 ^ 8) 2

/-- `asstat` operation 0. -/
def execAsstatRead (f : BForm) (s : State) : Host.Outcome State Fault Refusal := runAsstat f s fun s _ => s

/-- `asstat` operation 1: a faulted sequencer becomes idle. -/
def execAsstatClear (f : BForm) (s : State) : Host.Outcome State Fault Refusal :=
  runAsstat f s fun s t => if (s.tile t).seq.st = 3 then seqIdle s t else s

/-- `asstat` operation 2: a waiting sequencer becomes idle, a running one at its next microword boundary. -/
def execAsstatStop (f : BForm) (s : State) : Host.Outcome State Fault Refusal :=
  runAsstat f s fun s t =>
    let q := (s.tile t).seq
    if q.st = 2 ∨ (q.mayIssue s.cyc ∧ q.mid = .none) then seqIdle s t
    else if q.st = 1 then s.modSeq t fun q => { q with stopReq := true }
    else s

/-! ## The frame of a microword (R318, R325, R337) -/

/-- What a microword comes to. -/
inductive SeqRes where
  /-- it completes after some cycles, writing a register, and goes on behind it or at a target -/
  | done (s : State) (d : Option (Fin 16 × PReg)) (target : Option Nat) (cycles : Nat)
  /-- it waits and is tried again -/
  | keep (s : State)
  | fault (s : State) (cause acause : Nat)
deriving Inhabited

/-- A microword that writes one register. -/
def SeqRes.val (s : State) (d : Fin 16) (v cycles : Nat) : SeqRes := .done s (some (d, { v := BitVec.ofNat 64 v })) none cycles

/-- A microword that writes no register. -/
def SeqRes.ok (s : State) (cycles : Nat) : SeqRes := .done s none none cycles

/-- A faulting microword: the sequencer stands faulted at it, and AS_FAULT is raised in its tile's banker (R337). -/
def seqFault (s : State) (t cause acause : Nat) : State :=
  let s := s.modSeq t fun q => { q with st := 3, cause := cause, acause := acause }
  postTrap s t { trap := { cause := 0x1F, posted := true, info := BitVec.ofNat 64 (s.tile t).seq.stat }, rank := 2 }

/-- The state after a microword. -/
def settleSeq (s : State) (t : Nat) (r : SeqRes) : State :=
  match r with
  | .done s' d target n => s'.modSeq t fun q =>
      { q with a := (match d with
                 | some (i, v) => Tab.set q.a i.val v
                 | none => q.a),
               pc := target.getD ((q.pc + 1) % 1024), nextIssue := s.cyc + n }
  | .keep s' => s'
  | .fault s' c ac => seqFault s' t c ac

/-- A sequencer register. -/
def aReg (s : State) (t : Nat) (i : Fin 16) : PReg := Tab.get (s.tile t).seq.a i.val

/-- The value of a sequencer register. -/
def aVal (s : State) (t : Nat) (i : Fin 16) : Nat := (aReg s t i).v.toNat

/-- A microword of the acting sequencer; a poisoned source faults it, or spreads to its destination (R68, R70, R326). -/
def runSeq (reads : List (Fin 16)) (stops : Bool) (dst : Option (Fin 16)) (body : State → Nat → SeqRes) (s : State) :
    Host.Outcome State Fault Refusal :=
  let t := s.actor
  .next (if !(s.tile t).seq.mayIssue s.cyc then s
    else settleSeq s t (match (reads.map (aReg s t)).find? (·.poison) with
      | some p => if stops then .fault s 1 0 else .done s (dst.map fun i => (i, p)) none 1
      | none => body s t))

/-! ## Plain microwords (R325) -/

/-- An unassigned microword (spec/02_words.md R68). -/
def execMPoisonWord (w : Word32) (s : State) : Host.Outcome State Fault Refusal :=
  runSeq [] false none (fun s t => .done s
    (some (⟨fld w.toNat 22 4 % 16, Nat.mod_lt _ (by decide)⟩, { v := originM t (s.tile t).seq.pc, poison := true })) none 1) s

/-- `mnop`. -/
def execMNop (s : State) : Host.Outcome State Fault Refusal := runSeq [] false none (fun s _ => .ok s 1) s

/-- `mmov`. -/
def execMMov (d a : Fin 16) (s : State) : Host.Outcome State Fault Refusal :=
  runSeq [a] false (some d) (fun s t => .val s d (aVal s t a) 1) s

/-- A sum of sequencer registers, modulo 2^64. -/
def seqSum (a b : Nat) : Nat := (a + b) % 2 ^ 64

/-- A difference, modulo 2^64. -/
def seqDiff (a b : Nat) : Nat := (a + (2 ^ 64 - b % 2 ^ 64)) % 2 ^ 64

/-- `madd` with two registers. -/
def execMAdd (d a b : Fin 16) (s : State) : Host.Outcome State Fault Refusal :=
  runSeq [a, b] false (some d) (fun s t => .val s d (seqSum (aVal s t a) (aVal s t b)) 1) s

/-- `madd` with an immediate. -/
def execMAddImm (d a : Fin 16) (i : BitVec 10) (s : State) : Host.Outcome State Fault Refusal :=
  runSeq [a] false (some d) (fun s t => .val s d (seqSum (aVal s t a) (i.signExtend 64).toNat) 1) s

/-- `msub` with two registers. -/
def execMSub (d a b : Fin 16) (s : State) : Host.Outcome State Fault Refusal :=
  runSeq [a, b] false (some d) (fun s t => .val s d (seqDiff (aVal s t a) (aVal s t b)) 1) s

/-- `msub` with an immediate. -/
def execMSubImm (d a : Fin 16) (i : BitVec 10) (s : State) : Host.Outcome State Fault Refusal :=
  runSeq [a] false (some d) (fun s t => .val s d (seqDiff (aVal s t a) (i.signExtend 64).toNat) 1) s

/-- `mli`. -/
def execMLi (d : Fin 16) (i : BitVec 22) (s : State) : Host.Outcome State Fault Refusal :=
  runSeq [] false (some d) (fun s _ => .val s d (i.signExtend 64).toNat 1) s

/-- A branch of the sequencer. -/
def seqBranch (s : State) (taken : Bool) (n : BitVec 10) : SeqRes := .done s none (if taken then some n.toNat else none) 1

/-- `mbz`. -/
def execMBz (a : Fin 16) (n : BitVec 10) (s : State) : Host.Outcome State Fault Refusal :=
  runSeq [a] true none (fun s t => seqBranch s (aVal s t a == 0) n) s

/-- `mbnz`. -/
def execMBnz (a : Fin 16) (n : BitVec 10) (s : State) : Host.Outcome State Fault Refusal :=
  runSeq [a] true none (fun s t => seqBranch s (aVal s t a != 0) n) s

/-- `mjmp`. -/
def execMJmp (n : BitVec 10) (s : State) : Host.Outcome State Fault Refusal := runSeq [] true none (fun s _ => seqBranch s true n) s

/-- `mloop`. -/
def execMLoop (d : Fin 16) (n : BitVec 10) (s : State) : Host.Outcome State Fault Refusal :=
  runSeq [d] true none (fun s t =>
    let v := seqDiff (aVal s t d) 1
    .done s (some (d, { v := BitVec.ofNat 64 v })) (if v ≠ 0 then some n.toNat else none) 1) s

/-- `mwait`: the test may pass at once; otherwise the sequencer waits (R326). -/
def execMWait (take : Bool) (d a : Fin 16) (sem : BitVec 8) (s : State) : Host.Outcome State Fault Refusal :=
  runSeq [a] true none (fun s t =>
    let thr := fld (aVal s t a) 0 32
    let v := s.semOf t sem.toNat
    if thr ≤ v then .val (passTest s t sem.toNat thr take) d v 1
    else .keep (s.modSeq t fun q =>
      { q with st := 2, mwSem := sem.toNat, mwThr := thr, mwTake := take, mwDst := d.val })) s

/-- The test of a waiting sequencer succeeds (R326). -/
def execMwaitPass (t : Nat) (s : State) : Host.Outcome State Fault Refusal :=
  let q := (s.tile t).seq
  .next (if q.st = 2 ∧ q.mwThr ≤ s.semOf t q.mwSem then
      (passTest s t q.mwSem q.mwThr q.mwTake).modSeq t fun x =>
        { x with st := 1, pc := (x.pc + 1) % 1024, a := Tab.set x.a q.mwDst { v := BitVec.ofNat 64 (s.semOf t q.mwSem) }, nextIssue := s.cyc + 1 }
    else s)

/-- `msig`: the sequencer's writes are performed as it makes them, so none is left to wait for (R326). -/
def execMSig (a : Fin 16) (sem : BitVec 8) (s : State) : Host.Outcome State Fault Refusal :=
  runSeq [a] true none (fun s t => .ok (semRaise s t sem.toNat (fld (aVal s t a) 0 32)) 1) s

/-- The accesses of a microword to some memory tiles, once their shared ports all serve the sequencer (R318, spec/09_memory.md R210); an
uncorrectable error faults it. -/
def seqPorts (s : State) (t : Nat) (mts : List Nat) (go : State → SeqRes) : SeqRes :=
  match mts.find? fun m => !(s.port t m).serves s.cyc 3 with
  | some m => .keep (askPort s t m 3)
  | none =>
    let s := mts.foldl (fun s m => usePort s t m 3 1) s
    let pa := mtAddr t (mts.headD 0) 0
    if s.ue then .fault (eccEvent s pa) 5 0x14 else go (eccNote s pa)

/-- `mhalt`, which needs the work tile for its page record (R319). -/
def execMHalt (s : State) : Host.Outcome State Fault Refusal :=
  runSeq [] false none (fun s t =>
    if !seqCfgOk s t then .fault s 7 0
    else seqPorts s t [s.wmt t] fun s =>
      match unpinPage s t with
      | .error (s, c) => .fault s 5 c
      | .ok s => .ok (seqIdle s t) 1) s

/-! ## The current token (R327) -/

/-- The bytes of a token in the query FIFO. -/
def fifoBytes (s : State) (t : Nat) (q : QTok) : List Byte :=
  let off := q.start * 64
  let k := min q.size (65536 - off)
  readMt s t (s.qmt t) off k ++ readMt s t (s.qmt t) 0 (q.size - k)

/-- The current token changed in its place. -/
def putToken (s : State) (t : Nat) (q : QTok) (bytes : List Byte) : State := writeFifo s t (q.start * 64) bytes

/-- The head of the query FIFO removed. -/
def dropToken (s : State) (t : Nat) : State :=
  s.modRing t fun x => match x.fifo with
    | [] => x
    | q :: l => { x with fifo := l, used := x.used - (q.size + 63) / 64 }

/-- The side data of the head token changed. -/
def modHead (s : State) (t : Nat) (f : QTok → QTok) : State :=
  s.modRing t fun x => match x.fifo with
    | [] => x
    | q :: l => { x with fifo := f q :: l }

/-- A microword that works on the current token: CFG and NO_TOKEN come first (R319, R327). It reaches the query FIFO, the work tile and
the memory tiles that `more` names. -/
def runToken (more : State → Nat → QTok → List Nat) (body : State → Nat → QTok → List Byte → SeqRes) (s : State) (t : Nat) : SeqRes :=
  if !seqCfgOk s t then .fault s 7 0
  else match (s.tile t).ring.fifo with
    | [] => .fault s 2 0
    | q :: _ =>
      if q.msg ≠ 0 then .fault s 2 0
      else seqPorts s t (s.qmt t :: s.wmt t :: more s t q) fun s => body s t q (fifoBytes s t q)

/-- No memory tile beside the query FIFO and the work tile. -/
def noMore (_ : State) (_ : Nat) (_ : QTok) : List Nat := []

/-- The memory tile of the list of a token (R302). -/
def listMore (_ : State) (_ : Nat) (q : QTok) : List Nat := [fld q.list 16 4]

/-- The memory tiles of the current page. -/
def pageMore (s : State) (t : Nat) (_ : QTok) : List Nat :=
  let la := workNat s t 0x4408 8
  [fld la 16 4, fld (la + 128 * (s.tile t).ring.rowBytes - 1) 16 4]

/-- Bytes replaced at an offset. -/
def putAt (bytes : List Byte) (off : Nat) (new : List Byte) : List Byte :=
  bytes.take off ++ new ++ bytes.drop (off + new.length)

/-- An F32 in some bytes. -/
def f32At (bytes : List Byte) (off : Nat) : FVal := f32Fmt.decode (numAt bytes off 4)

/-- F32 values as bytes. -/
def f32Bytes (l : List FVal) : List Byte := l.flatMap fun x => leBytes 4 (f32Fmt.round .rne x)

/-- The running state of a row: m, l and acc (R299). -/
structure AttRow where
  m : FVal
  l : FVal
  acc : List FVal

/-- A row of a token. -/
def attRow (h : Nat) (bytes : List Byte) (r : Nat) : AttRow :=
  { m := f32At bytes (tokM h + 4 * r), l := f32At bytes (tokL h + 4 * r),
    acc := (List.range (tokDim h)).map fun c => f32At bytes (tokAcc h + 4 * (r * tokDim h + c)) }

/-- The rows of a token replaced. -/
def putRows (h : Nat) (bytes : List Byte) (rows : List AttRow) : List Byte :=
  let b := putAt bytes (tokM h) (f32Bytes (rows.map (·.m)))
  let b := putAt b (tokL h) (f32Bytes (rows.map (·.l)))
  putAt b (tokAcc h) (f32Bytes (rows.flatMap (·.acc)))

/-- Every row of a token changed. -/
def mapRows (h : Nat) (bytes : List Byte) (f : Nat → AttRow → AttRow) : List Byte :=
  putRows h bytes ((List.range (tokRows h)).map fun r => f r (attRow h bytes r))

/-- The query values of a row, decoded under QFMT. -/
def queryVals (h : Nat) (bytes : List Byte) (r : Nat) : List FVal :=
  (List.range (tokDim h)).map fun i => (tokFmt h).decode (numAt bytes (tokQ h + r * tokQrow h + i * tokElem h) (tokElem h))

/-! ## K and V rows (R324) -/

/-- Bits an element of a K or V format takes in a row. -/
def kvBits : EdgeFmt → Nat
  | .narrow g => containerBits g.width
  | .wide g => g.width
  | .int _ sz => sz.bits

/-- KVFMT of a tile, where rows of `d` elements of it fit in RB bytes. -/
def kvFormat (s : State) (t d : Nat) : Option EdgeFmt :=
  match fmtOfReg (fld (s.tile t).seq.ascfg.toNat 24 16) with
  | some (.int ..) => none
  | some f => if 8 + (d * kvBits f + 7) / 8 ≤ (s.tile t).ring.rowBytes then some f else none
  | none => none

/-- The scale of a row, taken as 1 for wide formats. -/
def rowScale (f : EdgeFmt) (row : List Byte) : FVal :=
  if f.isNarrow then s20Val (fld (numAt row 0 4) 0 20) else .fin false 1 1 0

/-- The elements of a row. -/
def rowElems (f : EdgeFmt) (d : Nat) (row : List Byte) : List FVal :=
  let x := leNat (row.drop 8)
  (List.range d).map fun i => f.value (fld x (i * kvBits f) (kvBits f))

/-- k(j, ·) or v(j, ·): the elements scaled and rounded. -/
def rowValues (f : EdgeFmt) (d : Nat) (row : List Byte) : List FVal :=
  (rowElems f d row).map fun x => f32Rne (x.mul (rowScale f row))

/-- Row `i` of the current page, 0–63 of K and 64–127 of V, in the tile's own memory; its memory tiles must be addressed
buffers or the banker's. -/
def pageRow (s : State) (t i : Nat) : Except Nat (List Byte) :=
  let rb := (s.tile t).ring.rowBytes
  let a := workNat s t 0x4408 8 + i * rb
  if 2 ^ 20 < a + rb then .error 0x0B
  else if !(s.roleOf t (a / 65536)).isBuffer || !(s.roleOf t ((a + rb - 1) / 65536)).isBuffer then .error 0x0C
  else .ok (readMt s t 0 a rb)

/-- The rows of some positions: position and bytes. -/
def pageRows (s : State) (t base : Nat) : List Nat → Except Nat (List (Nat × List Byte))
  | [] => .ok []
  | j :: js => match pageRow s t (base + j) with
    | .error c => .error c
    | .ok b => match pageRows s t base js with
      | .error c => .error c
      | .ok l => .ok ((j, b) :: l)

/-- Bytes read at package scope from a physical address, line by line, or a cause and the address. -/
def physRead (t : Nat) : Nat → State → Nat → Nat → Except (Nat × Nat) (State × List Byte)
  | _, s, _, 0 => .ok (s, [])
  | 0, s, _, _ => .ok (s, [])
  | fuel + 1, s, pa, n + 1 =>
    match homeFault s pa with
    | some c => .error (c, pa)
    | none =>
      if s.ue then .error (0x14, pa)
      else
        let k := pieceLen pa (n + 1)
        let (s, b) := perfLoad (holdHome (eccNote s pa) pa) t .package pa k false
        match physRead t fuel s (pa + k) (n + 1 - k) with
        | .error c => .error c
        | .ok (s, bs) => .ok (s, b ++ bs)

/-- The first fault among the lines of an area of physical memory. -/
def physFault (s : State) (pa n : Nat) : Option Nat :=
  (List.range ((pa % 128 + n + 127) / 128)).findSome? fun i => homeFault s (pa / 128 * 128 + 128 * i)

/-! ## pgnext and pgload (R328, R329) -/

/-- A request fault of a token waits: its record is in another package, and the arcade does not run (spec/19_boundary.md R431). -/
def faultWaits (s : State) (h : Nat) : Bool := fld h 71 8 != s.mgmt.arcNum && !s.mgmt.arcUp

/-- A request fault goes to the record store of the request's package (R329, spec/15_requests.md R343, R344); where no package has that
number there is none (log entry 141). -/
def requestFault (s : State) (t h code : Nat) : State :=
  let ref := fld h 0 24
  let p := fld h 71 8
  if p = s.mgmt.arcNum then s.modPlinth fun x => { x with recq := x.recq ++ [{ op := .fault ref code }] }
  else if s.refusesPackage p then s
  else sendArc s t false p (.fault ref code)

/-- `pgnext`. -/
def execPgnext (d : Fin 16) (s : State) : Host.Outcome State Fault Refusal :=
  runSeq [] false none (runToken listMore fun s t q _ =>
    match unpinPage s t with
    | .error (s, c) => .fault s 5 c
    | .ok s' =>
      if q.ret then .val s' d 2 3
      else
        let li := match q.li with
          | none => 0
          | some _ => (listIndex s' t + 1) % 65536
        match localCheck s' t q.list 8 8 with
        | .error c => .fault s 5 c
        | .ok (mt, off) =>
          let n := fld (leNat (readMt s' t mt off 8)) 0 16
          .val (modHead (setPageWord s' t 0 16 li) t fun q => { q with li := some li }) d (if n ≤ li then 0 else 1) 3) s

/-- The position of a page's first row, none for a page of a later wrap (R329). -/
def pageBase (hd en pos0 npos : Nat) : Option Nat :=
  let wslot := fld en 20 26
  let nsink := fld hd 16 3
  if bitOf en 46 then some (64 * wslot)
  else if pos0 + (npos - 1) < 64 * nsink then some (2 ^ 41)
  else
    let w := 64 * (fld hd 19 26 + 1)
    let gl := (pos0 + (npos - 1) - 64 * nsink) / w
    let k := (gl % 65536 + 65536 - fld en 47 16) % 65536
    if 2 ^ 15 ≤ k ∨ gl < k then none else some (64 * nsink + (gl - k) * w + 64 * wslot)

/-- VAL of a row (R329). -/
def validMask (vmask base last : Nat) : Nat := natOfBits 64 fun j => bitOf vmask j && decide (base + j ≤ last)

/-- The set reference of a page (spec/13_rings.md R307). -/
def pageRef (t h set : Nat) : Nat := set + t * 2 ^ 20 + fld h 0 12 * 2 ^ 39 + fld h 12 12 * 2 ^ 51

/-- The page of a pinned set at a local address becomes the current one. -/
def becomePage (s : State) (t : Nat) (d : Fin 16) (h set la : Nat) (vals : List Byte) (n : Nat) : SeqRes :=
  let s := s.modSeq t fun q => { q with mid := .none }
  let s := workPut s t 0x4200 vals
  let s := workPut s t 0x4400 (leBytes 8 (pageRef t h set) ++ leBytes 8 la)
  .val (setPageWord s t 16 4 8) d 0 (4 + n)

/-- The page of a pinned set is streamed into PMT by the copy engine, which starts nothing meanwhile and holds the shared port of PMT for
64 bytes a cycle (R329, spec/09_memory.md R210; log entry 142); `fault` is what an access fault comes to. -/
def streamPage (s : State) (t : Nat) (d : Fin 16) (h set pa : Nat) (vals : List Byte) (fault : Nat × Nat → SeqRes) : SeqRes :=
  let rb := (s.tile t).ring.rowBytes
  match physRead t (rb + 2) s pa (128 * rb) with
  | .error r => fault r
  | .ok (s, bytes) =>
    becomePage ((writeMt (usePort s t (s.pmt t) 1 (2 * rb)) t (s.pmt t) 0 bytes none).modChain t 0 fun x => { x with next := s.cyc + 2 * rb })
      t d h set (s.pmt t * 65536) vals (2 * rb)

/-- A microword that has pinned a set faults: the pin is released (R337). -/
def pinFault (s : State) (t set c ac : Nat) : SeqRes :=
  let s := s.modSeq t fun q => { q with mid := .none }
  match kvLocal s t false true (.unpin set) with
  | .error r => .fault (kvReport s r) 5 r.1
  | .ok (s, _, _) => .fault s c ac

/-- The local address of a page that lies in the tile's own memory. -/
def ownPage (s : State) (t pa : Nat) : Option Nat :=
  match s.place pa with
  | .tileMem t' mt off => if t' = t then some (mt * 65536 + off) else none
  | _ => none

/-- A stream waits: a command of chain 0 runs, which a stream does not meet (R329), or the port of PMT does not serve the copy engine. -/
def copyBusy (s : State) (t : Nat) : Bool := (s.chain t 0).run != .idle || !(s.port t (s.pmt t)).serves s.cyc 1

/-- The stream of a page waits, its set pinned; the current page stays as it is until the stream can begin (R329, R337; log entry 142). -/
def awaitStream (s0 : State) (t set pa : Nat) (vals : List Byte) : SeqRes :=
  match kvLocal s0 t false false (.pin set) with
  | .ok (s, 0, _) => .keep ((askPort s t (s.pmt t) 1).modSeq t fun q => { q with mid := .page set pa vals })
  | _ => .keep s0

/-- The pinned set's page is placed and its positions tested (R329): `s0` is the state that a fault leaves. A page elsewhere that no
access fault stops waits for the copy engine. -/
def openPage (s0 s : State) (t : Nat) (d : Fin 16) (q : QTok) (bytes : List Byte) (hd en : Nat) : SeqRes :=
  let h := hdrOf bytes
  let x := (s.tile t).ring
  let set := fld en 0 20
  let pos0 := fld (numAt bytes 0x10 8) 0 40
  match pageBase hd en pos0 (tokNpos h) with
  | none =>
    if faultWaits s h then .keep s0
    else match kvLocal (requestFault s t h 2) t false true (.unpin set) with
      | .error r => .fault (kvReport s0 r) 5 r.1
      | .ok (s, _, _) => .val s d 2 4
  | some base =>
    let vm := entVmask (leNat (homeRead s (x.entAddr set) 32))
    let vals := (List.range (tokRows h)).flatMap fun r => leBytes 8 (validMask vm base (pos0 + r % tokNpos h))
    let pa := x.pageAddr set ((fld h 24 12 - q.lfirst) * (fld hd 45 8 + 1) + fld h 36 8)
    match ownPage s t pa, physFault s pa (128 * x.rowBytes) with
    | some la, _ => becomePage s t d h set la vals 0
    | none, some c => .fault s0 5 c
    | none, none =>
      if copyBusy s t then awaitStream s0 t set pa vals
      else streamPage s t d h set pa vals fun r => .fault (kvReport s0 r) 5 r.1

/-- `pgload` where it begins. -/
def beginPgload (d : Fin 16) : State → Nat → SeqRes :=
  runToken listMore fun s t q bytes =>
    let h := hdrOf bytes
    if q.ret || q.li.isNone then .fault s 3 0
    else match localCheck s t q.list 8 8 with
      | .error c => .fault s 5 c
      | .ok (mt, off) =>
        let hd := leNat (readMt s t mt off 8)
        let li := listIndex s t
        if fld hd 0 16 ≤ li then .fault s 3 0
        else match localCheck s t (q.list + 8 + 8 * li) 8 8 with
          | .error c => .fault s 5 c
          | .ok (mt, off) =>
            let en := leNat (readMt s t mt off 8)
            if fld hd 45 8 < fld h 36 8 || (kvFormat s t (tokDim h)).isNone then .fault s 4 0
            else match unpinPage s t with
              | .error (s, c) => .fault s 5 c
              | .ok s' =>
                match kvLocal s' t false false (.pin (fld en 0 20)) with
                | .error r => .fault (kvReport s r) 5 r.1
                | .ok (s'', st, _) => if st ≠ 0 then .val s'' d 1 4 else openPage s s'' t d q bytes hd en

/-- A stream that has waited begins: the page that was current is unpinned, unless a fault comes first (R329, R337). -/
def beginStream (s : State) (t : Nat) (d : Fin 16) (set pa : Nat) (vals : List Byte) : SeqRes :=
  let h := match (s.tile t).ring.fifo with
    | q :: _ => hdrOf (fifoBytes s t q)
    | [] => 0
  match unpinPage s t with
  | .error (s, c) => pinFault s t set 5 c
  | .ok u => streamPage u t d h set pa vals fun r => pinFault (kvReport s r) t set 5 r.1

/-- `pgload`; a page that is streamed waits while a command of chain 0 runs (R329). -/
def execPgload (d : Fin 16) (s : State) : Host.Outcome State Fault Refusal :=
  runSeq [] true none (fun s t =>
    match (s.tile t).seq.mid with
    | .page set pa vals =>
      if copyBusy s t || !(s.port t (s.wmt t)).serves s.cyc 3 then .keep (askPort (askPort s t (s.pmt t) 1) t (s.wmt t) 3)
      else beginStream (usePort s t (s.wmt t) 3 1) t d set pa vals
    | _ => beginPgload d s t) s

/-! ## The page steps (R330 to R332) -/

/-- A page step: it needs a current page on which the step before has been done. -/
def runStep (n : Nat) (more : State → Nat → QTok → List Nat) (body : State → Nat → QTok → List Byte → SeqRes) (s : State) :
    Host.Outcome State Fault Refusal :=
  runSeq [] false none (runToken more fun s t q bytes =>
    if !curPage s t || pageStep s t != n - 1 then .fault s 3 0 else body s t q bytes) s

/-- VAL of row r. -/
def valOf (s : State) (t r : Nat) : Nat := workNat s t (0x4200 + 8 * r) 8
/-- SC of row r and position j. -/
def scOf (s : State) (t r j : Nat) : FVal := f32Fmt.decode (workNat s t (4 * (64 * r + j)) 4)
/-- MN of row r. -/
def mnOf (s : State) (t r : Nat) : FVal := f32Fmt.decode (workNat s t (0x4000 + 4 * r) 4)

/-- An F32 written to the work tile. -/
def workF32 (s : State) (t off : Nat) (x : FVal) : State := workPut s t off (leBytes 4 (f32Fmt.round .rne x))

/-- The score of a query row against a K row: one rounding, special values by R104 (R330). -/
def dotScore (qs ks : List FVal) (scale : FVal) : FVal :=
  let ps := blockProducts qs ks
  let inf (x : FVal) : Bool := match x with
    | .inf _ => true
    | _ => false
  if ps.any FVal.isNan || scale.isNan || (scale.isZero && (qs.any inf || ks.any inf)) then .nan
  else if hasInf true ps && hasInf false ps then .nan
  else if hasInf false ps then .inf false
  else if hasInf true ps then .inf true
  else f32Rne ((ps.foldl (FVal.add .rne) (.zero false)).mul scale)

/-- Positions valid in some row. -/
def usedPositions (s : State) (t nr : Nat) : List Nat :=
  (List.range 64).filter fun j => (List.range nr).any fun r => bitOf (valOf s t r) j

/-- The score of one row and position written; a NaN takes the position out and poisons the token. -/
def scoreOne (t : Nat) (qs : List FVal) (f : EdgeFmt) (d r : Nat) (x : State × Bool) (j : Nat × List Byte) : State × Bool :=
  let (s, bad) := x
  if !bitOf (valOf s t r) j.1 then x
  else
    let v := dotScore qs (rowElems f d j.2) (rowScale f j.2)
    let s := workF32 s t (4 * (64 * r + j.1)) v
    if v.isNan then (workPut s t (0x4200 + 8 * r) (leBytes 8 (setFld (valOf s t r) j.1 1 0)), true) else (s, bad)

/-- `score`. -/
def execScore (s : State) : Host.Outcome State Fault Refusal :=
  runStep 1 pageMore (fun s t q bytes =>
    let h := hdrOf bytes
    let nr := tokRows h
    match kvFormat s t (tokDim h), pageRows s t 0 (usedPositions s t nr) with
    | none, _ => .fault s 4 0
    | _, .error c => .fault s 5 c
    | some f, .ok rows =>
      let (s, bad) := (List.range nr).foldl
        (fun x r => rows.foldl (scoreOne t (queryVals h bytes r) f (tokDim h) r) x) (s, false)
      let s := if bad then putToken s t q (withHdr (setFld h 98 1 1) bytes) else s
      .ok (setPageWord s t 16 3 1) (4 + nr * ((tokDim h + 15) / 16))) s

/-- `bmax`. -/
def execBmax (s : State) : Host.Outcome State Fault Refusal :=
  runStep 2 noMore (fun s t _ bytes =>
    let h := hdrOf bytes
    let nr := tokRows h
    let s := (List.range nr).foldl (fun s r =>
      let b := ((List.range 64).filter (bitOf (valOf s t r))).foldl (fun b j => fmaxVal b (scOf s t r j)) (.inf true)
      workF32 s t (0x4000 + 4 * r) (fmaxVal (attRow h bytes r).m b)) s
    .ok (setPageWord s t 16 3 2) (2 + nr)) s

/-- Two values are equal numbers. -/
def feq (a b : FVal) : Bool := !a.isNan && !b.isNan && FVal.cmp a b == 0

/-- α of a row whose maximum rises from m to m′: the factor, and whether the exponent engine forms it (R331). -/
def alphaOf (m m' : FVal) : FVal × Bool :=
  if m == .inf true then (.zero false, false)
  else if feq m m' then (.fin false 1 1 0, false)
  else (f32Rne (exp2Val (f32Rne (FVal.add .rne m m'.negate))), true)

/-- Requests of the sequencer in the lane of the page that holds QMT (R325). -/
def engineAsk (s : State) (t n : Nat) : State :=
  (s.modLane t (s.qmt t / 4) fun l => { l with chain := l.chain ++ List.replicate n .seq }).modSeq t fun q =>
    { q with engine := q.engine + n }

/-- `rescale`. -/
def execRescale (s : State) : Host.Outcome State Fault Refusal :=
  runStep 3 noMore (fun s t q bytes =>
    let h := hdrOf bytes
    let nr := tokRows h
    let new := mapRows h bytes fun r x =>
      let m' := mnOf s t r
      let a := (alphaOf x.m m').1
      { m := m', l := f32Rne (a.mul x.l), acc := x.acc.map fun y => f32Rne (a.mul y) }
    let k := ((List.range nr).filter fun r => (alphaOf (attRow h bytes r).m (mnOf s t r)).2).length
    .ok (engineAsk (setPageWord (putToken s t q new) t 16 3 3) t k) (4 + nr * ((tokDim h + 63) / 64))) s

/-- The weight of a position, and whether the exponent engine forms it (R331). -/
def weightOf (valid : Bool) (sc m : FVal) : FVal × Bool :=
  if !valid || sc == .inf true then (.zero false, false)
  else if feq sc m then (.fin false 1 1 0, false)
  else (f32Rne (exp2Val (f32Rne (FVal.add .rne sc m.negate))), true)

/-- `expp`. -/
def execExpp (s : State) : Host.Outcome State Fault Refusal :=
  runStep 4 noMore (fun s t _ bytes =>
    let h := hdrOf bytes
    let nr := tokRows h
    let ws := (List.range nr).map fun r =>
      (List.range 64).map fun j => weightOf (bitOf (valOf s t r) j) (scOf s t r j) (attRow h bytes r).m
    let s' := workPut s t 0 (ws.flatMap fun l => f32Bytes (l.map (·.1)))
    .ok (engineAsk (setPageWord s' t 16 3 4) t (ws.map fun l => (l.filter (·.2)).length).sum) 4) s

/-- Neighbours added and rounded. -/
def treeLevel : List FVal → List FVal
  | a :: b :: l => f32Rne (FVal.add .rne a b) :: treeLevel l
  | l => l

/-- The sum of 64 leaves in the fixed order of R332. -/
def treeSum (l : List FVal) : FVal := (treeLevel (treeLevel (treeLevel (treeLevel (treeLevel (treeLevel l)))))).headD .nan

/-- `accpv`. -/
def execAccpv (s : State) : Host.Outcome State Fault Refusal :=
  runStep 5 pageMore (fun s t q bytes =>
    let h := hdrOf bytes
    let nr := tokRows h
    let d := tokDim h
    match kvFormat s t d, pageRows s t 64 (usedPositions s t nr) with
    | none, _ => .fault s 4 0
    | _, .error c => .fault s 5 c
    | some f, .ok rows =>
      let vs := rows.map fun x => (x.1, rowValues f d x.2)
      let new := mapRows h bytes fun r x =>
        let sc := (List.range 64).map (scOf s t r)
        let ok := valOf s t r
        { x with
          l := f32Rne (FVal.add .rne x.l (treeSum sc))
          acc := (x.acc.zip (List.range d)).map fun (y, c) =>
            f32Rne (FVal.add .rne y (treeSum ((sc.zip (List.range 64)).map fun (w, j) =>
              if bitOf ok j then (match vs.find? (fun v => v.1 == j) with
                | some v => f32Rne (w.mul (v.2.getD c .nan))
                | none => .zero false) else .zero false))) }
      .ok (setPageWord (putToken s t q new) t 16 3 5) (6 + nr * ((d + 15) / 16))) s

/-! ## The rubble state (R334, R335) -/

/-- The feature map φ. -/
def phiVal (x : FVal) : FVal :=
  if x.isNan then .nan
  else if FVal.cmp x (.zero false) == 1 then f32Rne (FVal.add .rne x (.fin false 1 1 0))
  else f32Rne (exp2Val x)

/-- Positions of a set that are folded. -/
def foldMask (e mask : Nat) : List Nat :=
  (List.range 64).filter fun j => bitOf mask j && bitOf (entVmask e) j && !bitOf (entTmask e) j

/-- The F32 values of some bytes. -/
def f32List (bytes : List Byte) (n : Nat) : List FVal := (List.range n).map fun i => f32At bytes (4 * i)

/-- F32 elements of a block, from number `i` at an address, changed one after another, line by line: the state, and the first fault. -/
def foldArea (t : Nat) (f : Nat → FVal → FVal) : Nat → State → Nat → Nat → Nat → State × Option (Nat × Nat)
  | _, s, _, _, 0 => (s, none)
  | 0, s, _, _, _ => (s, none)
  | fuel + 1, s, va, i, n + 1 =>
    let k := min (n + 1) ((128 - va % 128) / 4)
    match vRead s t va (4 * k) with
    | .error r => (reportUe s t r, some r)
    | .ok (s, b) => match vWrite s t va (f32Bytes ((List.range k).map fun j => f (i + j) (f32At b (4 * j)))) with
      | (s, some r) => (s, some r)
      | (s, none) => foldArea t f fuel s (va + 4 * k) (i + k) (n + 1 - k)

/-- One position folded into a block: z, S, then NFOLD, each element written as it is formed (R334). The block's elements are accessed one
by one, so that a misaligned block meets ALIGN at the first of them (log entry 143). -/
def foldPos (s : State) (t rub d : Nat) (k v : List FVal) : State × Option (Nat × Nat) :=
  let f := k.map phiVal
  match globalCheck (rub + 0x40) 4 with
  | some c => (s, some (c, rub + 0x40))
  | none => match foldArea t (fun i z => f32Rne (FVal.add .rne z (f.getD i .nan))) (d + 1) s (rub + 0x40) 0 d with
    | (s, some r) => (s, some r)
    | (s, none) =>
      match foldArea t (fun i y => f32Rne (fmaVal .rne (f.getD (i / d) .nan) (v.getD (i % d) .nan) y)) (d * d + 1) s
          (rub + 0x40 + 4 * d) 0 (d * d) with
      | (s, some r) => (s, some r)
      | (s, none) => match globalCheck rub 8, vRead s t rub 8 with
        | some c, _ => (s, some (c, rub))
        | none, .error r => (reportUe s t r, some r)
        | none, .ok (s, b) => vWrite s t rub (leBytes 8 (leNat b + 1))

/-- Bytes that the fold of a position stores. -/
def foldBytes (d : Nat) : Nat := 4 * d + 4 * d * d + 8

/-- The K and V rows of position `j` of a page. -/
def foldRowsAt (s : State) (t pa j : Nat) : Except (Nat × Nat) (State × List Byte × List Byte) :=
  let rb := (s.tile t).ring.rowBytes
  match physRead t (rb + 2) s (pa + j * rb) rb with
  | .error r => .error r
  | .ok (s, k) => match physRead t (rb + 2) s (pa + (64 + j) * rb) rb with
    | .error r => .error r
    | .ok (s, v) => .ok (s, k, v)

/-- The next position of a `fold` under way, whose set is pinned; it waits for room in TILE.SBPEND, for a walk or for a
port. -/
def foldNext (s : State) (t set pa rub dim j : Nat) (left : List Nat) (n : Nat) : SeqRes :=
  let n' := 0x40 + 4 * dim + 4 * dim * dim
  if !pendRoom (s.tile t).mem (foldBytes dim) then .keep s
  else if !areaFree s t 5 rub n' then .keep (askArea s t 5 rub n')
  else match kvFormat s t dim with
    | none => pinFault s t set 4 0
    | some f => match foldRowsAt s t pa j with
      | .error r => pinFault (kvReport s r) t set 5 r.1
      | .ok (s, k, v) => match foldPos s t rub dim (rowValues f dim k) (rowValues f dim v) with
        | (s, some r) => pinFault s t set 5 r.1
        | (s, none) =>
          .keep ((s.modMem t fun m => { m with sbpend := m.sbpend + foldBytes dim }).modSeq t fun q =>
            { q with mid := .fold set pa rub dim left (n + 1) (foldBytes dim) })

/-- `fold` goes on: the stores of its last position are acknowledged, and the next position is folded, or the set unpinned (R334). -/
def foldOn (s : State) (t : Nat) (d : Fin 16) (set pa rub dim : Nat) (left : List Nat) (n pend : Nat) : SeqRes :=
  let s := (s.modMem t fun m => { m with sbpend := m.sbpend - pend }).modSeq t fun q => { q with mid := .fold set pa rub dim left n 0 }
  match left with
  | j :: left => foldNext s t set pa rub dim j left n
  | [] =>
    let s := s.modSeq t fun q => { q with mid := .none }
    match kvLocal s t false true (.unpin set) with
    | .error r => .fault (kvReport s r) 5 r.1
    | .ok (s, _, _) => .val s d n 4

/-- `fold` where it begins: its descriptor is read, and the set pinned (R334). -/
def beginFold (d : Fin 16) (desc : Nat) (s : State) (t : Nat) : SeqRes :=
  match localCheck s t desc 32 8 with
  | .error c => .fault s 5 c
  | .ok (mt, off) => seqPorts s t [mt] fun s =>
    let l := wordsOf 4 (readMt s t mt off 32)
    let ref := l.getD 0 0
    let w := l.getD 1 0
    let dim := fld w 20 8 + 1
    let head := fld w 12 8
    let nk := fld w 28 8 + 1
    let set := refSet ref
    if bitOf ref 63 || refFar ref || refTile ref != t || fld w 36 28 != 0 || decide (nk ≤ head) || (kvFormat s t dim).isNone then
      .fault s 4 0
    else match kvLocal s t false false (.pin set) with
      | .error r => .fault (kvReport s r) 5 r.1
      | .ok (s, st, _) =>
        if st ≠ 0 then .val s d 0 4
        else
          let x := (s.tile t).ring
          let js := foldMask (leNat (homeRead s (x.entAddr set) 32)) (l.getD 2 0)
          .keep (s.modSeq t fun q => { q with mid := .fold set (x.pageAddr set (fld w 0 12 * nk + head)) (l.getD 3 0) dim js 0 0 })

/-- `fold`: its set stays pinned from its first access to its last, and what it has written when it faults stays (R334, R337). -/
def execFold (d a : Fin 16) (s : State) : Host.Outcome State Fault Refusal :=
  runSeq [a] true none (fun s t =>
    match (s.tile t).seq.mid with
    | .fold set pa rub dim left n pend => foldOn s t d set pa rub dim left n pend
    | _ => beginFold d (aVal s t a) s t) s

/-- An access of `rubmrg` that is not made: the cause of its fault, or 0 where it waits for a walk or a port. -/
abbrev RubStop := State × Nat

/-- A package-scope load of the sequencer, of elements of `w` bytes (R335, spec/09_memory.md R217). -/
def rubRead (s : State) (t va n w : Nat) : Except RubStop (State × List Byte) :=
  if !areaFree s t 5 va n then .error (askArea s t 5 va n, 0) else elemRead s t va n w

/-- The rubble block of the current token, where there is one: its bytes (R335). -/
def findBlock (s : State) (t : Nat) (q : QTok) (h : Nat) : Except RubStop (State × Option (List Byte)) :=
  let dir := if q.ret then 0 else workNat s t (0x4800 + 8 * q.e) 8
  let d := tokDim h
  if dir = 0 then .ok (s, none)
  else match rubRead s t (dir + 8 * ((fld h 24 12 - q.lfirst) * 256 + fld h 36 8)) 8 8 with
    | .error e => .error e
    | .ok (s, b) =>
      if leNat b = 0 then .ok (s, none)
      else match rubRead s t (leNat b) 8 8 with
        | .error e => .error e
        | .ok (s, n) =>
          if leNat n = 0 then .ok (s, none)
          else match rubRead s t (leNat b) (0x40 + 4 * d + 4 * d * d) 4 with
            | .error e => .error e
            | .ok (s, blk) => .ok (s, some blk)

/-- The rubble partial merged into one row (R335). -/
def mergeRubble (h : Nat) (bytes blk : List Byte) (r : Nat) (x : AttRow) : AttRow :=
  let d := tokDim h
  let f := (queryVals h bytes r).map phiVal
  let z := f32List (blk.drop 0x40) d
  let sm := f32List (blk.drop (0x40 + 4 * d)) (d * d)
  let dot (l : List FVal) : FVal := (f.zip l).foldl (fun p (a, b) => f32Rne (fmaVal .rne a b p)) (.zero false)
  let m' := fmaxVal x.m (.zero false)
  let al := (alphaOf x.m m').1
  let be := if m'.isZero then .fin false 1 1 0 else f32Rne (exp2Val (f32Rne m'.negate))
  let merge (y p : FVal) : FVal := f32Rne (FVal.add .rne (f32Rne (al.mul y)) (f32Rne (be.mul p)))
  { m := m', l := merge x.l (dot z),
    acc := (x.acc.zip (List.range d)).map fun (y, c) => merge y (dot ((List.range d).map fun i => sm.getD (i * d + c) .nan)) }

/-- `rubmrg`. -/
def execRubmrg (d : Fin 16) (s : State) : Host.Outcome State Fault Refusal :=
  runSeq [] false none (runToken noMore fun s t q bytes =>
    let h := hdrOf bytes
    if bitOf h 100 then .val s d 0 4
    else match findBlock s t q h with
      | .error (u, c) => if c = 0 then .keep u else .fault u 5 c
      | .ok (s, none) => .val (putToken s t q (withHdr (setFld h 100 1 1) bytes)) d 0 4
      | .ok (s, some blk) =>
        .val (putToken s t q (withHdr (setFld h 100 1 1) (mapRows h bytes (mergeRubble h bytes blk)))) d 1 4) s

/-! ## fwd and fin (R336) -/

/-- A token forwarded by a tile: at the tile itself it is presented to the match unit at once. -/
def forwardTok (s : State) (t : Nat) (bytes : List Byte) : State :=
  let (p, n) := tokDest bytes
  if p = s.mgmt.arcNum ∧ n = t then presentTok s t bytes else addressTok s t bytes

/-- `fwd`. -/
def execFwd (s : State) : Host.Outcome State Fault Refusal :=
  runSeq [] true none (runToken noMore fun s t q bytes =>
    let h := hdrOf bytes
    if tokItix h = tokNit h then .fault s 6 0
    else match unpinPage s t with
      | .error (s, c) => .fault s 5 c
      | .ok s => .ok (forwardTok (dropToken s t) t (withHdr (setFld h 44 9 (tokItix h + 1)) bytes)) (2 + q.size / 64)) s

/-- The output of one row (R336). -/
def outRow (poison : Bool) (x : AttRow) : List FVal :=
  x.acc.map fun y => if poison then .nan else if x.l.isZero then .zero false else f32Rne (FVal.div y x.l)

/-- `fin`. -/
def execFin (a : Fin 16) (s : State) : Host.Outcome State Fault Refusal :=
  runSeq [a] true none (runToken (fun s t _ => [fld (aVal s t a) 16 4]) fun s t q bytes =>
    let h := hdrOf bytes
    let n := tokRows h
    let cycles := 2 + n * ((tokDim h + 15) / 16)
    if !q.ret then .fault s 6 0
    else if bitOf h 98 && bitOf h 99 then
      if faultWaits s h then .keep s else .ok (dropToken (requestFault s t h 1) t) cycles
    else match localCheck s t (aVal s t a) (4 * n * tokDim h) 4 with
      | .error c => .fault s 5 c
      | .ok (mt, off) =>
        let out := (List.range n).flatMap fun r => f32Bytes (outRow (bitOf h 98) (attRow h bytes r))
        .ok (dropToken (writeMt s t mt off out none) t) cycles) s

end Sys2Proof.Machine
end

