-- ==== Sys2Proof/Machine/Bits.lean ====
section
/-!
DEFINITION. The results of the bit-field and LUT-island instructions (spec/06_bits.md). A table of the island is given by
its number; every result is a bit pattern extended with zeros (R153).
-/
namespace Sys2Proof.Machine

/-- `bext` (R154): POS is the lowest bit, LEN the length; bits at or above w read 0. -/
def bextBits (w x pos len : Nat) : Nat := natOfBits w (fun i => decide (i < len) && decide (pos + i < w) && bitOf x (pos + i))

/-- `bins` (R154). -/
def binsBits (w a y pos len : Nat) : Nat :=
  natOfBits w (fun i => if pos ≤ i ∧ i < pos + len then bitOf a (i - pos) else bitOf y i)

/-- `brev` (R155). -/
def brevBits (w x : Nat) : Nat := natOfBits w (fun i => bitOf x (w - 1 - i))

/-- `bperm` (R155), byte by byte. -/
def bpermBytes (x b n : Nat) : Nat → Nat
  | 0 => 0
  | i + 1 =>
    let k := fld b (4 * i) 4
    bpermBytes x b n i + (if k < n then fld x (8 * k) 8 else 0) * 2 ^ (8 * i)

/-- `bsplit` (R156). -/
def bsplitBits (w x : Nat) : Nat := natOfBits w (fun i => bitOf x (i % 4 * (w / 4) + i / 4))

/-- `bjoin` (R156). -/
def bjoinBits (w x : Nat) : Nat := natOfBits w (fun i => bitOf x (4 * (i % (w / 4)) + i / (w / 4)))

/-- `lut` (R157): `tab` gives the truth tables of the page's island. -/
def lutBits (tab : Nat → Nat) (w x b : Nat) : Nat :=
  natOfBits (w / 4) (fun j => bitOf (tab ((fld b 0 8 + fld b 8 1 * j) % 256)) (fld x (4 * j) 4))

/-- `lut2` (R157). -/
def lut2Bits (tab : Nat → Nat) (w x b : Nat) : Nat :=
  natOfBits w (fun i => bitOf (tab ((fld b 0 8 + fld b 8 1 * 4 * (i / 4) + i % 4) % 256)) (fld x (4 * (i / 4)) 4))

/-- The 64-bit result of a row-0x5 instruction (R153 to R157). -/
def bitsResult (tab : Nat → Nat) (op : BitOp) (sz : Size) (a b c : Word) : Word :=
  let w := sz.bits
  let x := a.toNat % 2 ^ w
  let y := b.toNat % 2 ^ w
  let z := c.toNat % 2 ^ w
  BitVec.ofNat 64 (match op with
    | .bext => bextBits w x (fld b.toNat 0 6) (fld b.toNat 6 6)
    | .bins => binsBits w a.toNat z (fld b.toNat 0 6) (fld b.toNat 6 6)
    | .brev => brevBits w x
    | .bperm => bpermBytes x b.toNat (w / 8) (w / 8)
    | .bdec => if fld a.toNat 0 6 < w then 2 ^ fld a.toNat 0 6 else 0
    | .bsplit => bsplitBits w x
    | .bjoin => bjoinBits w x
    | .lut => lutBits tab w x b.toNat
    | .lut2 => lut2Bits tab w x b.toNat
    | .bsel => (x &&& z) ||| (y &&& (2 ^ w - 1 - z)))

/-- Latency of a row-0x5 instruction (R154 to R157). -/
def bitsLatency : BitOp → Nat
  | .lut | .lut2 => 2
  | _ => 1

end Sys2Proof.Machine
end

