-- ==== Sys2Proof/Machine/Sha.lean ====
section
/-!
DEFINITION. SHA-384, SHA-512 and SHA-256 of FIPS 180-4: the digest of vocabulary images (spec/17_text.md R376), and what the signatures
of signed objects are built on (spec/19_boundary.md R425).
-/
namespace Sys2Proof.Machine

/-- A word turned right. -/
def rotr64 (x n : Nat) : Nat := x / 2 ^ n + x % 2 ^ n * 2 ^ (64 - n)

/-- The constants of rounds 0 to 39 (FIPS 180-4, section 4.2.3). -/
def shaKLow : List Nat :=
  [0x428A2F98D728AE22, 0x7137449123EF65CD, 0xB5C0FBCFEC4D3B2F, 0xE9B5DBA58189DBBC,
   0x3956C25BF348B538, 0x59F111F1B605D019, 0x923F82A4AF194F9B, 0xAB1C5ED5DA6D8118,
   0xD807AA98A3030242, 0x12835B0145706FBE, 0x243185BE4EE4B28C, 0x550C7DC3D5FFB4E2,
   0x72BE5D74F27B896F, 0x80DEB1FE3B1696B1, 0x9BDC06A725C71235, 0xC19BF174CF692694,
   0xE49B69C19EF14AD2, 0xEFBE4786384F25E3, 0x0FC19DC68B8CD5B5, 0x240CA1CC77AC9C65,
   0x2DE92C6F592B0275, 0x4A7484AA6EA6E483, 0x5CB0A9DCBD41FBD4, 0x76F988DA831153B5,
   0x983E5152EE66DFAB, 0xA831C66D2DB43210, 0xB00327C898FB213F, 0xBF597FC7BEEF0EE4,
   0xC6E00BF33DA88FC2, 0xD5A79147930AA725, 0x06CA6351E003826F, 0x142929670A0E6E70,
   0x27B70A8546D22FFC, 0x2E1B21385C26C926, 0x4D2C6DFC5AC42AED, 0x53380D139D95B3DF,
   0x650A73548BAF63DE, 0x766A0ABB3C77B2A8, 0x81C2C92E47EDAEE6, 0x92722C851482353B]

/-- The constants of rounds 40 to 79. -/
def shaKHigh : List Nat :=
  [0xA2BFE8A14CF10364, 0xA81A664BBC423001, 0xC24B8B70D0F89791, 0xC76C51A30654BE30,
   0xD192E819D6EF5218, 0xD69906245565A910, 0xF40E35855771202A, 0x106AA07032BBD1B8,
   0x19A4C116B8D2D0C8, 0x1E376C085141AB53, 0x2748774CDF8EEB99, 0x34B0BCB5E19B48A8,
   0x391C0CB3C5C95A63, 0x4ED8AA4AE3418ACB, 0x5B9CCA4F7763E373, 0x682E6FF3D6B2B8A3,
   0x748F82EE5DEFB2FC, 0x78A5636F43172F60, 0x84C87814A1F0AB72, 0x8CC702081A6439EC,
   0x90BEFFFA23631E28, 0xA4506CEBDE82BDE9, 0xBEF9A3F7B2C67915, 0xC67178F2E372532B,
   0xCA273ECEEA26619C, 0xD186B8C721C0C207, 0xEADA7DD6CDE0EB1E, 0xF57D4F7FEE6ED178,
   0x06F067AA72176FBA, 0x0A637DC5A2C898A6, 0x113F9804BEF90DAE, 0x1B710B35131C471B,
   0x28DB77F523047D84, 0x32CAAB7B40C72493, 0x3C9EBE0A15C9BEBC, 0x431D67C49C100D4C,
   0x4CC5D4BECB3E42B6, 0x597F299CFC657E2A, 0x5FCB6FAB3AD6FAEC, 0x6C44198C4A475817]

/-- The initial hash value of SHA-384 (section 5.3.4). -/
def shaInit : List Nat :=
  [0xCBBB9D5DC1059ED8, 0x629A292A367CD507, 0x9159015A3070DD17, 0x152FECD8F70E5939,
   0x67332667FFC00B31, 0x8EB44A8768581511, 0xDB0C2E0D64F98FA7, 0x47B5481DBEFA4FA4]

/-- The message schedule, newest word first, extended by `n` words (section 6.4.2). -/
def shaExtend : Nat → List Nat → List Nat
  | 0, l => l
  | n + 1, l =>
    let w (i : Nat) : Nat := l.getD i 0
    let s0 := rotr64 (w 14) 1 ^^^ rotr64 (w 14) 8 ^^^ w 14 / 2 ^ 7
    let s1 := rotr64 (w 1) 19 ^^^ rotr64 (w 1) 61 ^^^ w 1 / 2 ^ 6
    shaExtend n ((s1 + w 6 + s0 + w 15) % 2 ^ 64 :: l)

/-- One round on the working variables a to h. -/
def shaRound (v : List Nat) (kw : Nat × Nat) : List Nat :=
  let x (i : Nat) : Nat := v.getD i 0
  let e := x 4
  let a := x 0
  let t1 := x 7 + (rotr64 e 14 ^^^ rotr64 e 18 ^^^ rotr64 e 41) + ((e &&& x 5) ^^^ ((2 ^ 64 - 1 - e) &&& x 6)) + kw.1 + kw.2
  let t2 := (rotr64 a 28 ^^^ rotr64 a 34 ^^^ rotr64 a 39) + ((a &&& x 1) ^^^ (a &&& x 2) ^^^ (x 1 &&& x 2))
  [(t1 + t2) % 2 ^ 64, a, x 1, x 2, (x 3 + t1) % 2 ^ 64, e, x 5, x 6]

/-- A big-endian number. -/
def beNat (l : List Byte) : Nat := leNat l.reverse

/-- The blocks of a padded message hashed. -/
def shaBlocks : Nat → List Nat → List Byte → List Nat
  | 0, h, _ => h
  | n + 1, h, m =>
    let ws := (List.range 16).map fun i => beNat ((m.drop (8 * i)).take 8)
    let w := (shaExtend 64 ws.reverse).reverse
    let v := ((shaKLow ++ shaKHigh).zip w).foldl shaRound h
    shaBlocks n ((h.zip v).map fun p => (p.1 + p.2) % 2 ^ 64) (m.drop 128)

/-- The padding of a message of `n` bytes (section 5.1.2). -/
def shaPad (n : Nat) : List Byte := 0x80 :: List.replicate ((239 - n % 128) % 128) 0 ++ (leBytes 16 (8 * n)).reverse

/-- SHA-384. -/
def sha384 (m : List Byte) : List Byte :=
  let p := m ++ shaPad m.length
  ((shaBlocks (p.length / 128) shaInit p).take 6).flatMap fun w => (leBytes 8 w).reverse

/-- The initial hash value of SHA-512 (section 5.3.5). -/
def sha512Init : List Nat :=
  [0x6A09E667F3BCC908, 0xBB67AE8584CAA73B, 0x3C6EF372FE94F82B, 0xA54FF53A5F1D36F1,
   0x510E527FADE682D1, 0x9B05688C2B3E6C1F, 0x1F83D9ABFB41BD6B, 0x5BE0CD19137E2179]

/-- SHA-512. -/
def sha512 (m : List Byte) : List Byte :=
  let p := m ++ shaPad m.length
  (shaBlocks (p.length / 128) sha512Init p).flatMap fun w => (leBytes 8 w).reverse

/-! ## SHA-256 (sections 4.1.2, 5.3.3 and 6.2.2): its constants and initial values are the upper halves of SHA-512's -/

/-- A 32-bit word turned right. -/
def rotr32 (x n : Nat) : Nat := x / 2 ^ n + x % 2 ^ n * 2 ^ (32 - n)

/-- The message schedule of SHA-256, newest word first, extended by `n` words. -/
def sha256Extend : Nat → List Nat → List Nat
  | 0, l => l
  | n + 1, l =>
    let w (i : Nat) : Nat := l.getD i 0
    let s0 := rotr32 (w 14) 7 ^^^ rotr32 (w 14) 18 ^^^ w 14 / 2 ^ 3
    let s1 := rotr32 (w 1) 17 ^^^ rotr32 (w 1) 19 ^^^ w 1 / 2 ^ 10
    sha256Extend n ((s1 + w 6 + s0 + w 15) % 2 ^ 32 :: l)

/-- One round of SHA-256. -/
def sha256Round (v : List Nat) (kw : Nat × Nat) : List Nat :=
  let x (i : Nat) : Nat := v.getD i 0
  let e := x 4
  let a := x 0
  let t1 := x 7 + (rotr32 e 6 ^^^ rotr32 e 11 ^^^ rotr32 e 25) + ((e &&& x 5) ^^^ ((2 ^ 32 - 1 - e) &&& x 6)) + kw.1 + kw.2
  let t2 := (rotr32 a 2 ^^^ rotr32 a 13 ^^^ rotr32 a 22) + ((a &&& x 1) ^^^ (a &&& x 2) ^^^ (x 1 &&& x 2))
  [(t1 + t2) % 2 ^ 32, a, x 1, x 2, (x 3 + t1) % 2 ^ 32, e, x 5, x 6]

/-- The blocks of a padded message hashed by SHA-256. -/
def sha256Blocks : Nat → List Nat → List Byte → List Nat
  | 0, h, _ => h
  | n + 1, h, m =>
    let ws := (List.range 16).map fun i => beNat ((m.drop (4 * i)).take 4)
    let w := (sha256Extend 48 ws.reverse).reverse
    let v := (((shaKLow ++ shaKHigh).map (· / 2 ^ 32)).zip w).foldl sha256Round h
    sha256Blocks n ((h.zip v).map fun p => (p.1 + p.2) % 2 ^ 32) (m.drop 64)

/-- SHA-256. -/
def sha256 (m : List Byte) : List Byte :=
  let p := m ++ 0x80 :: List.replicate ((119 - m.length % 64) % 64) 0 ++ (leBytes 8 (8 * m.length)).reverse
  (sha256Blocks (p.length / 64) (sha512Init.map (· / 2 ^ 32)) p).flatMap fun w => (leBytes 4 w).reverse

end Sys2Proof.Machine
end

