-- ==== Sys2Proof/Machine/Crypto.lean ====
section
/-!
DEFINITION. The two signatures of signed objects (spec/19_boundary.md R425): RSASSA-PSS of RFC 8017 with SHA-384, MGF1 with SHA-384 and a
48-byte salt under an RSA-3072 key, and SLH-DSA-SHA2-192s of FIPS 205. The keys are constants of Config (log entry 12).
-/
namespace Sys2Proof.Machine

/-! ## RSASSA-PSS (RFC 8017) -/

/-- Some bytes at a time, `n` times. -/
def chunks (k : Nat) : Nat → List Byte → List (List Byte)
  | 0, _ => []
  | n + 1, l => l.take k :: chunks k n (l.drop k)

/-- `n` as `k` big-endian bytes. -/
def beBytes (k n : Nat) : List Byte := (leBytes k n).reverse

/-- MGF1 (section B.2.1): `n` bytes from a seed, with a hash of `k` bytes. -/
def mgf1 (hash : List Byte → List Byte) (k n : Nat) (seed : List Byte) : List Byte :=
  ((List.range ((n + k - 1) / k)).flatMap fun i => hash (seed ++ beBytes 4 i)).take n

/-- A power modulo `m`: the bits of the exponent, `fuel` of them. -/
def powMod (m : Nat) : Nat → Nat → Nat → Nat
  | 0, _, _ => 1 % m
  | fuel + 1, b, e =>
    let r := powMod m fuel (b * b % m) (e / 2)
    if e % 2 = 1 then b * r % m else r

/-- Two byte strings, bit by bit exclusive or. -/
def xorBytes (a b : List Byte) : List Byte := List.zipWith (· ^^^ ·) a b

/-- EMSA-PSS-VERIFY (section 9.1.2) of an encoded message of 384 bytes and 3,071 bits. -/
def pssVerify (m em : List Byte) : Bool :=
  let masked := em.take 335
  let h := (em.drop 335).take 48
  let db := xorBytes masked (mgf1 sha384 48 335 h)
  let db := db.take 1 |>.map (· &&& 0x7F) |>.append (db.drop 1)
  em.length == 384 && em.drop 383 == [0xBC] && (masked.headD 0).toNat / 128 == 0 &&
    (db.take 286).all (· == 0) && (db.drop 286).take 1 == [1] &&
    h == sha384 (List.replicate 8 0 ++ sha384 m ++ db.drop 287)

/-- RSASSA-PSS-VERIFY (section 8.1.2) under a modulus and an exponent. -/
def rsaVerify (key : Nat × Nat) (m sig : List Byte) : Bool :=
  let s := beNat sig
  sig.length == 384 && decide (s < key.1) && pssVerify m (beBytes 384 (powMod key.1 (Nat.log2 key.2 + 1) s key.2))

/-! ## SLH-DSA-SHA2-192s (FIPS 205): n = 24, h = 63, d = 7, h' = 9, a = 14, k = 17, w = 16 -/

/-- A compressed address (section 11.2): layer, tree, type and its three words. -/
structure SlhAddr where
  layer : Nat := 0
  tree : Nat := 0
  type : Nat := 0
  w1 : Nat := 0
  w2 : Nat := 0
  w3 : Nat := 0

/-- Its 22 bytes. -/
def SlhAddr.bytes (a : SlhAddr) : List Byte :=
  beBytes 1 a.layer ++ beBytes 8 a.tree ++ beBytes 1 a.type ++ beBytes 4 a.w1 ++ beBytes 4 a.w2 ++ beBytes 4 a.w3

/-- F (section 11.2.2). -/
def slhF (seed : List Byte) (a : SlhAddr) (m : List Byte) : List Byte :=
  (sha256 (seed ++ List.replicate 40 0 ++ a.bytes ++ m)).take 24

/-- H and T_l (section 11.2.2). -/
def slhT (seed : List Byte) (a : SlhAddr) (m : List Byte) : List Byte :=
  (sha512 (seed ++ List.replicate 104 0 ++ a.bytes ++ m)).take 24

/-- base_2b (algorithm 4): `n` numbers of `b` bits each. -/
def slhBase (b n : Nat) (l : List Byte) : List Nat :=
  let bits := 8 * l.length
  (List.range n).map fun i => beNat l / 2 ^ (bits - b * (i + 1)) % 2 ^ b

/-- chain (algorithm 5): `n` applications from number `i` on. -/
def slhChain (seed : List Byte) (a : SlhAddr) : Nat → Nat → List Byte → List Byte
  | 0, _, x => x
  | n + 1, i, x => slhChain seed a n (i + 1) (slhF seed { a with w3 := i } x)

/-- A path upwards from a node: index, height of the node reached next, and the authentication path (algorithms 11 and 17). -/
def slhClimb (seed : List Byte) (a : SlhAddr) : Nat → Nat → List Byte → List (List Byte) → List Byte
  | _, _, x, [] => x
  | i, k, x, y :: l =>
    slhClimb seed a (i / 2) (k + 1) (slhT seed { a with w2 := k, w3 := i / 2 } (if i % 2 = 0 then x ++ y else y ++ x)) l

/-- wots_pkFromSig (algorithm 8), for the key pair in `a`. -/
def slhWots (seed : List Byte) (a : SlhAddr) (sig : List (List Byte)) (m : List Byte) : List Byte :=
  let msg := slhBase 4 48 m
  let csum := (msg.map (15 - ·)).sum
  let all := msg ++ slhBase 4 3 (beBytes 2 (csum * 16))
  slhT seed { a with type := 1, w2 := 0, w3 := 0 }
    (((all.zip sig).zip (List.range 51)).flatMap fun (x, i) => slhChain seed { a with type := 0, w2 := i } (15 - x.1) x.1 x.2)

/-- xmss_pkFromSig (algorithm 11). -/
def slhXmss (seed : List Byte) (a : SlhAddr) (idx : Nat) (sig : List (List Byte)) (m : List Byte) : List Byte :=
  slhClimb seed { a with type := 2, w1 := 0 } idx 1 (slhWots seed { a with w1 := idx } (sig.take 51) m) (sig.drop 51)

/-- The layers of ht_verify (algorithm 13). -/
def slhLayers (seed : List Byte) : Nat → Nat → Nat → List (List Byte) → List Byte → List Byte
  | _, _, _, [], x => x
  | j, tree, leaf, sig :: l, x =>
    slhLayers seed (j + 1) (tree / 512) (tree % 512) l (slhXmss seed { layer := j, tree := tree } leaf (chunks 24 60 sig) x)

/-- fors_pkFromSig (algorithm 17), for the tree and key pair in `a`. -/
def slhFors (seed : List Byte) (a : SlhAddr) (sig md : List Byte) : List Byte :=
  slhT seed { a with type := 4 }
    (((slhBase 14 17 md).zip ((chunks 360 17 sig).zip (List.range 17))).flatMap fun (n, s, i) =>
      let l := chunks 24 15 s
      let ix := i * 2 ^ 14 + n
      slhClimb seed { a with type := 3 } ix 1 (slhF seed { a with type := 3, w3 := ix } (l.headD [])) (l.drop 1))

/-- slh_verify (algorithms 20 and 24) of a pure signature with an empty context (log entry 12), under PK.seed and PK.root. -/
def slhVerify (key : List Byte × List Byte) (m sig : List Byte) : Bool :=
  let (seed, root) := key
  let m' := [0, 0] ++ m
  let r := sig.take 24
  let digest := mgf1 sha512 64 39 (r ++ seed ++ sha512 (r ++ seed ++ root ++ m'))
  let tree := beNat ((digest.drop 30).take 7) % 2 ^ 54
  let leaf := beNat ((digest.drop 37).take 2) % 2 ^ 9
  let fors := slhFors seed { tree := tree, w1 := leaf } ((sig.drop 24).take 6120) (digest.take 30)
  sig.length == 16224 && slhLayers seed 0 tree leaf (chunks 1440 7 (sig.drop 6144)) fors == root

end Sys2Proof.Machine
end

