-- ==== Sys2Proof/Machine/Launch.lean ====
section
/-!
DEFINITION. The banker's launch instructions, row 0x5 (spec/08_launch.md R181 to R206), and the events of a lintel sweep.
-/
namespace Sys2Proof.Machine

/-- A result: a status in bits 7:0 and, with status OK, a payload above it (R185). -/
def statusWord (st payload : Nat) : Nat := if st = 0 then payload else st

/-- A launch instruction answers a status and a payload after a latency. -/
def answer (s : State) (st payload lat : Nat) : BRes := .nat s (statusWord st payload) lat

/-- The launch identifier in A names an entry of the tile's table (R185). -/
def lidOk (s : State) (t : Nat) (a : Word) : Bool := decide (a.toNat < 65536) && (s.launch t a.toNat).used

/-! ## The configuration store (R181, R184, R206) -/

/-- The handle in A is live (R185). -/
def handleOk (s : State) (a : Word) : Bool := decide (a.toNat < 4096) && a.toNat != 0 && (Tab.get s.plinth.cfg a.toNat).live

/-- The handle that `cfgload` gives: the lowest that is not live (R181 names none; log entry 150). -/
def freeHandle (s : State) : Option Nat := ((List.range 4095).map (· + 1)).find? fun h => !(Tab.get s.plinth.cfg h).live

/-- Bytes the store holds. -/
def storeUsed (s : State) : Nat := (s.plinth.cfg.map fun p => if p.2.live then p.2.bytes.length else 0).sum

/-- The image at an address, header and body; none when reading it faults or it is longer than the store (R187). -/
def readImage (s : State) (t a : Nat) : Option (State × List Byte) :=
  if a % 8 ≠ 0 then none
  else match vRead s t a 32 with
    | .error _ => none
    | .ok (s, h) =>
      let len := imgLen (leNat h)
      if 2 ^ 26 < len then none
      else match vRead s t a (max len 32) with
        | .error _ => none
        | .ok r => some r

/-- `cfgload` (R181, R184). -/
def execCfgload (f : BForm) (s : State) : Host.Outcome State Fault Refusal :=
  runForm f s fun s t a _ =>
    match readImage s t a.toNat with
    | none => answer s 0x0D 0 16
    | some (s, bytes) =>
      let lat := 16 + (imgLen (imgHeader bytes) + 63) / 64
      match freeHandle s with
      | none => answer s 0x0C 0 lat
      | some h =>
        if 2 ^ 26 < storeUsed s + bytes.length then answer s 0x0C 0 lat
        else
          let e : CfgEnt := { live := true, bytes := bytes, check := checkImage bytes }
          answer (s.modPlinth fun p => { p with cfg := Tab.set p.cfg h e }) 0 (h * 2 ^ 8) lat

/-- `cfgfree` (R206). -/
def execCfgfree (f : BForm) (s : State) : Host.Outcome State Fault Refusal :=
  runForm f s fun s _ a _ =>
    if !handleOk s a then answer s 0x01 0 2
    else if usersOf s a.toNat ≠ 0 then answer s 0x0A 0 2
    else answer (s.modPlinth fun p => { p with cfg := Tab.set p.cfg a.toNat {} }) 0 0 2

/-- `cfgstat` (R185). -/
def execCfgstat (f : BForm) (s : State) : Host.Outcome State Fault Refusal :=
  runForm f s fun s _ a _ =>
    if !handleOk s a then answer s 0x01 0 2
    else
      let e := Tab.get s.plinth.cfg a.toNat
      let h := imgHeader e.bytes
      answer s 0 (e.check * 2 ^ 8 + fld h 40 2 * 2 ^ 16 + fld h 42 6 * 2 ^ 18 + usersOf s a.toNat % 65536 * 2 ^ 24) 2

/-! ## Launching (R186 to R189, R200) -/

/-- The offset table of a launch: O_c and D_c of each copy, or the status that reading it gives. -/
def readOffsets (s : State) (t b n : Nat) : Except Nat (State × List Nat) :=
  if b % 8 ≠ 0 then .error 0x07
  else match vRead s t b (8 * n) with
    | .error _ => .error 0x07
    | .ok (s, bytes) => .ok (s, wordsOf n bytes)

/-- The offsets of a launch without a table: O_c = c × TRIP (R186). -/
def plainOffsets (n trip : Nat) : List (Nat × Nat) := (List.range n).map fun c => (c * trip % 2 ^ 32, 0)

/-- The conditions of R200 on a staged launch and its partner. -/
def stagedOk (s : State) (t b h n : Nat) : Bool :=
  let p := s.launch t b
  let k := s.kernel h
  let pk := s.kernel p.handle
  decide (b < 65536) && p.used && p.state == .running && k.shape == pk.shape && p.ncopies == n &&
    (sharedMts k pk).all fun m => roleCode k m == roleCode pk m

/-- An identifier for a new launch: those still in the table are skipped (R189). -/
def nextLid (ls : Tab Launch) : Nat → Nat → Nat
  | 0, n => n
  | k + 1, n => if (Tab.get ls (n % 65536)).used then nextLid ls k (n + 1) else n

/-- The launch table with room for one more: the entry that ended longest ago gives way (R189). -/
def tableRoom (ls : Tab Launch) : Option (Tab Launch) :=
  let used := ls.filter (·.2.used)
  if used.length < 64 then some ls
  else
    let ended := used.filter fun p => !p.2.state.live && !p.2.cancelling
    match ended.foldl (fun acc p => insertBy (fun a b => decide (a.2.endOrder < b.2.endOrder)) p acc) [] with
    | [] => none
    | p :: _ => some (Tab.drop ls p.1)

/-- What a launch word comes to: its status, or the launch to be entered (R188). MISMATCH, which R188 does not place, comes behind NO_SINK and
before the capacity (log entry 161). -/
def checkLaunch (s : State) (t a b : Nat) : Except Nat (State × Launch) :=
  let h := fld a 0 12
  let n := fld a 12 5 + 1
  let trip := fld a 32 32
  let staged := bitOf a 27
  let e := Tab.get s.plinth.cfg h
  let k := s.kernel h
  if h = 0 ∨ !e.live then .error 0x01
  else if e.check ≠ 0 then .error (if e.check = 0x03 then 0x03 else 0x02)
  else
    let table : Except Nat (State × List Nat) := if staged || b == 0 then .ok (s, []) else readOffsets s t b n
    let reservedBits : Bool := match table with
      | .ok (_, l) => l.any fun w => fld w 48 16 != 0
      | .error _ => false
    if fld a 28 4 ≠ 0 ∨ reservedBits then .error 0x04
    else if (findRegions (fun _ => 0) (wallTiles s (s.wallOf t)) k n []).isNone then .error 0x03
    else if trip = 0 ∧ k.sinks = [] then .error 0x06
    else if staged && !stagedOk s t b h n then .error 0x0B
    else match table with
      | .error c => .error c
      | .ok (s, l) =>
        let offs := if staged || b == 0 then plainOffsets n trip else l.map fun w => (fld w 0 32, fld w 32 16)
        .ok (s, { used := true, handle := h, state := .queued, pri := fld a 17 2, trip := trip, csem := fld a 19 8, ncopies := n,
                  staged := staged, partner := if staged then b else 0, offs := offs, accepted := s.cyc })

/-- A launch entered in the tile's table and queue, with its identifier; QFULL when either is full (R189). -/
def enterLaunch (s : State) (t : Nat) (l : Launch) : Except Nat (State × Nat) :=
  let x := s.tile t
  if 16 ≤ (queuedLids x).length then .error 0x05
  else match tableRoom x.launches with
    | none => .error 0x05
    | some ls =>
      let n := nextLid ls 65 x.lidNext
      .ok (askPlacer (s.modTile t fun x => { x with launches := Tab.set ls (n % 65536) l, lidNext := n + 1 }) (s.wallOf t), n % 65536)

/-- A launch attempted. -/
def tryLaunch (s : State) (t a b : Nat) : Except Nat (State × Nat) :=
  match checkLaunch s t a b with
  | .error c => .error c
  | .ok (s, l) => enterLaunch s t l

/-- Cycles of a launch: the offset table takes one per copy (R185). -/
def launchTime (a b : Nat) : Nat := if bitOf a 27 || b == 0 then 2 else 2 + (fld a 12 5 + 1)

/-- `launch` (R188). -/
def execLaunch (f : BForm) (s : State) : Host.Outcome State Fault Refusal :=
  runForm f s fun s t a b =>
    match tryLaunch s t a.toNat b.toNat with
    | .error c => answer s c 0 (launchTime a.toNat b.toNat)
    | .ok (s, lid) => answer s 0 (lid * 2 ^ 16) (launchTime a.toNat b.toNat)

/-- `launcht`: a rejection traps LAUNCH_REJECT with the status (R188). -/
def execLauncht (f : BForm) (s : State) : Host.Outcome State Fault Refusal :=
  runForm f s fun s t a b =>
    match tryLaunch s t a.toNat b.toNat with
    | .error c => .cause 0x1B (BitVec.ofNat 64 c)
    | .ok (s, lid) => answer s 0 (lid * 2 ^ 16) (launchTime a.toNat b.toNat)

/-! ## Launch state (R196, R197, R199) -/

/-- The launch whose sweep a launch takes part in (R203). -/
def sweepOf (s : State) (t lid : Nat) : Option Nat :=
  ((s.tile t).launches.find? fun p => match p.2.sweep with
    | some w => p.1 == lid || w.newLid == lid
    | none => false).map (·.1)

/-- An action put off until a sweep is over (R203). -/
def deferTo (s : State) (t old : Nat) (d : Deferred) : State :=
  s.modLaunch t old fun l => { l with sweep := l.sweep.map fun w => { w with deferred := w.deferred ++ [d] } }

/-- STATE of `lqstat` (R197). -/
def LState.code : LState → Nat
  | .queued => 0
  | .loading => 1
  | .running => 2
  | .staged => 3
  | .sweeping => 4
  | .evicted => 5
  | .ended => 6
  | .cancelled => 7

/-- `lqstat` (R197). -/
def execLqstat (f : BForm) (s : State) : Host.Outcome State Fault Refusal :=
  runForm f s fun s t a _ =>
    if !lidOk s t a then answer s 0x09 0 2
    else
      let l := s.launch t a.toNat
      answer s 0 (l.state.code * 2 ^ 8 + (copiesOf s t a.toNat).length * 2 ^ 16 + l.pri * 2 ^ 22) 2

/-- A launch cancelled; while a sweep runs that names it, this is put off (R197, R203). -/
def lcancelNow (s : State) (t lid : Nat) : State :=
  match sweepOf s t lid with
  | some old => deferTo s t old (.cancel lid)
  | none => cancelLaunch s t lid

/-- `lcancel` (R197, R203). -/
def execLcancel (f : BForm) (s : State) : Host.Outcome State Fault Refusal :=
  runForm f s fun s t a _ =>
    if !lidOk s t a || !(s.launch t a.toNat).state.live then answer s 0x09 0 2
    else answer (lcancelNow s t a.toNat) 0 0 2

/-- `ctxpri` (R199, R203). -/
def execCtxpri (f : BForm) (s : State) : Host.Outcome State Fault Refusal :=
  runForm f s fun s t a b =>
    if !lidOk s t a || !(s.launch t a.toNat).state.live then answer s 0x09 0 2
    else if 3 < b.toNat then answer s 0x04 0 2
    else match sweepOf s t a.toNat with
      | some old => answer (deferTo s t old (.pri a.toNat b.toNat)) 0 0 2
      | none => answer (s.modLaunch t a.toNat fun l => { l with pri := b.toNat }) 0 0 2

/-- `ctxevict` (R204, R203). -/
def execCtxevict (f : BForm) (s : State) : Host.Outcome State Fault Refusal :=
  runForm f s fun s t a _ =>
    if !lidOk s t a then answer s 0x09 0 2
    else match sweepOf s t a.toNat with
      | some old => answer (deferTo s t old (.evict a.toNat)) 0 0 2
      | none =>
        if (s.launch t a.toNat).state != .running then answer s 0x09 0 2
        else if !canCut s t a.toNat then answer s 0x0E 0 2
        else answer (beginEvict s t a.toNat) 0 0 2

/-- `orphan` (R196). -/
def execOrphan (f : BForm) (s : State) : Host.Outcome State Fault Refusal :=
  runForm f s fun s t a b =>
    if !lidOk s t a then answer s 0x09 0 2
    else
      let n := (s.launch t a.toNat).orphans
      let s := if bitOf b.toNat 0 then s.modLaunch t a.toNat fun l => { l with orphans := 0 } else s
      answer s 0 (n * 2 ^ 8) 2

/-! ## Compaction (R205) -/

/-- Place of a copy's pages in the order of R25. -/
def placementIdx (c : Copy) : Nat := (placements c.kern.shape).findIdx (· == c.pages)

/-- The order in which copies are considered: descending tile, then placement and slot. -/
def moveBefore (a b : Copy) : Bool :=
  decide (b.tile < a.tile) || (a.tile == b.tile && (decide (placementIdx b < placementIdx a) ||
    (placementIdx a == placementIdx b && decide (b.slot < a.slot))))

/-- A copy that `compact` considers: resident and running, a held one among them (spec/18_system.md R405). -/
def movable (s : State) (w : Nat) (c : Copy) : Bool :=
  let l := s.launchOf c
  s.wallOf c.tile == w && c.counts && l.state == .running && s.snapOn c.tile

/-- The move of a copy planned, if a lower region fits. -/
def planMove (w : Nat) (acc : State × List CopyRef) (c : Copy) : State × List CopyRef :=
  let (s, moves) := acc
  let others := claims { s with copies := s.copies.filter fun x => x.ref ≠ c.ref }
  match findRegion (reservedMask s) others (wallTiles s w) c.kern with
  | none => acc
  | some x =>
    let idx := (placements c.kern.shape).findIdx (· == x.pages)
    if x.tile < c.tile ∨ (x.tile = c.tile ∧ idx < placementIdx c) then
      (s.modLaunch c.ref.issuer c.ref.lid fun l =>
        { l with leaving := Tab.set l.leaving c.ref.copy (some (x.tile, x.pages, x.slot)) }, moves ++ [c.ref])
    else acc

/-- `compact` (R205). -/
def execCompact (f : BForm) (s : State) : Host.Outcome State Fault Refusal :=
  runForm f s fun s t a _ =>
    let w := s.wallOf t
    if (s.wall w).compaction.isSome then answer s 0x08 0 2
    else
      let cs := (s.copies.filter (movable s w)).foldl (fun acc c => insertBy moveBefore c acc) []
      let (s, moves) := cs.foldl (planMove w) (s, [])
      let sem := fld a.toNat 0 8
      let sig := bitOf a.toNat 8
      let own := (outstanding (s.tile t).mem .banker).map fun i => (t, i)
      let s := if moves.isEmpty then (if sig then raiseAfter s t sem own else s)
        else s.modWall w fun x => { x with compaction := some { moves := moves, tile := t, sem := sem, sigEn := sig, waits := own } }
      answer s 0 (moves.length % 65536 * 2 ^ 8) 2

/-! ## The lintel sweep (R200 to R203) -/

/-- `lintel` (R201). -/
def execLintel (f : BForm) (s : State) : Host.Outcome State Fault Refusal :=
  runForm f s fun s t a b =>
    if !lidOk s t a || !lidOk s t b then answer s 0x09 0 2
    else
      let x := s.launch t a.toNat
      let y := s.launch t b.toNat
      if !(y.staged && y.partner == a.toNat && (y.state == .staged || y.state == .sweeping)) then answer s 0x0B 0 2
      else if x.state == .sweeping || y.state == .sweeping then answer s 0x08 0 2
      else if x.state != .running then answer s 0x09 0 2
      else
        let s := s.modLaunch t a.toNat fun l => { l with state := .sweeping, sweep := some { newLid := b.toNat } }
        answer (s.modLaunch t b.toNat fun l => { l with state := .sweeping }) 0 0 2

/-- The sweep of a launch changed. -/
def modSweep (s : State) (t lid : Nat) (f : Sweep → Sweep) : State :=
  s.modLaunch t lid fun l => { l with sweep := l.sweep.map f }

/-- The sweep of one copy changed. -/
def modSweepCopy (s : State) (c : CopyRef) (f : SweepCopy → SweepCopy) : State :=
  modSweep s c.issuer c.lid fun w => { w with copies := Tab.modify w.copies c.copy f }

/-- A request of an exponent lane belongs to a copy. -/
def laneBusy (s : State) (c : Copy) : Bool :=
  let mine (r : ExpReq) : Bool := match r with
    | .slot x .. => x == c.ref
    | _ => false
  (s.tile c.tile).lanes.any fun p => p.2.slots.any mine || p.2.flight.any fun q => mine q.2

/-- A copy whose II counter has started and that has not begun its sweep: running, stopped after its last instance, or held. -/
def Copy.mayBegin (c : Copy) : Bool :=
  match c.phase with
  | .running | .stopped | .held _ | .broken => true
  | _ => false

/-- The old context of a copy can start its sweep (R201). -/
def sweepReady (s : State) (c : Copy) : Bool :=
  match (s.launchOf c).sweep with
  | some w => !w.reversing && !(Tab.get w.copies c.ref.copy).started && c.mayBegin && c.v == 0 && landed s c && !laneBusy s c
  | none => false

/-- Cycles the token spends on a diagonal: the ceiling of the new II over 8. -/
def diagonalTime (k : Kernel) : Nat := (k.ii + 7) / 8

/-- The configuration a sweep brings in. -/
def newKernel (s : State) (c : CopyRef) : Kernel :=
  match (s.launch c.issuer c.lid).sweep with
  | some w => s.kernel (s.launch c.issuer w.newLid).handle
  | none => {}

/-- The lintel token of a copy's sweep (R202): forward, or on its way back from the CE whose fetch faulted. -/
def lintelToken (s : State) (c : Copy) (newLid : Nat) (origin : Option Nat) : Nat :=
  let new := ((s.copy? { c.ref with lid := newLid }).map (·.slot)).getD 0
  newLid * 2 ^ 48 + c.ref.lid * 2 ^ 32 + new * 2 ^ 24 + b2n origin.isSome * 2 ^ 23 + origin.getD 0 * 2 ^ 16 + c.slot * 2 ^ 14 + 3 * 2 ^ 12

/-- The sweep of a copy starts: the old context does not fire again (R201). -/
def execLintelSweepStart (ref : CopyRef) (s : State) : Host.Outcome State Fault Refusal :=
  .next (match s.copy? ref with
    | none => s
    | some c =>
      if sweepReady s c then
        let s := s.modCopy ref fun c => { c with phase := .sweeping }
        let tok := lintelToken s c (((s.launchOf c).sweep.map (·.newLid)).getD 0) none
        schedule (modSweepCopy s ref fun x => { x with started := true, was := c.phase, s0 := s.cyc, token := tok })
          (s.cyc + diagonalTime (newKernel s ref)) (.lintelDiagonalSwitch ref)
      else s)

/-- Every copy of a launch has completed its sweep. -/
def sweepDone (s : State) (t lid : Nat) : Bool :=
  let l := s.launch t lid
  match l.sweep with
  | some w => !w.reversing && (List.range l.ncopies).all fun c => (Tab.get w.copies c).complete
  | none => false

/-- A fetch faulted: no diagonal switches any more, and every copy's switched diagonals reverse, one a cycle, from the next cycle
on (R202). -/
def reverseSweep (s : State) (c : Copy) (x : Nat) : State :=
  let t := c.ref.issuer
  let w := ((s.launch t c.ref.lid).sweep).getD {}
  let most := (w.copies.map fun p => p.2.diag).foldl max 0
  let back (n : Nat) : Nat := match s.copy? { c.ref with copy := n } with
    | some y => lintelToken s y w.newLid (some x)
    | none => 0
  let s := modSweep s t c.ref.lid fun w =>
    { w with reversing := true, loc := copyLoc c x 0,
             copies := w.copies.map fun p => (p.1, { p.2 with back := p.2.diag, token := back p.1 }) }
  let s := { s with sched := s.sched.filter fun p => match p.2 with
    | .lintelDiagonalSwitch r => !(r.issuer == t && r.lid == c.ref.lid)
    | _ => true }
  schedule s (s.cyc + most + 1) (.sweepReversalDone t c.ref.lid)

/-- The CEs of a diagonal. -/
def diagonal (shape d : Nat) : List Nat := (ceList shape).filter fun x => x % 8 + x / 8 == d

/-- The last diagonal of a shape. -/
def lastDiagonal (shape : Nat) : Nat := let (w, h) := shapeDims shape; w + h - 2

/-- A diagonal fetches its new tables and switches, or its fetch faults (R201, R202; log entry 11). -/
def execLintelDiagonalSwitch (ref : CopyRef) (s : State) : Host.Outcome State Fault Refusal :=
  .next (match s.copy? ref, (s.launch ref.issuer ref.lid).sweep with
    | some c, some w =>
      let x := Tab.get w.copies ref.copy
      if w.reversing || !x.started || x.complete then s
      else
        let k := newKernel s ref
        let s := { s with draws := s.draws + 1 }
        match Config.cfgFetchFault s.draws with
        | some ce =>
          if (diagonal k.shape x.diag).contains ce then reverseSweep s c ce
          else switchOn s c k x ref w
        | none => switchOn s c k x ref w
    | _, _ => s)
where
  /-- The CEs of the diagonal take their new tables; the token goes on, or the copy is complete. -/
  switchOn (s : State) (_c : Copy) (k : Kernel) (x : SweepCopy) (ref : CopyRef) (w : Sweep) : State :=
    let ces := diagonal k.shape x.diag
    let s := s.modCopy { ref with lid := w.newLid } fun n =>
      { n with table := ces.foldl (fun t ce => Tab.put t ce (Tab.get (kernelTables k) ce)) n.table }
    if x.diag = lastDiagonal k.shape then
      let s := modSweepCopy s ref fun x => { x with diag := x.diag + 1, complete := true }
      if sweepDone s ref.issuer ref.lid then schedule s s.cyc (.sweepCommit ref.issuer ref.lid) else s
    else
      schedule (modSweepCopy s ref fun x => { x with diag := x.diag + 1 }) (s.cyc + diagonalTime k) (.lintelDiagonalSwitch ref)

/-- A deferred action applied (R203). -/
def applyDeferred (t : Nat) (s : State) (d : Deferred) : State :=
  match d with
  | .pri lid p => s.modLaunch t lid fun l => { l with pri := p }
  | .evict lid => if (s.launch t lid).state == .running && canCut s t lid then beginEvict s t lid else s
  | .cancel lid => if (s.launch t lid).state.live then cancelLaunch s t lid else s

/-- The launch a deferred action names. -/
def Deferred.lid : Deferred → Nat
  | .pri l _ | .evict l | .cancel l => l

/-- What the FIFO memory tiles of an old launch's sinks hold goes to the new copy that owns them from commit on: such a tile is not
released (R200, R179; log entry 134). -/
def handOver (s : State) (t lid : Nat) (n : Copy) : State :=
  match s.copy? { n.ref with issuer := t, lid := lid } with
  | none => s
  | some o =>
    let ms := (sharedMts n.kern o.kern).filter fun m => o.kern.isSink m && bitOf n.kern.mtFifo m
    s.modCopy n.ref fun n => ms.foldl (fun n m =>
      { n with fifos := Tab.modify n.fifos m fun q => (Tab.get o.fifos m).map (fun k => { k with src := 0 }) ++ q }) n

/-- Commit: the old launch ends, the new one runs from commit + 2 (R201); deferred actions that name the old launch are
discarded (R203). -/
def execSweepCommit (t lid : Nat) (s : State) : Host.Outcome State Fault Refusal :=
  .next (match (s.launch t lid).sweep with
    | none => s
    | some w =>
      if !sweepDone s t lid then s
      else
        let s := (copiesOf s t w.newLid).foldl (fun s n => handOver s t lid n) s
        let s := endLaunch s t lid .ended
        let s := s.modLaunch t lid fun l => { l with sweep := none }
        let s := s.modLaunch t w.newLid fun l => { l with state := .running, staged := false }
        let s := (copiesOf s t w.newLid).foldl (fun s c =>
          schedule (s.modCopy c.ref fun c => { c with phase := .waiting }) (s.cyc + 2) (.copyStart c.ref)) s
        (w.deferred.filter (·.lid != lid)).foldl (applyDeferred t) s)

/-- Every copy has reversed: the old contexts resume, and CFG_FETCH is posted (R202). -/
def execSweepReversalDone (t lid : Nat) (s : State) : Host.Outcome State Fault Refusal :=
  .next (match (s.launch t lid).sweep with
    | none => s
    | some w =>
      if !w.reversing then s
      else
        let s := { s with copies := s.copies.map fun (c : Copy) =>
          if c.ref.issuer = t ∧ c.ref.lid = lid ∧ c.phase = CopyPhase.sweeping then { c with phase := (Tab.get w.copies c.ref.copy).was }
          else if c.ref.issuer = t ∧ c.ref.lid = w.newLid then { c with table := [] } else c }
        let s := s.modLaunch t lid fun l => { l with state := .running, sweep := none }
        let s := s.modLaunch t w.newLid fun l => { l with state := .staged }
        let s := w.deferred.foldl (applyDeferred t) s
        postTrap s t { trap := { cause := 0x1C, posted := true, lid := lid, info := w.loc, info2 := BitVec.ofNat 64 w.newLid }, rank := 3 })

end Sys2Proof.Machine
end

