-- ==== Sys2Proof/Machine/Snap.lean ====
section
/-!
DEFINITION. Cuts of a copy: when one is due, its recording, its completion and its failure (spec/18_system.md R401, R402),
how a copy that must leave does so (R408), and TILE.RESUME (R405).
-/
namespace Sys2Proof.Machine

/-- A copy that has to leave its region at its next cut (R407, R408, spec/08_launch.md R204, R205); while a sweep of its launch
runs, that is put off (spec/08_launch.md R203). -/
def mustLeave (s : State) (c : Copy) : Bool :=
  ((s.launchOf c).evicting || (Tab.get (s.launchOf c).leaving c.ref.copy).isSome) && (sweepOf s c.ref.issuer c.ref.lid).isNone

/-- The next firing of a copy waits for a cut: it stands at an instance boundary past its last cut, and the instance index
is a multiple of SNAP or the input log of that cut is nearly full (R401). -/
def cutDue (s : State) (c : Copy) : Bool :=
  s.snapOn c.tile && c.phase == .running && c.v == 0 && c.cutJ != c.j &&
    (c.j % c.kern.snap == 0 || decide (53248 < c.log.length))

/-- The conditions for recording a cut hold: earlier writes have landed, an atomic's into the result register among them, no lease
stands, no `sload` is pending and the cut before it is complete (R401). -/
def cutReady (s : State) (c : Copy) : Bool :=
  cutDue s c && landed s c && c.writing.isNone && !c.logBad

/-- A marker with the number of a cut pushed on every boundary output edge, behind the tokens already pushed (R400, R401). -/
def pushMarkers (s : State) (c : Copy) (k : Nat) : State :=
  (c.kern.edges.filter c.isOutput).foldl (fun s e => match e.src with
    | .ce x ch => addDue s { at' := s.cyc + 1, phase := 0, key := x, iss := s.cyc, act := .marker c.ref x ch k }
    | .mt _ => s) s

/-- What one table counts less what another does. -/
def tabLess (a b : Tab Nat) : Tab Nat := b.foldl (fun t p => Tab.modify t p.1 (· - p.2)) a

/-- A copy records its cut, pushes its markers and starts a new input log; it fires in the next cycle (R401). Tokens that an
output edge has delivered beyond the cut are those still to be discarded (R403): they count as pushed since this cut, not before it. -/
def execSnapshotCut (ref : CopyRef) (s : State) : Host.Outcome State Fault Refusal :=
  .next (match s.copy? ref with
    | none => s
    | some c =>
      if cutReady s c then
        let k := (c.cutK + 1) % 2 ^ 32
        pushMarkers (s.modCopy ref fun c =>
          { c with writing := some (cutOf s c k), cutK := k, cutJ := c.j, logPrev := c.log, log := [], pushedPrev := tabLess c.pushed c.skip,
                   pushed := c.skip, leave := mustLeave s c, resumeAt := s.cyc + 1 }) c k
      else s)

/-- The bank of a cut (R402). -/
def bankAddr (s : State) (c : Copy) (k : Nat) : Nat :=
  fld (s.tile c.tile).sys.snapbase.toNat 26 22 * 2 ^ 26 + (2 * (4 * c.slot + c.pages.getD 0 0) + k % 2) * 2 ^ 21

/-- A bank that cannot be written: part of it lies in no populated part of memory. -/
def bankFault (s : State) (c : Copy) (k : Nat) : Bool := (areaFault s (bankAddr s c k) (2 ^ 21)).isSome

/-- A cut written into its bank at package scope, in a form the spec does not define (R402, log entry 131). -/
def writeBank (s : State) (c : Copy) (k : Cut) : State × Cut :=
  let a := bankAddr s c k.k
  let bytes := (Config.cutBytes s.draws).take (2 ^ 21)
  (homeWrite { s with draws := s.draws + 1 } a bytes, { k with bankAt := a, bank := bytes })

/-- The bank of a cut is wholly written: it is the last complete cut, and a copy that must leave leaves (R402, R408), unless a
sweep of its launch has begun (spec/08_launch.md R203) or a fault has stopped it (R406). -/
def execCutComplete (ref : CopyRef) (s : State) : Host.Outcome State Fault Refusal :=
  .next (match s.copy? ref with
    | none => s
    | some c => match c.writing with
      | none => s
      | some k =>
        if bankFault s c k.k then s
        else
          let (s, k) := writeBank s c k
          let n : Copy := { c with done := some k, writing := none, logPrev := [], pushedPrev := [], leave := false }
          let s := s.modCopy ref fun _ => n
          if c.leave && c.phase != .failing && mustLeave s c then leaveRegion s n k else s)

/-- SNAP_FAIL: the cut's number, and the copy (R395, R402). -/
def snapFail (s : State) (c : Copy) (k : Nat) : State :=
  postTrap s c.ref.issuer { trap := { cause := 0x25, posted := true, info := BitVec.ofNat 64 k,
                                      info2 := BitVec.ofNat 64 (c.ref.lid + c.ref.copy * 2 ^ 16) }, rank := 3 }

/-- A write of a cut faults: the cut is abandoned, its number is free again, and its input log joins the older one; a log write
that faults makes the log unusable (R401, R402). -/
def execCutWriteFault (ref : CopyRef) (s : State) : Host.Outcome State Fault Refusal :=
  .next (match s.copy? ref with
    | none => s
    | some c =>
      if !s.snapOn c.tile then s
      else match c.writing with
        | some k =>
          snapFail (s.modCopy ref fun c =>
            { c with writing := none, leave := false, cutK := (c.done.map (·.k)).getD 0, log := c.logPrev ++ c.log, logPrev := [],
                     pushed := pushedSince c, pushedPrev := [] }) c k.k
        | none =>
          if c.log = [] ∨ c.logBad then s else snapFail (s.modCopy ref fun c => { c with logBad := true }) c c.cutK)

/-- A copy that RESUME may resume: rolled back, or held by `brk` (R403, R405, R409). -/
def Copy.resumable (c : Copy) : Bool :=
  (c.phase == .held true || c.phase == .broken) && !c.logBad

/-- A launch has a copy that is held. -/
def anyHeld (s : State) (t lid : Nat) : Bool :=
  (copiesOf s t lid).any fun c => match c.phase with
    | .held _ | .broken => true
    | _ => c.logBad

/-- Every held copy of a launch goes on in the next cycle. -/
def resumeAll (s : State) (t lid : Nat) : State :=
  { s with copies := s.copies.map fun (c : Copy) =>
      if c.ref.issuer = t ∧ c.ref.lid = lid ∧ c.resumable then { c with phase := .running, resumeAt := s.cyc + 1 } else c }

/-- A write of TILE.RESUME (R405). -/
def writeResume (s : State) (t : Nat) (v : Nat) : State :=
  let lid := fld v 0 16
  if !anyHeld s t lid then s
  else if fld v 16 2 = 0 then resumeAll s t lid
  else if fld v 16 2 = 1 then lcancelNow s t lid
  else s

end Sys2Proof.Machine
end

