-- ==== Sys2Proof/Machine/Cells.lean ====
section
/-!
DEFINITION. The block cell (spec/11_systolic.md): records, descriptors and panels, and what each row 0x9 operation and
`stopk` make of a record, as functions of its bytes.
-/
namespace Sys2Proof.Machine

/-! ## Descriptors (R259) -/

/-- What a panel format register names: the format, the container width and the most rows of a panel. -/
def panelFmt (r : Nat) : Option (EdgeFmt × Nat × Nat) :=
  match fmtOfReg r with
  | some (.narrow f) => some (.narrow f, containerBits f.width, 64)
  | some (.int g .b8) => some (.int g .b8, 8, 64)
  | some (.wide f) => some (.wide f, f.width, if f.width = 32 then 16 else 32)
  | _ => none

/-- A key format of a sort record. -/
def keyFmt (r : Nat) : Option EdgeFmt :=
  match fmtOfReg r with
  | some (.wide f) => if f.sub then some (.wide f) else none
  | some (.int g .b32) => some (.int g .b32)
  | _ => none

/-- MODE of a descriptor. -/
def cdSort (d : Nat) : Bool := bitOf d 44
/-- PANEL of a descriptor. -/
def cdPanel (d : Nat) : Nat := fld d 24 20
/-- K or L of a descriptor. -/
def cdLen (d : Nat) : Nat := fld d 16 6 + 1

/-- Bytes of a panel of K rows with containers of c bits. -/
def panelBytes (c k : Nat) : Nat := 64 + 2 * c * k

/-- Bytes of the panel a matrix descriptor names; none where format and K form no valid pair. -/
def cdPanelBytes (d : Nat) : Option Nat :=
  match panelFmt (fld d 0 16) with
  | some (_, c, kmax) => if cdLen d ≤ kmax then some (panelBytes c (cdLen d)) else none
  | none => none

/-- The list length of a sort descriptor: no limit makes KM1 from 16 up invalid, and a record holds 16 entries (log entry 60). -/
def cdList (d : Nat) : Nat := min 16 (cdLen d)

/-- A descriptor is valid. -/
def cdOk (d : Nat) : Bool :=
  fld d 45 19 == 0 && fld d 22 2 == 0 &&
  if cdSort d then (keyFmt (fld d 0 16)).isSome && cdPanel d == 0
  else match cdPanelBytes d with
    | some n => decide (fld d 24 16 + n ≤ 65536)
    | none => false

/-! ## Records (R258) -/

/-- A field of `n` bytes of a record. -/
def recGet (r : List Byte) (off n : Nat) : Nat := leNat ((r.drop off).take n)

/-- A field of `n` bytes of a record replaced. -/
def recPut (r : List Byte) (off n v : Nat) : List Byte := r.take off ++ leBytes n v ++ r.drop (off + n)

/-- Bytes of a record zeroed. -/
def recZero (r : List Byte) (off n : Nat) : List Byte := r.take off ++ List.replicate n 0 ++ r.drop (off + n)

/-- DESC. -/
def recDesc (r : List Byte) : Nat := recGet r 0xC0 8
/-- STAT. -/
def recStat (r : List Byte) : Nat := recGet r 0xC8 8
/-- POS or CNT. -/
def recPos (r : List Byte) : Nat := fld (recStat r) 0 7
/-- A record with POS or CNT replaced. -/
def recSetPos (r : List Byte) (p : Nat) : List Byte := recPut r 0xC8 8 (setFld (recStat r) 0 7 p)
/-- A record with NBLK replaced. -/
def recSetNblk (r : List Byte) (n : Nat) : List Byte := recPut r 0xC8 8 (setFld (recStat r) 32 32 n)
/-- AHDR. -/
def recAhdr (r : List Byte) : Nat := recGet r 0xD0 8
/-- ACC[c]. -/
def recAcc (r : List Byte) (c : Nat) : Nat := recGet r (4 * c) 4
/-- BLK[c]. -/
def recBlk (r : List Byte) (c : Nat) : Nat := recGet r (0x40 + 8 * c) 8

/-- A record with every column changed by a function of its number. -/
def mapCols (f : Nat → List Byte → List Byte) (r : List Byte) : List Byte := (List.range 16).foldl (fun r c => f c r) r

/-! ## Panels (R260) -/

/-- SCALE[c] of a panel. -/
def panelScale (p : List Byte) (c : Nat) : Nat := fld (leNat ((p.drop (4 * c)).take 4)) 0 20

/-- The value of w[k][c], given the codes of a panel as one number. -/
def panelCode (f : EdgeFmt) (w codes k c : Nat) : FVal := f.value (fld codes ((16 * k + c) * w) w)

/-- The codes of a panel. -/
def panelCodes (p : List Byte) : Nat := leNat (p.drop 64)

/-! ## Feeding (R269, R271) -/

/-- One product added to the open block of a column: N, or a special-value flag. -/
def feedProduct (fa fb : EdgeFmt) (x y : FVal) (b : Nat) : Nat :=
  match x.mul y with
  | .nan => setFld b 48 1 1
  | .inf neg => if neg then setFld b 50 1 1 else setFld b 49 1 1
  | .fin .. => setFld b 0 48 (wrapInt (sextNat (fld b 0 48) 48 + elemInt fa x * elemInt fb y) 48)

/-- The elements of a token fed from block position k on: those below `lim` meet the panel's rows. -/
def feedElems (fa fb : EdgeFmt) (w codes lim : Nat) : Nat → List FVal → List Byte → List Byte
  | _, [], r => r
  | k, x :: xs, r =>
    let r := if k < lim then mapCols (fun c r => recPut r (0x40 + 8 * c) 8 (feedProduct fa fb x (panelCode fb w codes k c) (recBlk r c))) r
      else r
    feedElems fa fb w codes lim (k + 1) xs r

/-- One wide element fed at a position: every column takes one rounded multiply-add. -/
def feedWide (fb : EdgeFmt) (w codes len k : Nat) (x : FVal) (r : List Byte) : List Byte :=
  if k < len then mapCols (fun c r => recPut r (4 * c) 4
    (f32Fmt.round .rne (FVal.add .rne (f32Fmt.decode (recAcc r c)) (x.mul (panelCode fb w codes k c))))) r
  else r

/-! ## Closing a block (R270) -/

/-- A block's result from the flags and N of its column (spec/03_numbers.md R102, R104). A negative N under a zero scale gives −0
(log entry 152). -/
def closeVal (fa fb : EdgeFmt) (sa sb : FVal) (b : Nat) : Nat :=
  let nan := bitOf b 48
  let pinf := bitOf b 49
  let ninf := bitOf b 50
  let n := sextNat (fld b 0 48) 48
  if nan || sa.isNan || sb.isNan || ((sa.isZero || sb.isZero) && (pinf || ninf)) || (pinf && ninf) then f32Fmt.nanCode
  else if pinf then f32Fmt.infCode false
  else if ninf then f32Fmt.infCode true
  else if n = 0 then 0
  else f32Fmt.round .rne ((FVal.mul (.fin (decide (n < 0)) n.natAbs 1 (fa.lsbExp + fb.lsbExp)) sa).mul sb)

/-- The scale an element format takes: none for an integer type. -/
def scaleVal (f : EdgeFmt) (s : Nat) : FVal :=
  match f with
  | .int .. => .fin false 1 1 0
  | _ => s20Val s

/-! ## Sort lists (R274, R275) -/

/-- Place of LIST[j] in a sort record. -/
def listOff (j : Nat) : Nat := 8 * j

/-- LIST[j]: index and key. -/
def recEntry (r : List Byte) (j : Nat) : Nat := recGet r (listOff j) 8

/-- Entries held: CNT, at most 16 (log entry 60). -/
def recCnt (r : List Byte) : Nat := min (recPos r) 16

/-- The key bits of a format, with a NaN made canonical. -/
def keyBits (f : EdgeFmt) (v : Nat) : Nat :=
  match f with
  | .wide g => g.round .rne (g.decode (v % 2 ^ g.width))
  | _ => v % 2 ^ 32

/-- A list with one entry inserted: the entries, and the one pushed past the end or turned away, if there is one. -/
def sortInsert (f : EdgeFmt) (len : Nat) (l : List Nat) (key idx : Nat) : List Nat × Option Nat :=
  let e := idx * 2 ^ 32 + key
  let p := (l.findIdx? fun y => ranksBefore (f.value key) idx (f.value (fld y 0 32)) (fld y 32 32)).getD l.length
  let l' := l.take p ++ [e] ++ l.drop p
  if len ≤ p then (l, some e) else (l'.take len, l'[len]?)

/-- A record with its list replaced. -/
def recSetList (r : List Byte) (l : List Nat) : List Byte :=
  recSetPos ((l.zip (List.range l.length)).foldl (fun r p => recPut r (listOff p.2) 8 p.1) r) l.length

/-- The list of a record. -/
def recList (r : List Byte) : List Nat := (List.range (recCnt r)).map (recEntry r)

/-! ## The operations -/

/-- What an operation makes of a record: a cause, or the record and the value for d where it delivers one. -/
abbrev CellRes := Except Nat (List Byte × Option Val)

/-- `sfeed` (R269): the token, its header and its place in the block. -/
def cellFeed (r panel : List Byte) (tok : Token) : CellRes :=
  let d := recDesc r
  match panelFmt (fld d 0 16), fmtOfReg (hdrFmt tok.hdr) with
  | some (fb, w, _), fa? =>
    let e := match fa? with
      | some f => f.perToken
      | none => 1
    let pos := recPos r
    match fa? with
    | none => .error 0x05
    | some fa =>
      if !pairable fa fb then .error 0x05
      else if (tok.pos = 0 ∧ pos ≠ 0) ∨ (tok.pos ≠ 0 ∧ pos ≠ tok.pos * e) then .error 0x07
      else
        let h := tok.hdr
        let r := if tok.pos = 0 then recPut r 0xD0 8 (hdrNval h * 2 ^ 36 + hdrFmt h * 2 ^ 20 + hdrScale h) else r
        let r := feedElems fa fb w (panelCodes panel) (min (hdrNval h + 1) (cdLen d)) (tok.pos * e) (tokenValues fa tok.val.v.toNat e) r
        .ok (recSetPos r (min (tok.pos * e + e) (hdrNval h + 1)), none)
  | none, _ => .error 0x06

/-- `sfeedw` (R271), with B and C decoded in a format. -/
def cellFeedW (r panel : List Byte) (f : Fmt) (b c : Word) : CellRes :=
  let d := recDesc r
  match panelFmt (fld d 0 16) with
  | some (fb, w, _) =>
    let p := recPos r
    let codes := panelCodes panel
    let r := feedWide fb w codes (cdLen d) (p + 1) (fRead f c) (feedWide fb w codes (cdLen d) p (fRead f b) r)
    .ok (recSetPos r (min (p + 2) 64), none)
  | none => .error 0x06

/-- NBLK one more. -/
def recCloseBlk (r : List Byte) : List Byte := recSetNblk (recSetPos r 0) (fld (recStat r) 32 32 + 1)

/-- `sacc` (R270). -/
def cellAcc (r panel : List Byte) : CellRes :=
  let d := recDesc r
  match panelFmt (fld d 0 16) with
  | some (fb, _, _) =>
    if recPos r = 0 then .ok (r, none)
    else match fb with
      | .wide _ => .ok (recCloseBlk r, none)
      | _ =>
        let h := recAhdr r
        if recPos r ≠ fld h 36 6 + 1 then .error 0x07
        else
          let fa := (fmtOfReg (fld h 20 16)).getD fb
          let sa := scaleVal fa (fld h 0 20)
          let r := mapCols (fun c r =>
            recPut (recPut r (4 * c) 4 (f32Add .rne (recAcc r c) (closeVal fa fb sa (scaleVal fb (panelScale panel c)) (recBlk r c))))
              (0x40 + 8 * c) 8 0) r
          .ok (recPut (recCloseBlk r) 0xD0 8 0, none)
  | none => .error 0x06

/-- `sdrain` (R272). -/
def cellDrain (r : List Byte) (pair clr : Bool) (b : Word) : CellRes :=
  let cols := if pair then [2 * fld b.toNat 0 3, 2 * fld b.toNat 0 3 + 1] else [fld b.toNat 0 4]
  let v := (cols.zip [0, 32]).foldl (fun v p => v + recAcc r p.1 * 2 ^ p.2) 0
  .ok (if clr then cols.foldl (fun r c => recPut r (4 * c) 4 0) r else r, some { v := BitVec.ofNat 64 v })

/-- `sclr` (R268). -/
def cellClear (r : List Byte) (b : Word) : CellRes :=
  if cdSort (recDesc r) then .ok (recSetNblk (recSetPos (recZero r 0 0xC0) 0) 0, none)
  else
    let v := f32Fmt.round .rne (f32Fmt.decode (fld b.toNat 0 32))
    let r := mapCols (fun c r => recPut r (4 * c) 4 v) (recZero r 0x40 0x80)
    .ok (recPut (recSetNblk (recSetPos r 0) 0) 0xD0 8 0, none)

/-- `scfg` (R267), with a valid descriptor. -/
def cellConfig (r : List Byte) (b : Word) : CellRes :=
  if !cdSort (recDesc r) && recPos r != 0 then .error 0x07
  else
    let r := recPut (recSetPos (recPut r 0xC0 8 b.toNat) 0) 0xD0 8 0
    .ok (if cdSort b.toNat then recZero r 0 0xC0 else recZero r 0x40 0x80, none)

/-- `scmpx` (R274), and the entry pushed out, which `stopk` delivers (spec/16_sampling.md R365). -/
def cellInsert (r : List Byte) (key idx : Nat) : Except Nat (List Byte × Option Nat) :=
  match keyFmt (fld (recDesc r) 0 16) with
  | some f =>
    let (l, out) := sortInsert f (cdList (recDesc r)) (recList r) (keyBits f key) idx
    .ok (recSetList r l, out)
  | none => .error 0x06

/-- `skey` (R275). -/
def cellKey (r : List Byte) (j : Nat) : Val :=
  if recCnt r ≤ j then { void := true }
  else match keyFmt (fld (recDesc r) 0 16) with
    | some (.int true _) => { v := BitVec.ofNat 64 (wrapInt (sextNat (fld (recEntry r j) 0 32) 32) 64) }
    | _ => { v := BitVec.ofNat 64 (fld (recEntry r j) 0 32) }

/-- `sidx` (R275). -/
def cellIdx (r : List Byte) (j : Nat) : Val :=
  if recCnt r ≤ j then { void := true } else { v := BitVec.ofNat 64 (fld (recEntry r j) 32 32) }

/-- `stopk` (spec/16_sampling.md R365): it delivers B itself, bit for bit, when B is turned away. -/
def cellTopk (r : List Byte) (b : Word) : CellRes :=
  if fld (recDesc r) 0 16 ≠ 0x0003 then .error 0x06
  else match cellInsert r (fld b.toNat 0 32) (fld b.toNat 32 32) with
    | .error c => .error c
    | .ok (r', none) => .ok (r', some { void := true })
    | .ok (r', some e) => .ok (r', some { v := if r' = r then b else BitVec.ofNat 64 e })

/-- The kind of record an operation requires (R269 to R275): matrix narrow, matrix wide, any matrix, sort, or none. -/
inductive CellNeed where
  | narrow | wide | matrix | sort | none
deriving DecidableEq, Repr, Inhabited

/-- The kind a cell operation requires. -/
def cellNeed : CellOp → CellNeed
  | .sfeed => .narrow
  | .sfeedw _ => .wide
  | .sacc | .sdrain .. => .matrix
  | .scmpx | .skey | .sidx => .sort
  | .sclr | .scfg | .sload => .none

/-- The record's descriptor fits what an operation requires (R276, order 3). -/
def descFits (n : CellNeed) (d : Nat) : Bool :=
  match n with
  | .none => true
  | .sort => cdOk d && cdSort d
  | .matrix => cdOk d && !cdSort d
  | .wide => cdOk d && !cdSort d && (match panelFmt (fld d 0 16) with
    | some (.wide _, _) => true
    | _ => false)
  | .narrow => cdOk d && !cdSort d && (match panelFmt (fld d 0 16) with
    | some (.wide _, _) => false
    | _ => true)

/-- The operation reads the panel: of these the panel's address is checked. R276 does not say of which operations it is; `sdrain` is left
out, a wide or empty `sacc` is not (log entry 165). -/
def readsPanel : CellOp → Bool
  | .sfeed | .sfeedw _ | .sacc => true
  | _ => false

/-! ## Compressed panels (R262) -/

/-- Containers as one number. -/
def packCodes (w : Nat) : List Nat → Nat
  | [] => 0
  | x :: l => x % 2 ^ w + packCodes w l * 2 ^ w

/-- A bitmap-coded row: the codes of its 16 columns, from the number of the containers that follow the mask. -/
def bitmapRow (w mask packed : Nat) : List Nat :=
  (List.range 16).map fun c =>
    if bitOf mask c then fld packed (popcNat c (fld mask 0 c) * w) w else 0

/-- Bitmap-coded rows decoded: the codes of each row, and the bytes used; none where bytes are missing. -/
def bitmapRows (w : Nat) : Nat → List Byte → Option (List Nat × Nat)
  | 0, _ => some ([], 0)
  | n + 1, bs =>
    let mask := leNat (bs.take 2)
    let len := 2 + (popcNat 16 mask * w + 7) / 8
    if bs.length < len then none
    else match bitmapRows w n (bs.drop len) with
      | some (l, m) => some (bitmapRow w mask (leNat ((bs.take len).drop 2)) ++ l, len + m)
      | none => none

/-- A compressed panel that starts `quarter`, which is cut at the quarter's end: the decompressed bytes and LEN; none when
it is bad. -/
def decompress (quarter : List Byte) : Option (List Byte × Nat) :=
  let h := leNat (quarter.take 8)
  let len := fld h 24 16
  let k := fld h 16 6 + 1
  if fld h 40 24 ≠ 0 ∨ quarter.length < len then none
  else match panelFmt (fld h 0 16) with
    | none => none
    | some (_, w, kmax) =>
      if kmax < k then none
      else
        let body := (quarter.take len).drop 72
        let need (codes : Nat) : Bool := len == (72 + codes + 7) / 8 * 8
        match fld h 22 2 with
        | 0 => if need (2 * w * k) then some ((quarter.drop 8).take (panelBytes w k), len) else none
        | 1 => match bitmapRows w k body with
          | some (codes, used) =>
            if need used then some ((quarter.drop 8).take 64 ++ leBytes (2 * w * k) (packCodes w codes), len) else none
          | none => none
        | _ => none

end Sys2Proof.Machine
end

