-- ==== Sys2Proof/Machine/Slots.lean ====
section
/-!
DEFINITION. What every slot of a firing shares: its operands as they stand at the start of the cycle, which tokens it waits
for and consumes, its guard, its leases, how its result travels (spec/01_machine.md R27, spec/02_words.md R47 to R53, R68 to
R70; spec/04_integer.md R111, R112, R114; spec/07_control.md R168 to R172), and the slots that only compute: rows 0x0 to 0x5.
-/
namespace Sys2Proof.Machine

/-! ## Operands at issue -/

/-- The physical number of rotating register `n` (spec/01_machine.md R29). -/
def physK (c : Copy) (n : Nat) : Nat := (n + 64 - c.base % 64) % 64

/-- The value a token presents to a slot: end-of-stream reads as void (spec/07_control.md R171), and a wide element is extended as
its edge's format says (spec/03_numbers.md R91). -/
def tokVal (e : Edge) (t : Token) : Val :=
  match t.kind with
  | .data => if t.val.poison || t.val.void then t.val else { t.val with v := (edgeFmt e).present t.val.v }
  | _ => { void := true }

/-- What a source of a slot reads (spec/02_words.md R47, R49, R50). -/
def srcVal (c : Copy) (x : Nat) : ESrc → Val
  | .none => {}
  | .k i => Tab.get (c.ce x).k (physK c i.val)
  | .s i => Tab.get (c.ce x).s i.val
  | .it => { v := BitVec.ofNat 64 ((c.oc + c.j) % 2 ^ 32) }
  | .cpn => { v := BitVec.ofNat 64 c.ref.copy }
  | .cexy => { v := BitVec.ofNat 64 x }
  | .tlog => { v := BitVec.ofNat 64 c.tile }
  | .imm6 v => { v := v.signExtend 64 }
  | .imm12 v => { v := v.signExtend 64 }
  | .nb d => match neighbour c.kern x d with
    | some y => (c.ce y).result
    | none => {}
  | .ch i => match c.head x i.val with
    | some t => tokVal (c.tokenEdge t) t
    | none => {}

/-- A destination bound at issue (spec/04_integer.md R111). -/
def bindDst (c : Copy) : EDst → PDst
  | .result => .none
  | .k i => .k (physK c i.val)
  | .s i => .s i.val
  | .p i => .p i.val
  | .ch i => .ch i.val

/-- What a destination holds at issue; the result register stands for the kinds that cannot be read (spec/04_integer.md R117). -/
def dstVal (c : Copy) (x : Nat) : PDst → Val
  | .k i => Tab.get (c.ce x).k i
  | .s i => Tab.get (c.ce x).s i
  | _ => (c.ce x).result

/-- A predicate of a CE; `p7` reads 1 (spec/02_words.md R53). -/
def predOf (c : Copy) (x i : Nat) : PBit := if i = 7 then { b := true } else Tab.get (c.ce x).p i

/-- The registers a slot names, as lease numbers: k as 0 to 63, s as 64 to 79 (spec/05_float.md R145). -/
def leaseNames (c : Copy) (f : EForm) : List Nat :=
  (formSrcs f).filterMap (fun s => match s with
    | .k i => some (physK c i.val)
    | .s i => some (64 + i.val)
    | _ => none) ++
  (match bindDst c f.dst with
   | .k i => [i]
   | .s i => [64 + i]
   | _ => [])

/-- The lease number of a register destination. -/
def leaseOf : PDst → Option Nat
  | .k i => some i
  | .s i => some (64 + i)
  | _ => none

/-- Some register a slot names is leased. -/
def leased (c : Copy) (x : Nat) (f : EForm) : Bool := (leaseNames c f).any fun n => (c.ce x).lease.contains n

/-- A register leased. -/
def takeLease (s : State) (ref : CopyRef) (x : Nat) (d : PDst) : State :=
  match leaseOf d with
  | some n => s.modCopy ref fun c => c.modCe x fun k => { k with lease := k.lease ++ [n] }
  | none => s

/-- The channels of some sources, each once (spec/02_words.md R51). -/
def chansOf (l : List ESrc) : List Nat := (srcChans l).eraseDups

/-! ## Which tokens a slot waits for (R171, R176) -/

/-- The source `merge` selects, given C; none where C is void. -/
def mergeSource (f : EForm) (cv : Val) : Option ESrc :=
  if cv.void then none else if cv.v = 0 then some f.b else some f.a

/-- The channels whose heads a slot reads. -/
def readChans (c : Copy) (x : Nat) (e : EInstr) : List Nat :=
  let f := slotForm e
  match e with
  | .stream .merge _ =>
    let first := chansOf [f.c]
    if first.any fun ch => (c.head x ch).isNone then first
    else if (srcVal c x f.c).poison then first
    else match mergeSource f (srcVal c x f.c) with
      | some a => chansOf [f.c, a]
      | none => first
  | _ => chansOf (formSrcs f)

/-- The channels a slot that fires consumes, apart from end-of-stream (R171, R176, spec/05_float.md R138, R140). -/
def takenChans (c : Copy) (x : Nat) (e : EInstr) : List Nat :=
  let f := slotForm e
  match e with
  | .stream .peek _ | .stream .iseos _ | .scext _ => []
  | .nunpk _ _ _ =>
    let b := srcVal c x f.b
    let pop := b.poison || b.void || descPop b.v
    let l := chansOf [f.a]
    if pop then chansOf [f.a, f.b] else (chansOf [f.b]).filter (!l.contains ·)
  | e => readChans c x e

/-- The head of a channel is end-of-stream. -/
def eosHead (c : Copy) (x ch : Nat) : Bool :=
  match c.head x ch with
  | some t => t.kind == .eos
  | none => false

/-- The tokens a slot consumes: end-of-stream stays under a true guard, except for `drop` (R171). -/
def popsOf (c : Copy) (x : Nat) (e : EInstr) (guard : Bool) : List Nat :=
  let all := !guard || (match e with
    | .stream .drop _ => true
    | _ => false)
  (takenChans c x e).filter fun ch => all || !eosHead c x ch

/-- A slot's tokens consumed. -/
def takeTokens (c0 : Copy) (x : Nat) (e : EInstr) (guard : Bool) (s : State) : State :=
  match popsOf c0 x e guard with
  | [] => s
  | l => s.modCopy c0.ref fun c => l.foldl (fun c ch => c.pop x ch) c

/-! ## Results -/

/-- A value on its way to the result register and a destination (spec/02_words.md R50); a push takes its place in the
receiving queue at issue (spec/07_control.md R170). -/
def emit (c : Copy) (x : Nat) (d : PDst) (v : Val) (lat : Nat) (keep : Bool) (s : State) : State :=
  let s := match d with
    | .ch i => s.modCopy c.ref fun c => c.sending x i
    | _ => s
  addDue s { at' := s.cyc + lat, phase := 0, key := x, iss := s.cyc, act := .write c.ref x d v keep }

/-- The first poisoned value, as the origin it carries (spec/02_words.md R68). -/
def poisonIn (l : List Val) : Option Word := (l.find? (·.poison)).map (·.v)

/-- Some value is void (spec/07_control.md R172). -/
def voidIn (l : List Val) : Bool := l.any (·.void)

/-- Poison before void: what a slot with such a source delivers. -/
def special (l : List Val) : Option Val :=
  match poisonIn l with
  | some o => some { v := o, poison := true }
  | none => if voidIn l then some { void := true } else none

/-- What the execution of one slot comes to. -/
inductive SlotRes where
  /-- the firing must hold -/
  | hold
  /-- a bad header: nothing fires -/
  | bad
  /-- a fault of this slot, without effect: cause, and an address or the poison's origin -/
  | fault (cause : Nat) (x : Word)
  | go (s : State)
deriving Inhabited

/-! ## Slots that only compute: rows 0x0 to 0x5 -/

/-- A slot that computes one value from its sources: its form, its latency, whether it reads its destination, and its
function of A, B, C and the old destination, or the cause it faults with. -/
structure Compute where
  form : EForm
  lat : Nat
  old : Bool
  fn : Word → Word → Word → Word → Except Nat Word

/-- The format of the edge into a source's channel; F32 stands where a source is no channel, which no image that loads has. -/
def srcEdge (c : Copy) (x : Nat) (l : List ESrc) : EdgeFmt :=
  match srcChans l with
  | ch :: _ => match c.inEdge x ch with
    | some e => edgeFmt e
    | none => .wide f32Fmt
  | [] => .wide f32Fmt

/-- The format of the edge out of a destination's channel. -/
def dstEdge (c : Copy) (x : Nat) (d : EDst) : EdgeFmt :=
  match dstChan d with
  | some ch => match c.outEdge x ch with
    | some e => edgeFmt e
    | none => .wide f32Fmt
  | none => .wide f32Fmt

/-- A wide float of an edge format. -/
def EdgeFmt.float (e : EdgeFmt) : Fmt :=
  match e with
  | .wide f => f
  | _ => f32Fmt

/-- The format FM names for operands (spec/05_float.md R127, R128). -/
def floatFmt (c : Copy) (x : Nat) (fm : FloatFmt) (l : List ESrc) : Fmt :=
  match fm with
  | .edge => (srcEdge c x l).float
  | fm => wideFmt fm

/-- The format FM names for a destination (spec/05_float.md R134). -/
def destFmt (c : Copy) (x : Nat) (fm : FloatFmt) (d : EDst) : Fmt :=
  match fm with
  | .edge => (dstEdge c x d).float
  | fm => wideFmt fm

/-- The format MX names for source A (spec/05_float.md R134). -/
def mxFmt (c : Copy) (x : Nat) (sf : SrcFmt) (a : ESrc) : EdgeFmt :=
  match sf with
  | .f32 => .wide f32Fmt
  | .f16 => .wide (f16Fmt true)
  | .b16 => .wide (b16Fmt true)
  | .edge => srcEdge c x [a]
  | .s8 => .int true .b8
  | .s16 => .int true .b16
  | .s32 => .int true .b32
  | .s64 => .int true .b64
  | .z8 => .int false .b8
  | .z16 => .int false .b16
  | .z32 => .int false .b32
  | .z64 => .int false .b64

/-- The truth table of a page's island as a copy sees it (spec/06_bits.md R151); of two entries of the image for one table the last
stands (log entry 148). -/
def lutTable (c : Copy) (x : Nat) (t : Nat) : Nat :=
  match c.pages.findIdx? (· == cePage c x) with
  | some i => if bitOf c.kern.lutUse i then ((c.kern.luts.reverse.find? fun p => p.1 == i * 256 + t).map (·.2)).getD 0 else 0
  | none => 0

/-- The header of the block at the head of a source's channel. -/
def srcHdr (c : Copy) (x : Nat) (a : ESrc) : Option Nat :=
  match srcChans [a] with
  | ch :: _ => (c.head x ch).map fun t => c.heldHdr x ch t
  | [] => none

/-- `nunpk`: format and scale from the header for a channel, from B otherwise; LANE from B (spec/05_float.md R135, R140). A channel
whose format is not narrow faults FMT_DESC whatever LANE is (log entry 147). -/
def nunpkFn (c : Copy) (x : Nat) (f : EForm) (d : Fmt) (rm : Rounding) (a b : Word) : Except Nat Word :=
  let fs : Option (Fmt × Nat) := match srcHdr c x f.a with
    | some h => match fmtOfReg (hdrFmt h) with
      | some (.narrow g) => some (g, hdrScale h)
      | _ => none
    | none => (descFmt b).map fun g => (g, descScale b)
  match fs with
  | none => .error 0x04
  | some (g, sc) => if lanesOf g ≤ descLane b then .error 0x04 else .ok (nunpkResult g sc (descLane b) d rm a)

/-- The slots of rows 0x0 to 0x5 that deliver one value to every destination. -/
def computeOf (c : Copy) (x : Nat) : EInstr → Option Compute
  | .alu op m f => some ⟨f, aluLatency op, false, fun a b c _ => .ok (aluResult op m a b c)⟩
  | .movi g d imm => some ⟨{ bareForm g with dst := d }, 1, false, fun _ _ _ _ => .ok (moviValue imm)⟩
  | .movhi g d imm => some ⟨{ bareForm g with dst := d }, 1, true, fun _ _ _ o => .ok (movhiValue o imm)⟩
  | .float op fm rm f => some ⟨f, floatLatency op, false, fun a b d _ =>
      .ok (floatResult op (floatFmt c x fm (formSrcs f)) rm a b d)⟩
  | .cvt d rm sf f => some ⟨f, 2, false, fun a _ _ _ =>
      .ok (cvtResult (mxFmt c x sf f.a) (destFmt c x d f.dst) rm a)⟩
  | .cvti d rm sf f => some ⟨f, 2, false, fun a _ _ _ =>
      .ok (cvtiResult (.wide (floatFmt c x sf [f.a])) d rm a)⟩
  | .cvtn rm sf f => some ⟨f, 2, false, fun a b _ _ =>
      match descFmt b with
        | some g => .ok (cvtnResult (mxFmt c x sf f.a) g rm a b)
        | none => .error 0x04⟩
  | .scext f => some ⟨f, 1, false, fun _ _ _ _ => .ok (scextResult ((srcHdr c x f.a).getD 0))⟩
  | .npack f => some ⟨f, 1, true, fun a b _ o =>
      match descFmt b with
        | some g => if lanesOf g ≤ descLane b then .error 0x04 else .ok (npackResult g o a b)
        | none => .error 0x04⟩
  | .nunpk d rm f => some ⟨f, 2, false, fun a b _ _ => nunpkFn c x f (wideFmt d) rm a b⟩
  | .fdiv d rm sf f => some ⟨f, divideLatency (destFmt c x d f.dst), false, fun a b _ _ =>
      .ok (fdivResult (floatFmt c x sf [f.a]) (destFmt c x d f.dst) rm a b)⟩
  | .fsqrt d rm sf f => some ⟨f, divideLatency (destFmt c x d f.dst), false, fun a _ _ _ =>
      .ok (fsqrtResult (floatFmt c x sf [f.a]) (destFmt c x d f.dst) rm a)⟩
  | .bits op sz f => some ⟨f, bitsLatency op, false, fun a b d _ =>
      .ok (bitsResult (lutTable c x) op sz a b d)⟩
  | _ => none

/-- A computing slot under a true guard. The old value that `movhi` and `npack` keep part of counts as a source for poison and void
(log entry 147). -/
def runCompute (c : Copy) (x : Nat) (k : Compute) (s : State) : SlotRes :=
  let f := k.form
  let a := srcVal c x f.a
  let b := srcVal c x f.b
  let d := srcVal c x f.c
  let dst := bindDst c f.dst
  let o := dstVal c x dst
  match special ([a, b, d] ++ if k.old then [o] else []) with
  | some v => .go (emit c x dst v k.lat false s)
  | none => match k.fn a.v b.v d.v o.v with
    | .ok v => .go (emit c x dst { v := v } k.lat false s)
    | .error e => .fault e 0

/-- `cvtnf`: the block scale goes to a register, or into the channel's scale latch at t+2 (spec/05_float.md R137). The latch
lands with the acts of t+2 behind every push of that cycle and counts for pushes of later cycles (spec/03_numbers.md R94). A poisoned source leaves the latch
as it is (log entry 147). -/
def runCvtnf (c : Copy) (x : Nat) (sf : SrcFmt) (f : EForm) (s : State) : SlotRes :=
  let a := srcVal c x f.a
  let b := srcVal c x f.b
  let dst := match bindDst c f.dst with
    | .ch _ => PDst.none
    | d => d
  match special [a, b] with
  | some v => .go (emit c x dst v 2 false s)
  | none => match descFmt b.v with
    | none => .fault 0x04 0
    | some g =>
      let src := mxFmt c x sf f.a
      let s := emit c x dst { v := cvtnfResult src g a.v b.v } 2 false s
      .go (match bindDst c f.dst with
        | .ch i => addDue s { at' := s.cyc + 3, phase := 3, key := x, iss := s.cyc, act := .latch c.ref x i (cvtnfScale src g a.v) }
        | _ => s)

/-- An exponent-engine slot: a request in its page's lane and a lease on its destination; poison and void reach the
destination alone at t+1 (spec/05_float.md R142 to R146). -/
def runExpfn (c : Copy) (x : Nat) (fn : ExpFn) (d : FloatFmt) (rm : Rounding) (sf : FloatFmt) (f : EForm) (s : State) : SlotRes :=
  let a := srcVal c x f.a
  let dst := bindDst c f.dst
  match special [a] with
  | some v => .go (emit c x dst v 1 true s)
  | none =>
    let l := cePage c x
    if 32 ≤ (s.lane c.tile l).slots.length then .hold
    else
      let v := expFnResult fn (floatFmt c x sf [f.a]) (wideFmt d) rm a.v
      .go (takeLease (s.modLane c.tile l fun y => { y with slots := y.slots ++ [.slot c.ref x dst v s.cyc] }) c.ref x dst)

/-! ## Token streams: row 0x6 (spec/07_control.md R173 to R177) -/

/-- `steer` and `prime` push, by their decider B; a void or poisoned B makes `prime` push (log entry 153). -/
def decides (c : Copy) (op : StreamOp) (b : Val) : Bool :=
  match op with
  | .steer => !b.void && !b.poison && b.v != 0
  | .prime => b.void || b.poison || decide (c.j < min (fld b.v.toNat 0 7) 64)
  | _ => true

/-- A stream slot under a true guard. `iseos` gives 0 for a void token; `prime` pushes void for a void B and leaves A in the result, and
pushes poison for a poisoned A or B (log entry 153). -/
def runStream (c : Copy) (x : Nat) (op : StreamOp) (f : EForm) (s : State) : SlotRes :=
  let a := srcVal c x f.a
  let b := srcVal c x f.b
  let dst := bindDst c f.dst
  match op with
  | .pop | .drop => .go s
  | .peek => .go (emit c x dst a 1 false s)
  | .iseos =>
    let e := match srcChans [f.a] with
      | ch :: _ => eosHead c x ch
      | [] => false
    .go (emit c x dst (if a.poison then a else { v := BitVec.ofNat 64 (b2n e) }) 1 false s)
  | .void => .go (emit c x dst { void := true } 1 false s)
  | .eos =>
    let s := emit c x .none {} 1 false s
    .go (match dst with
      | .ch i => addDue (s.modCopy c.ref fun c => c.sending x i) { at' := s.cyc + 1, phase := 0, key := x, iss := s.cyc, act := .eos c.ref x i }
      | _ => s)
  | .push =>
    match poisonIn [a, b] with
    | some o => .go (emit c x dst { v := o, poison := true } 1 false s)
    | none =>
      -- the token goes to the channel, A to the result register
      let s := emit c x dst (if b.void || b.v = 0 then { void := true } else a) 1 true s
      .go (emit c x .none a 1 false s)
  | .prime =>
    if decides c .prime b then
      match poisonIn [a, b] with
      | some o => .go (emit c x dst { v := o, poison := true } 1 false s)
      | none => .go (emit c x .none a 1 false (emit c x dst (if b.void then { void := true } else a) 1 true s))
    else .go (emit c x .none a 1 false s)
  | .steer => .go (emit c x (if decides c .steer b then dst else .none) a 1 false s)
  | .merge =>
    match mergeSource f (srcVal c x f.c) with
    | some src => .go (emit c x dst (srcVal c x src) 1 false s)
    | none => .go (emit c x dst { void := true } 1 false s)

end Sys2Proof.Machine
end

