-- ==== Sys2Proof/Machine/SlotMem.lean ====
section
/-!
DEFINITION. The slots of rows 0x7 to 0xA and 0xF: memory, atomics and signals, block cells, sampling and debug
(spec/09_memory.md R207 to R223, spec/10_ordering.md R236 to R244, spec/11_systolic.md, spec/16_sampling.md R362 to R365,
spec/18_system.md R409, R413). What a slot does to a memory tile is performed in the cycle after its issue, as an act of
phase 2, behind the firings of that cycle (R211).
-/
namespace Sys2Proof.Machine

/-- A local address of a slot, in region numbering, checked for an area of `n` bytes aligned to `al` (R214): the cause of the
fault, or physical memory tile and offset. -/
def slotCheck (c : Copy) (a n al : Nat) : Except Nat (Nat × Nat) :=
  let m := fld a 16 4
  let off := fld a 0 16
  if a / 2 ^ 20 ≠ 0 ∨ 4 * c.pages.length ≤ m ∨ 65536 < off + n then .error 0x0B
  else if !bitOf c.kern.mtUse m || bitOf c.kern.mtFifo m || bitOf c.kern.mtCache m then .error 0x0C
  else if off % al ≠ 0 then .error 0x0D
  else .ok (physMt c m, off)

/-- An act of a slot on the memory of its tile, performed in a later cycle. -/
def memAct (x : Nat) (after : Nat) (a : Act) (s : State) : State :=
  addDue s { at' := s.cyc + after, phase := 2, key := x, iss := s.cyc, act := a }

/-- A traced access of a slot (spec/18_system.md R413). -/
def slotTrace (c : Copy) (x : Nat) (kind addr : Nat) (s : State) : State :=
  traceMemory s c.tile false c.slot (ceY c x * 8 + ceX c x) kind addr

/-- The cycle in which a slot load's data is written, for fences (spec/10_ordering.md R244). -/
def loadUntil (c : Copy) (lat : Nat) (s : State) : State := s.modCopy c.ref fun y => { y with ldUntil := max y.ldUntil (s.cyc + lat) }

/-! ## Loads (R211, R215, spec/10_ordering.md R256) -/

/-- The first cycle whose start is after a CE's last write to some bytes. -/
def ownWrite (s : State) (c : Copy) (x mt off n : Nat) : Nat :=
  (s.tile c.tile).hist.foldl (fun u h =>
    if decide (mt * 65536 + off ≤ h.2.1) && decide (h.2.1 < mt * 65536 + off + n) && h.2.2.2 == some (c.ref, x) then max u (h.1 + 1) else u) 0

/-- The bytes a plain slot load sees: those at the start of the cycle or, in unordered mode, at the start of a cycle up to
63 before, but not before the CE's own last write, nor before the region's last acquire (log entry 10). -/
def slotRead (s : State) (c : Copy) (x mt off n : Nat) : List Byte × State :=
  if s.plinth.unord then
    let u := max (s.cyc - Config.unorderedDelay s.plinth.seed s.draws % 64) (max c.floor (ownWrite s c x mt off n))
    ((List.range n).map fun i => byteAt s c.tile mt (off + i) u, { s with draws := s.draws + 1 })
  else (startMt s c.tile mt off n, s)

/-- `ld`. -/
def runLd (c : Copy) (x : Nat) (uns : Bool) (sz : Size) (f : EForm) (s : State) : SlotRes :=
  let a := srcVal c x f.a
  let b := srcVal c x f.b
  let dst := bindDst c f.dst
  match special [a, b] with
  | some v => .go (emit c x dst v 3 false s)
  | none =>
    let la := a.v + b.v
    match slotCheck c la.toNat sz.bytes sz.bytes with
    | .error e => .fault e la
    | .ok (mt, off) =>
      let (bytes, s) := slotRead (slotTrace c x 0 la.toNat s) c x mt off sz.bytes
      .go (loadUntil c 3 (emit c x dst { v := extendLoad sz uns (leNat bytes) } 3 false s))

/-- A slot that writes memory or signals: a poisoned source faults, a void one makes no access (R215, R237). -/
def guarded (l : List Val) (s : State) (body : SlotRes) : SlotRes :=
  match poisonIn l with
  | some o => .fault 0x01 o
  | none => if voidIn l then .go s else body

/-- `st`. -/
def runSt (c : Copy) (x : Nat) (sz : Size) (f : EForm) (s : State) : SlotRes :=
  let a := srcVal c x f.a
  let b := srcVal c x f.b
  guarded [a, b] s
    (match slotCheck c a.v.toNat sz.bytes sz.bytes with
     | .error e => .fault e a.v
     | .ok (mt, off) =>
       .go (memAct x 1 (.store (some (c.ref, x)) c.tile mt off (leBytes sz.bytes b.v.toNat)) (slotTrace c x 1 a.v.toNat s)))

/-- An access issued into a table of the tile: a full table holds the firing (R216). -/
def slotIssue (i : Issue) (a : Word) (k : State → State) : SlotRes :=
  match i with
  | .ok s => .go (k s)
  | .stall => .hold
  | .fault e => .fault e a

/-- `ldg`: poison and void reach the destination alone at t+1; otherwise the destination is leased (R216). -/
def runLdg (c : Copy) (x : Nat) (m : MemMods) (f : EForm) (loc : Word) (s : State) : SlotRes :=
  let a := srcVal c x f.a
  let b := srcVal c x f.b
  let dst := bindDst c f.dst
  match special [a, b] with
  | some v => .go (emit c x dst v 1 true s)
  | none =>
    let va := a.v + b.v
    slotIssue (issueLoad s c.tile { who := .region c.ref, ce := x, dst := dst, va := va.toNat, size := m.size, uns := m.uns,
                                    order := m.order, scope := m.scope, loc := loc }) va
      fun s => takeLease (slotTrace c x 0 va.toNat s) c.ref x dst

/-- `stg` (R216 to R218). -/
def runStg (c : Copy) (x : Nat) (m : MemMods) (f : EForm) (loc : Word) (s : State) : SlotRes :=
  let a := srcVal c x f.a
  let b := srcVal c x f.b
  guarded [a, b] s
    (slotIssue (issueStore s c.tile { who := .region c.ref, va := a.v.toNat, order := m.order, scope := m.scope, loc := loc }
        (leBytes m.size.bytes b.v.toNat)) a.v
      (slotTrace c x 1 a.v.toNat))

/-- `pf` (R215, R219). -/
def runPf (c : Copy) (x : Nat) (lv : PfLevel) (f : EForm) (s : State) : SlotRes :=
  let a := srcVal c x f.a
  let b := srcVal c x f.b
  match special [a, b] with
  | some _ => .go s
  | none => .go (s.modMem c.tile fun m => { m with pfs := m.pfs ++ [{ id := m.nextId, level := lv, va := (a.v + b.v).toNat }],
                                                   nextId := m.nextId + 1 })

/-! ## Tags (R220, R221) -/

/-- The memory tile a tag slot names, and the slot bits of its address (R214). -/
def slotTagCheck (c : Copy) (a : Word) (slot : Bool) : Except Nat (Nat × Nat) :=
  let x := a.toNat
  if slot ∧ fld x 8 8 ≠ 0 then .error 0x0B
  else match slotCheck c (x - fld x 0 16) 1 1 with
    | .error e => .error e
    | .ok (mt, _) => .ok (mt, fld x 0 8)

/-- `tlook`: it reads at t, marks its entry then, and writes at t+3; a predicate receives HIT. -/
def runTlook (c : Copy) (x : Nat) (f : EForm) (s : State) : SlotRes :=
  let a := srcVal c x f.a
  let b := srcVal c x f.b
  let dst := bindDst c f.dst
  match special [a, b] with
  | some v => .go (emit c x dst v 3 false s)
  | none =>
    match slotTagCheck c a.v false with
    | .error e => .fault e a.v
    | .ok (mt, _) =>
      let r := tagLook s c.tile mt (fld b.v.toNat 0 48)
      let s := if bitOf r 8 then memAct x 0 (.tuse (some c.ref) c.tile mt (fld r 0 8)) s else s
      let v : Val := { v := BitVec.ofNat 64 r }
      .go (loadUntil c 3 (match dst with
        | .p _ => emit c x dst { v := BitVec.ofNat 64 (fld r 8 1) } 3 true (emit c x .none v 3 false s)
        | d => emit c x d v 3 false s))

/-- `tset`. -/
def runTset (c : Copy) (x : Nat) (f : EForm) (s : State) : SlotRes :=
  let a := srcVal c x f.a
  let b := srcVal c x f.b
  guarded [a, b] s
    (match slotTagCheck c a.v true with
     | .error e => .fault e a.v
     | .ok (mt, i) => .go (memAct x 1 (.tset (some c.ref) c.tile mt i (fld b.v.toNat 0 48)) s))

/-- `tclr`. -/
def runTclr (c : Copy) (x : Nat) (f : EForm) (s : State) : SlotRes :=
  let a := srcVal c x f.a
  guarded [a] s
    (match slotTagCheck c a.v true with
     | .error e => .fault e a.v
     | .ok (mt, i) => .go (memAct x 1 (.tclr (some c.ref) c.tile mt i) s))

/-- `stmw`: the local bytes at t+1, a copy for every other member (R223). -/
def runStmw (c : Copy) (x : Nat) (m : MemMods) (f : EForm) (loc : Word) (s : State) : SlotRes :=
  let a := srcVal c x f.a
  let b := srcVal c x f.b
  let n := m.size.bytes
  guarded [a, b] s
    (match slotCheck c a.v.toNat n n with
     | .error e => .fault e a.v
     | .ok (mt, off) =>
       match windowAt s c.tile mt off n with
       | none => .fault 0x15 a.v
       | some w =>
         let bytes := leBytes n b.v.toNat
         slotIssue (issueMirror s c.tile (.region c.ref) m w off bytes loc) a.v fun s =>
           memAct x 1 (.store (some (c.ref, x)) c.tile mt off bytes) (slotTrace c x 3 a.v.toNat s))

/-! ## Atomics, fences and signals: row 0x8 -/

/-- An atomic on a memory tile of the region: performed at t+1, d at t+3. A release waits for every earlier store to be
acknowledged; after an acquire the region holds until d is written (spec/10_ordering.md R238). -/
def localAtomic (c : Copy) (x : Nat) (m : MemMods) (r : Rmw) (dst : PDst) (a : Word) (s : State) : SlotRes :=
  match slotCheck c a.toNat m.size.bytes m.size.bytes with
  | .error e => .fault e a
  | .ok (mt, off) =>
    if isRelease m.order && outstandingStores (s.tile c.tile).mem (.region c.ref) != [] then .hold
    else
      let s := memAct x 1 (.atomic c.ref x c.tile mt off m.size r dst) (slotTrace c x 2 a.toNat s)
      let s := if isAcquire m.order then
          (acquirePoint s c.tile (.region c.ref)).modCopy c.ref fun y =>
            { y with resumeAt := max y.resumeAt (s.cyc + 3), floor := s.cyc + 1 }
        else s
      .go (loadUntil c 3 s)

/-- A slot atomic; `acas` reads its destination (spec/10_ordering.md R237 to R239). -/
def runSlotAtomic (c : Copy) (x : Nat) (op : AtomicOp) (m : MemMods) (f : EForm) (loc : Word) (s : State) : SlotRes :=
  let a := srcVal c x f.a
  let b := srcVal c x f.b
  let dst := bindDst c f.dst
  let e := dstVal c x dst
  let srcs := [a, b] ++ if op = .acas then [e] else []
  match poisonIn srcs with
  | some o => .fault 0x01 o
  | none =>
    if voidIn srcs then
      .go (if wideScope m.scope then emit c x dst { void := true } 1 (dst != .none) s else emit c x dst { void := true } 3 false s)
    else
      let r : Rmw := { op := op, uns := m.uns, b := b.v, e := e.v }
      if wideScope m.scope then
        slotIssue (issueLoad s c.tile { who := .region c.ref, ce := x, dst := dst, va := a.v.toNat, size := m.size, uns := m.uns,
                                        order := m.order, scope := m.scope, rmw := some r, loc := loc }) a.v
          fun s => takeLease (slotTrace c x 2 a.v.toNat s) c.ref x dst
      else localAtomic c x m r dst a.v s

/-- `fence`: the region holds from its next firing until the condition of its order is met (spec/10_ordering.md R244). -/
def runFence (c : Copy) (o : Order) (s : State) : State :=
  s.modCopy c.ref fun y => { y with fenceLd := true, fenceSt := y.fenceSt || o != .acquire, fenceAcq := y.fenceAcq || isAcquire o }

/-- `sig` (spec/10_ordering.md R241). -/
def runSig (c : Copy) (x : Nat) (rel : Bool) (sc : Scope) (f : EForm) (loc : Word) (s : State) : SlotRes :=
  let a := srcVal c x f.a
  let b := srcVal c x f.b
  guarded [a, b] s
    (if a.v.toNat / 256 ≠ 0 then .fault 0x16 a.v
     else
       let n := fld b.v.toNat 0 32
       if rel then
         slotIssue (issueOther s c.tile { who := .region c.ref, va := a.v.toNat, order := .release, scope := sc,
                                          kind := .sem a.v.toNat n, loc := loc }) a.v id
       else .go (semRaise s c.tile a.v.toNat n))

/-! ## Block cells: row 0x9 and `stopk` -/

/-- Cycles a cell is occupied (spec/11_systolic.md R265). -/
def cellTime (c : Copy) (x : Nat) (op : CellOp) (f : EForm) : Nat :=
  match op with
  | .sfeed => match srcHdr c x f.b with
    | some h => match fmtOfReg (hdrFmt h) with
      | some (.narrow g) => if g.width = 1 then 4 else if g.width = 2 then 2 else 1
      | _ => 1
    | none => 1
  | .sfeedw fm => if (floatFmt c x fm [f.b, f.c]).width = 32 then 4 else 1
  | _ => 1

/-- The cell of a CE, by its position in the tile: the contexts of a CE share it (spec/11_systolic.md R265). -/
def cellIx (c : Copy) (x : Nat) : Nat := 8 * ceY c x + ceX c x

/-- A CE's cell is still taken. -/
def cellBusy (s : State) (c : Copy) (x : Nat) : Bool := decide (s.cyc < Tab.get (s.tile c.tile).cellFree (cellIx c x))

/-- A cell taken for some cycles. -/
def occupy (c : Copy) (x n : Nat) (s : State) : State :=
  s.modTile c.tile fun y => { y with cellFree := Tab.set y.cellFree (cellIx c x) (s.cyc + n) }

/-- Poison of a cell slot: no access, poison to the destination if it has one, and the origin into the latch in the next cycle;
void delivers void (spec/11_systolic.md R276, R172). -/
def cellSpecial (c : Copy) (x : Nat) (delivers : Bool) (dst : PDst) (lat : Nat) (v : Val) (s : State) : State :=
  let s := if v.poison then addDue s { at' := s.cyc + 1, phase := 0, key := x, iss := s.cyc, act := .origin c.ref v.v } else s
  if delivers then emit c x dst v lat false s else s

/-- A push that is to come takes its place in the receiving queue at issue (spec/07_control.md R170). -/
def reserve (c : Copy) (x : Nat) (d : PDst) (s : State) : State :=
  match d with
  | .ch i => s.modCopy c.ref fun y => y.sending x i
  | _ => s

/-- The operation delivers a value. -/
def cellDelivers : CellOp → Bool
  | .sdrain .. | .skey | .sidx => true
  | _ => false

/-- `sload`: checked and read at issue, written at t+1+q (spec/11_systolic.md R262, R264, R273). -/
def runSload (c : Copy) (x : Nat) (a b : Word) (s : State) : SlotRes :=
  match slotCheck c a.toNat 1 64 with
  | .error e => .fault e a
  | .ok (mt, off) =>
    if b.toNat / 2 ^ 15 ≠ 0 ∨ b.toNat % 8 ≠ 0 then .fault 0x08 a
    else if !c.kern.wbuf then .fault 0x0C a
    else match decompress (readBytes s.mem (weightAddr c.tile (cePage c x) b.toNat) (32768 - b.toNat)) with
      | none => .fault 0x08 a
      | some (bytes, len) =>
        if 65536 < off + bytes.length then .fault 0x0B a
        else
          let q := (len + 255) / 256
          .go (occupy c x (1 + q) (memAct x (1 + q) (.panel c.ref x c.tile mt off bytes) s))

/-- `scfg`: PANEL's address and the descriptor are checked at issue; a panel that leaves its memory tile makes the descriptor invalid
(spec/11_systolic.md R259, R267, R276). -/
def configCheck (c : Copy) (b : Word) : Option (Nat × Word) :=
  let d := b.toNat
  let panel := if cdSort d then none
    else match slotCheck c (cdPanel d) 1 64 with
      | .error e => some (e, BitVec.ofNat 64 (cdPanel d))
      | .ok _ => none
  match panel with
  | some p => some p
  | none => if cdOk d then none else some (0x06, 0)

/-- A cell operation of a slot with plain sources: the cell must be free; the record is worked on at t+1. -/
def runCell (c : Copy) (x : Nat) (op : CellOp) (f : EForm) (entry : Nat) (s : State) : SlotRes :=
  let a := srcVal c x f.a
  let b := srcVal c x f.b
  let d := srcVal c x f.c
  let dst := bindDst c f.dst
  if cellBusy s c x then .hold
  else
    match special [a, b, d] with
    | some v => .go (occupy c x (cellTime c x op f) (cellSpecial c x (cellDelivers op) dst 3 v s))
    | none =>
      match op with
      | .sload => runSload c x a.v b.v s
      | op =>
        match slotCheck c a.v.toNat 1 256 with
        | .error e => .fault e a.v
        | .ok (mt, off) =>
          match (if op = .scfg then configCheck c b.v else none) with
          | some (e, i) => .fault e i
          | none =>
            let tok := match srcChans [f.b] with
              | ch :: _ => ((c.head x ch).map fun t => { t with hdr := c.heldHdr x ch t }).getD {}
              | [] => {}
            let fm := match op with
              | .sfeedw fm => match fm with
                | .edge => (match srcChans [f.b, f.c] with
                  | ch :: _ => ((c.inEdge x ch).map (·.fmt)).getD 0x0003
                  | [] => 0x0003)
                | .f32 => 0x0003
                | .f16 => 0x0007
                | .b16 => 0x000B
              | _ => 0
            .go (occupy c x (cellTime c x op f) (reserve c x dst
              (memAct x 1 (.cell { ref := c.ref, ce := x, entry := entry, op := op, mt := mt, off := off, b := b.v, c := d.v,
                                   tok := tok, fmt := fm, dst := dst }) s)))

/-- `stopk`, which follows row 0x9 (spec/16_sampling.md R365). -/
def runStopk (c : Copy) (x : Nat) (f : EForm) (entry : Nat) (s : State) : SlotRes :=
  let a := srcVal c x f.a
  let b := srcVal c x f.b
  let dst := bindDst c f.dst
  if cellBusy s c x then .hold
  else match special [a, b] with
    | some v => .go (occupy c x 1 (cellSpecial c x true dst 3 v s))
    | none => match slotCheck c a.v.toNat 1 256 with
      | .error e => .fault e a.v
      | .ok (mt, off) =>
        .go (occupy c x 1 (reserve c x dst
          (memAct x 1 (.cell { ref := c.ref, ce := x, entry := entry, topk := true, mt := mt, off := off, b := b.v, dst := dst }) s)))

/-! ## Sampling: row 0xA -/

/-- Latency of a sampling slot (spec/16_sampling.md R362). -/
def sampleLatency : SampleOp → Nat
  | .rngu => 20
  | .gumb => 40
  | .smax => 1
  | .stopk => 3
  | .slse _ => 24
  | .swin => 48

/-- The result of a sampling slot from its operands and, where it takes one, its descriptor (spec/16_sampling.md R363 to
R366); none where the descriptor or the operands break R363. -/
def sampleValue (op : SampleOp) (d : Nat) (a b v : Word) : Option Word :=
  match op with
  | .rngu =>
    if sdBad d || !sdDres d || b.toNat / 256 != 0 then none
    else some (BitVec.ofNat 64 (drawWord d (16384 + sdDbase d + fld b.toNat 0 4) (fld b.toNat 4 4)))
  | .gumb =>
    let i := fld b.toNat 0 32
    if sdBad d || decide (sdVsm1 d < i) then none else some (BitVec.ofNat 64 (f32Fmt.round .rne (gumbelVal d i)))
  | .swin =>
    let i := fld v.toNat 0 32
    if sdBad d || decide (sdVsm1 d < i) then none else some (BitVec.ofNat 64 (i * 2 ^ 32 + scoreOf d i (fld a.toNat 0 32)))
  | .smax => some (smaxResult a b)
  | .slse m => some (slseResult m a b)
  | .stopk => none

/-- A sampling slot other than `stopk`: its descriptor is read as a slot load reads (spec/16_sampling.md R363). -/
def runSample (c : Copy) (x : Nat) (op : SampleOp) (f : EForm) (entry : Nat) (s : State) : SlotRes :=
  let a := srcVal c x f.a
  let b := srcVal c x f.b
  let d := srcVal c x f.c
  let dst := bindDst c f.dst
  match op with
  | .stopk => runStopk c x f entry s
  | op =>
    match special [a, b, d] with
    | some v => .go (emit c x dst v (sampleLatency op) false s)
    | none =>
      let desc := match op with
        | .rngu | .gumb => some a.v
        | .swin => some b.v
        | _ => none
      let fin (s : State) (n : Nat) : SlotRes := match sampleValue op n a.v b.v d.v with
        | some v => .go (emit c x dst { v := v } (sampleLatency op) false s)
        | none => .fault 0x09 0
      match desc with
      | none => fin s 0
      | some la => match slotCheck c la.toNat 64 64 with
        | .error e => .fault e la
        | .ok (mt, off) =>
          let (bytes, s) := slotRead (slotTrace c x 0 la.toNat s) c x mt off 64
          fin (loadUntil c (sampleLatency op) s) (leNat bytes)

/-! ## Debug: row 0xF (spec/18_system.md R409, R413) -/

/-- `trig` or `tmark`: an event; poison and void record nothing. -/
def runMark (c : Copy) (x : Nat) (trig : Bool) (f : EForm) (s : State) : State :=
  let a := srcVal c x f.a
  match special [a] with
  | some _ => s
  | none =>
    let cexy := ceY c x * 8 + ceX c x
    let n := a.v.toNat
    let data := if trig then fld n 0 16 else n
    traceEvent s c.tile (if trig then some (0, fld n 0 16) else none) true (1 + c.slot * 64 + cexy)
      (traceEntry s.cyc (if trig then 5 else 4) false c.slot cexy data)

end Sys2Proof.Machine
end

