-- ==== Sys2Proof/Machine/Region.lean ====
section
/-!
DEFINITION. The firing of a region: all slots of the entry at the II counter together, against the state at the start of the
cycle (spec/01_machine.md R26, R27, R29; spec/02_words.md R50, R68; spec/04_integer.md R114).
-/
namespace Sys2Proof.Machine

/-! ## One slot -/

/-- The slot word of a CE at an entry. -/
def slotWord (c : Copy) (x entry : Nat) : Nat := ((Tab.get c.table x).getD entry 0).toNat

/-- A destination channel has room, where a slot needs any: whatever its guard (R27, R114; spec/05_float.md R137;
spec/07_control.md R175, R177). -/
def hasRoom (c : Copy) (x : Nat) (e : EInstr) : Bool :=
  match bindDst c (slotForm e).dst with
  | .ch i =>
    (match e with
     | .cvtnf .. => true
     | .stream .steer f => !decides c .steer (srcVal c x f.b) || c.room x i
     | .stream .prime f => !decides c .prime (srcVal c x f.b) || c.room x i
     | _ => c.room x i)
  | _ => true

/-- A poison word: one cycle, no channel read, poison to the result register and to a legal destination, whatever its guard field holds, of
which R68 does not speak (spec/02_words.md R68; log entry 156). -/
def runPoisonWord (c : Copy) (x entry w : Nat) (s : State) : SlotRes :=
  let dst := bindDst c (poisonDstE w)
  let v : Val := { v := copyLoc c x entry, poison := true }
  let dst := match dst with
    | .ch i => if (c.outEdge x i).isSome then dst else .none
    | d => d
  let wait := match dst with
    | .ch i => !c.room x i
    | _ => false
  if wait then .hold
  else match leaseOf dst with
    | some n => if (c.ce x).lease.contains n then .fault 0x02 0 else .go (emit c x dst v 1 false s)
    | none => .go (emit c x dst v 1 false s)

/-- The decider of `steer` and `merge` is poisoned, which faults whatever the guard (spec/02_words.md R70). -/
def badDecider (c : Copy) (x : Nat) : EInstr → Option Word
  | .stream .steer f => poisonIn [srcVal c x f.b]
  | .stream .merge f => poisonIn [srcVal c x f.c]
  | _ => none

/-- A slot whose guard is true. -/
def runSlotBody (c : Copy) (x entry : Nat) (e : EInstr) (s : State) : SlotRes :=
  let loc := copyLoc c x entry
  match e with
  | .nop _ => .go s
  | .alu .. | .movi .. | .movhi .. | .float .. | .cvt .. | .cvti .. | .cvtn .. | .scext .. | .npack .. | .nunpk .. | .fdiv ..
  | .fsqrt .. | .bits .. =>
    (match computeOf c x e with
     | some k => runCompute c x k s
     | none => .go s)
  | .cvtnf sf f => runCvtnf c x sf f s
  | .expfn fn d rm sf f => runExpfn c x fn d rm sf f s
  | .stream op f => runStream c x op f s
  | .ld u sz f => runLd c x u sz f s
  | .st sz f => runSt c x sz f s
  | .ldg m f => runLdg c x m f loc s
  | .stg m f => runStg c x m f loc s
  | .pf lv f => runPf c x lv f s
  | .tlook f => runTlook c x f s
  | .tset f => runTset c x f s
  | .tclr f => runTclr c x f s
  | .stmw m f => runStmw c x m f loc s
  | .atomic op m f => runSlotAtomic c x op m f loc s
  | .fence o _ _ => .go (runFence c o s)
  | .sig rel sc f => runSig c x rel sc f loc s
  | .cell op f => runCell c x op f entry s
  | .sample op f => runSample c x op f entry s
  | .brk _ => .go s
  | .trig f => .go (runMark c x true f s)
  | .tmark f => .go (runMark c x false f s)

/-- A slot that is an instruction other than `nop`: it waits for its tokens and for room, then its headers, guard, leases and
body are gone through, and its tokens are consumed. -/
def runInstr (c : Copy) (x entry : Nat) (e : EInstr) (s : State) : SlotRes :=
  let f := slotForm e
  let g := predOf c x f.guard.idx.val
  let chans := readChans c x e
  if chans.any fun ch => (c.head x ch).isNone then .hold
  else if chans.any (c.badHead x) then .bad
  else if chans.any (c.headWaits x) then .hold
  else if !hasRoom c x e then .hold
  else if g.poison then .fault 0x01 (latchOrigin (Tab.get (s.tile c.tile).sys.platch c.slot))
  else if leased c x f then .fault 0x02 0
  else match badDecider c x e with
    | some o => .fault 0x01 o
    | none =>
      if g.b == f.guard.neg then .go (takeTokens c x e false s)
      else runSlotBody c x entry e (takeTokens c x e true s)

/-- One slot of a firing. -/
def runSlot (c : Copy) (x entry : Nat) (s : State) : SlotRes :=
  match decodeE (slotWord c x entry) with
  | none => runPoisonWord c x entry (slotWord c x entry) s
  | some (.nop _) => .go s
  | some e => runInstr c x entry e s

/-! ## The firing -/

/-- A firing under way: the state, the faults found, and the location of the lowest `brk` that acts. -/
structure Firing where
  s : State
  faults : List (Nat × Word × Word) := []
  brk : Option Word := none
deriving Inhabited

/-- What a firing comes to. -/
inductive FireRes where
  | hold
  /-- a bad header at a CE, given by its location -/
  | bad (loc : Word)
  | ok (f : Firing)
deriving Inhabited

/-- The guard field of a slot word, read at issue (R53): the bit a predicate-mask event shows. -/
def guardBit (c : Copy) (x w : Nat) : Bool :=
  let p := predOf c x (fld w 2 3)
  !p.poison && p.b != bitOf w 5

/-- A slot is a `brk` that acts (spec/18_system.md R409). -/
def brkActs (s : State) (c : Copy) (x entry : Nat) : Bool :=
  match decodeE (slotWord c x entry) with
  | some (.brk _) => (s.tile c.tile).sys.ebrk && guardBit c x (slotWord c x entry)
  | _ => false

/-- The slots of the CEs still to come, in ascending `cexy`. -/
def fireSlots (c : Copy) (entry : Nat) : List Nat → Firing → FireRes
  | [], f => .ok f
  | x :: xs, f =>
    match runSlot c x entry f.s with
    | .hold => .hold
    | .bad => .bad (copyLoc c x entry)
    | .fault e v => fireSlots c entry xs { f with faults := f.faults ++ [(e, copyLoc c x entry, v)] }
    | .go s =>
      fireSlots c entry xs { f with s := s, brk := match f.brk with
        | some l => some l
        | none => if brkActs f.s c x entry then some (copyLoc c x entry) else none }

/-- The predicate-mask event of a firing (spec/18_system.md R413). -/
def maskEvent (s : State) (c : Copy) : State :=
  if fld (s.tile c.tile).sys.tracectl.toNat 10 2 = c.slot then
    let ces := ceList c.kern.shape
    let bits := ces.foldl (fun m x => m + b2n (guardBit c x (slotWord c x c.v)) * 2 ^ (8 * ceY c x + ceX c x)) 0
    let first := ces.headD 0
    let cexy := ceY c first * 8 + ceX c first
    traceEvent s c.tile none (s.traceBit c.tile 14) (1 + c.slot * 64 + cexy) (traceEntry s.cyc 2 false c.slot cexy bits)
  else s

/-- All slots of the entry at the II counter. -/
def fireAll (s : State) (c : Copy) : FireRes := fireSlots c c.v (ceList c.kern.shape) { s := maskEvent s c }

/-- The II counter moves on: at its end the base rotates and the next instance begins, or a counted copy stops (R27, R29;
spec/08_launch.md R194). -/
def advanceII (s : State) (c : Copy) : Copy :=
  if c.v + 1 < c.kern.ii then { c with v := c.v + 1 }
  else
    let trip := (s.launchOf c).trip
    { c with v := 0, base := (c.base + 1) % 64, j := c.j + 1,
             phase := if trip ≠ 0 ∧ trip ≤ c.j + 1 then .stopped else c.phase }

/-- The firing is over: the counter moves on, the first fault takes effect, or the copy breaks (spec/18_system.md R403, R409). -/
def endFiring (f : Firing) (c : Copy) : State :=
  let s := f.s.modCopy c.ref fun y =>
    let y := { advanceII f.s y with fired := f.s.cyc + 1 }
    if f.s.snapOn y.tile then y else { y with log := [] }
  match f.faults, f.brk with
  | (e, loc, v) :: _, _ => regionFault s c.ref e loc v
  | [], none => s
  | [], some loc =>
    let s := s.modCopy c.ref fun y => if y.phase == .running then { y with phase := .broken } else y
    postTrap s c.ref.issuer { trap := { cause := 0x21, posted := true, lid := c.ref.lid, copy := c.ref.copy, info := loc },
                              rank := 0, sub := c.ref.lid * 32 + c.ref.copy }

/-! ## Readiness (R27, R32) -/

/-- A fence or an acquire of the region holds it (spec/09_memory.md R218, spec/10_ordering.md R244). -/
def fenced (s : State) (c : Copy) : Bool :=
  let m := (s.tile c.tile).mem
  let who := Issuer.region c.ref
  m.loads.any (fun e => e.who == who && isAcquire e.order) ||
  (c.fenceLd && (m.loads.any (fun e => e.who == who) || decide (s.cyc < c.ldUntil))) ||
  (c.fenceSt && (outstanding m who != [] || s.due.any fun d => d.phase == 2 && d.act.copy? == some c.ref))

/-- The copy may fire in this cycle, apart from its operands and the grant: it runs, no cut, fence or lost log holds it, and it
has not fired yet. -/
def mayFire (s : State) (c : Copy) : Bool :=
  c.phase == .running && decide (c.fired ≤ s.cyc) && decide (c.resumeAt ≤ s.cyc) && !c.logBad && !c.leave && !cutDue s c && !fenced s c

/-- A context is ready: the firing conditions hold apart from the grant. A bad header at a head is found in the same way. -/
def State.ready (s : State) (c : Copy) : Bool :=
  mayFire s c && (match fireAll s c with
    | .hold => false
    | _ => true)

/-- The contexts a page's grant is given among: those ready, and those that have fired in this cycle already. -/
def contenders (s : State) : List Copy := s.copies.filter fun c => c.fired == s.cyc + 1 || s.ready c

/-- The first copy that is ready, granted on every page, and has not fired. -/
def nextFiring (s : State) : Option CopyRef :=
  ((granted s (contenders s)).find? fun c => c.fired != s.cyc + 1).map (·.ref)

/-- The fences that held a copy are met: what the region reads behind an acquire among them is not older than what it has read before
(spec/10_ordering.md R244, R256). -/
def passFence (s : State) (c : Copy) : State × Copy :=
  let c' := { c with fenceLd := false, fenceSt := false, fenceAcq := false, floor := if c.fenceAcq then max c.floor (c.ldUntil - 3) else c.floor }
  let s := if c.fenceAcq then fencePoint s c.tile (.region c.ref) else s
  (s.modCopy c.ref fun _ => c', c')

/-- A region fires: every slot of its entry at once (R27). -/
def fireRegion (s : State) (c : Copy) : State :=
  match fireAll (passFence s c).1 (passFence s c).2 with
  | .hold => s
  | .bad loc => regionFault s c.ref 0x03 loc 0
  | .ok f => endFiring f c

/-- REGION_FIRE: the copy fires if it is ready and every one of its pages grants it the cycle (R27, R32, spec/08_launch.md R199). -/
def execRegionFire (ref : CopyRef) (s : State) : Host.Outcome State Fault Refusal :=
  .next (match s.copy? ref with
    | none => s
    | some c => if s.ready c && (granted s (contenders s)).any (fun x => x.ref == ref) then fireRegion s c else s)

end Sys2Proof.Machine
end

