-- ==== Sys2Proof/Machine/Acts.lean ====
section
/-!
DEFINITION. What lands at a fixed later cycle: results, tokens, slot writes, tag updates, slot atomics, cell performances and
semaphore changes (spec/02_words.md R50, spec/04_integer.md R112, spec/05_float.md R145, spec/09_memory.md R211,
spec/10_ordering.md R238 to R241, spec/11_systolic.md R264).
-/
namespace Sys2Proof.Machine

/-- A value of a slot issued in cycle `iss` lands in a CE: in the result register unless `keep`, and in its destination unless that
is leased by now (spec/05_float.md R145). A predicate takes the bit, 0 for void, or a poison bit; `p7` discards it. -/
def landValue (k : Ce) (cyc iss : Nat) (d : PDst) (v : Val) (keep : Bool) : Ce :=
  let k := if keep then k else { k with result := v, resAt := cyc, resIss := iss }
  match d with
  | .k i => if k.lease.contains i then k else { k with k := Tab.set k.k i v }
  | .s i => if k.lease.contains (64 + i) then k else { k with s := Tab.set k.s i v }
  | .p i => if i = 7 then k else { k with p := Tab.set k.p i { b := !v.poison && !v.void && bitOf v.v.toNat 0, poison := v.poison } }
  | .ch _ | .none => k

/-- The latch of a copy's context slot takes an origin, if it is empty: of several CEs in one cycle the lowest `cexy` comes first
(spec/18_system.md R399). -/
def latchFill (s : State) (c : Copy) (o : Word) : State :=
  s.modSys c.tile fun y => { y with platch := Tab.modify y.platch c.slot fun l => fillLatch l o }

/-- A result of a slot lands (R50, R68). -/
def landWrite (s : State) (iss : Nat) (ref : CopyRef) (x : Nat) (d : PDst) (v : Val) (keep : Bool) : State :=
  match s.copy? ref with
  | none => s
  | some c =>
    let s := s.modCopy ref fun c =>
      let c := c.modCe x fun k => landValue k s.cyc iss d v keep
      match d with
      | .ch i => c.landToken x i v
      | _ => c
    match d with
    | .p i => if v.poison && i != 7 then latchFill s c v.v else s
    | _ => s

/-- A value for a destination two cycles after an access was performed, which is the cycle after its slot issued
(spec/10_ordering.md R238, spec/11_systolic.md R264). -/
def deliver2 (s : State) (ref : CopyRef) (x : Nat) (d : PDst) (v : Val) : State :=
  addDue s { at' := s.cyc + 2, phase := 0, key := x, iss := s.cyc - 1, act := .write ref x d v false }

/-- The receiver of an edge removes a plumb marker, and records it under TRACECTL.EMEM (spec/18_system.md R400, R413). -/
def landMarker (s : State) (ref : CopyRef) (x ch cut : Nat) : State :=
  match s.copy? ref with
  | none => s
  | some c => match c.outEdge x ch with
    | none => s
    | some _ =>
      let t := markerToken cut x c.slot
      traceEvent s c.tile none (s.traceBit c.tile 13) (1 + c.slot * 64 + ceY c x * 8 + ceX c x)
        (traceEntry s.cyc 7 false c.slot (fld t.hdr 16 6) (fld t.hdr 32 32))

/-- The panel of a record, if its address stands the checks of R276; one that leaves its memory tile makes the descriptor invalid (R259). -/
def panelOf (s : State) (c : Copy) (d : Nat) : Except Nat (List Byte) :=
  match slotCheck c (cdPanel d) 1 64 with
  | .error e => .error e
  | .ok (mt, off) => .ok (readNow s c.tile mt off ((cdPanelBytes d).getD 64))

/-- What a cell operation makes of its record (R267 to R275). -/
def cellRun (a : CellAct) (r panel : List Byte) : CellRes :=
  if a.topk then cellTopk r a.b
  else match a.op with
    | .sfeed => cellFeed r panel a.tok
    | .sfeedw _ => cellFeedW r panel (match fmtOfReg a.fmt with
      | some (.wide f) => f
      | _ => f32Fmt) a.b a.c
    | .sacc => cellAcc r panel
    | .sdrain p z => cellDrain r p z a.b
    | .sclr => cellClear r a.b
    | .scfg => cellConfig r a.b
    | .sload => .ok (r, none)
    | .scmpx => match cellInsert r a.b.toNat (fld a.c.toNat 0 32) with
      | .ok (r, _) => .ok (r, none)
      | .error e => .error e
    | .skey => .ok (r, some (cellKey r (fld a.b.toNat 0 4)))
    | .sidx => .ok (r, some (cellIdx r (fld a.b.toNat 0 4)))

/-- A cell access performed, at t+1: the panel's address, the descriptor and the sequence are checked on the record as it then
stands, in this order (R276). -/
def performCell (s : State) (a : CellAct) : State :=
  match s.copy? a.ref with
  | none => s
  | some c =>
    let loc := copyLoc c a.ce a.entry
    let r := readNow s c.tile a.mt a.off 256
    let d := recDesc r
    let need := if a.topk then CellNeed.sort else cellNeed a.op
    match (if !a.topk && readsPanel a.op && !cdSort d then panelOf s c d else .ok []) with
    | .error e => regionFault s a.ref e loc (BitVec.ofNat 64 (cdPanel d))
    | .ok panel =>
      if !descFits need d then regionFault s a.ref 0x06 loc 0
      else match cellRun a r panel with
        | .error e => regionFault s a.ref e loc 0
        | .ok (r', v) =>
          let s := writeMt s c.tile a.mt a.off r' (some (a.ref, a.ce))
          match v with
          | some v => deliver2 s a.ref a.ce a.dst v
          | none => s

/-- An act of a slot issued in cycle `iss` takes place. -/
def applyAct (s : State) (iss : Nat) : Act → State
  | .write ref x d v keep => landWrite s iss ref x d v keep
  | .marker ref x ch k => landMarker s ref x ch k
  | .eos ref x ch => s.modCopy ref fun c => c.landEos x ch
  | .latch ref x ch scale => s.modCopy ref fun c => c.modCe x fun k => { k with latch := Tab.setD scaleOne k.latch ch scale }
  | .store who t mt off bytes => writeMt s t mt off bytes who
  | .panel ref x t mt off bytes => writeMt s t mt off bytes (some (ref, x))
  | .origin ref o => (match s.copy? ref with
    | some c => latchFill s c o
    | none => s)
  | .tset _ t mt e tag => tagSet s t mt e tag
  | .tclr _ t mt e => tagClear s t mt e
  | .tuse _ t mt e => tagUse s t mt e
  | .atomic ref x t mt off sz m d =>
    let (s, v) := localRmw s t mt off sz m (some (ref, x))
    deliver2 s ref x d { v := v }
  | .cell a => performCell s a
  | .semAdd t i n => semAdd s t i n
  | .semTake t i n => semTake s t i n
  | .cmdDone t c => finishCmd s t c

/-- The order of acts: cycle, phase, `cexy`, then the cycle of issue, so that a later slot's value wins (spec/04_integer.md R112). -/
def Due.before (a b : Due) : Bool :=
  decide (a.at' < b.at') || (a.at' == b.at' && (decide (a.phase < b.phase) || (a.phase == b.phase &&
    (decide (a.key < b.key) || (a.key == b.key && decide (a.iss < b.iss))))))

/-- The acts that are due and that a test picks, in order. -/
def dueNow (s : State) (pick : Due → Bool) : List Due :=
  (s.due.filter fun d => decide (d.at' ≤ s.cyc) && pick d).foldl (fun l d => insertBy Due.before d l) []

/-- An act taken off the list and applied, if it still stands there: a rollback discards those of its copy. -/
def takeAct (s : State) (d : Due) : State :=
  if s.due.contains d then applyAct { s with due := s.due.erase d } d.iss d.act else s

/-- What the firings of a copy have still to do takes place at once, in its order: `n` rounds, for an act may bring about another. -/
def settleActs (ref : CopyRef) : Nat → State → State
  | 0, s => s
  | n + 1, s => settleActs ref n (((s.due.filter fun d => d.act.copy? == some ref).foldl (fun l d => insertBy Due.before d l) []).foldl takeAct s)

/-- The rollback of a copy that a fault has stopped in this cycle: the other slots of the firing that faulted, and firings that issued in
the meantime, take effect first (spec/18_system.md R403; log entry 163). -/
def settleFault (s : State) (c : Copy) : State :=
  if c.phase != .failing then s
  else
    let s := settleActs c.ref 2 s
    match s.copy? c.ref with
    | none => s
    | some c => match c.done with
      | some k => rollBack s c k
      | none => s

/-- The acts of the start of a cycle: results and tokens, plain signals, scale latches. -/
def landResults (s : State) : State := (dueNow s fun d => d.phase != 2).foldl takeAct s

/-- The slot writes of a cycle, in ascending `cexy` (R211): after the firings of the cycle, before its shared-port accesses. -/
def landStores (s : State) : State := (dueNow s fun d => d.phase == 2).foldl takeAct s

end Sys2Proof.Machine
end

