-- ==== Sys2Proof/Machine/Records.lean ====
section
/-!
DEFINITION. Request records and the operations on them (spec/15_requests.md R339 to R344, R354), spill and recall (R352),
admission (R350), the passes of the batch former (R345 to R353), manifests (R353, R355), and the banker's rows 0xB and 0xC
(R354, spec/16_sampling.md R367 to R372).
-/
namespace Sys2Proof.Machine

/-! ## Fields of a record (R339, R340) -/

/-- A number written to a record. -/
def rqPut (s : State) (k off n v : Nat) : State := { s with mem := writeBytes s.mem (recordAddr k off) (leBytes n v) }

/-- Such a field written. -/
def rqSet (s : State) (k off lo n v : Nat) : State := rqPut s k off 8 (setFld (rqNat s k off 8) lo n v)

/-- INC. -/
def rqInc (s : State) (k : Nat) : Nat := rqFld s k 0 24 12
/-- PEND. -/
def rqPend (s : State) (k : Nat) : Bool := bitOf (rqNat s k 0 8) 40
/-- SPILLED. -/
def rqSpilled (s : State) (k : Nat) : Bool := bitOf (rqNat s k 0 8) 11
/-- CLOSED. -/
def rqClosed (s : State) (k : Nat) : Bool := bitOf (rqNat s k 0 8) 41
/-- LANE. -/
def rqLane (s : State) (k : Nat) : Nat := rqFld s k 0 42 6
/-- ECLASS. -/
def rqClass (s : State) (k : Nat) : Nat := rqFld s k 0 12 2
/-- STAMP. -/
def rqStamp (s : State) (k : Nat) : Nat := rqFld s k 0x148 0 32
/-- SETRES. -/
def rqSetres (s : State) (k : Nat) : Nat := rqFld s k 0x140 0 20
/-- CPOS. -/
def rqCpos (s : State) (k : Nat) : Nat := rqFld s k 8 0 40
/-- PLEN. -/
def rqPlen (s : State) (k : Nat) : Nat := rqFld s k 0x18 0 40
/-- NDRAFT. -/
def rqNdraft (s : State) (k : Nat) : Nat := rqFld s k 0x310 0 5
/-- OUTR. -/
def rqOutr (s : State) (k : Nat) : Nat := rqFld s k 0x200 32 32
/-- The request is admitted, in prefill or in decode. -/
def rqActive (s : State) (k : Nat) : Bool := decide (1 ≤ rqState s k) && decide (rqState s k ≤ 3)

/-- Slots of the store. -/
def recordSlots : List Nat := List.range 4096

/-! ## Wakes, states, faults (spec/17_text.md R383; R341, R344) -/

/-- A new STATE; draining and faulted wake the Setter. -/
def enterReq (s : State) (k st : Nat) : State :=
  let old := rqState s k
  let s := rqSet s k 0 0 3 st
  if old ≠ st ∧ (st = 4 ∨ st = 5) then postWake s k else s

/-- The request drains for a reason: REASON and STATE (R341). -/
def drainReq (s : State) (k reason : Nat) : State := enterReq (rqSet s k 0 36 4 reason) k 4

/-- A request fault (R344). -/
def faultRequest (s : State) (k c : Nat) : State :=
  let w := rqNat s k 0x150 8
  let w := setFld w c 1 1
  let s := rqPut s k 0x150 8 (if fld w 32 5 = 0 then setFld w 32 5 c else w)
  if 1 ≤ rqState s k ∧ rqState s k ≤ 4 then enterReq (rqSet (rqSet s k 0 36 4 4) k 0 40 1 0) k 5 else s

/-! ## The check (R342, R343) -/

/-- SLOT of a request reference. -/
def rqSlot (ref : Nat) : Nat := fld ref 0 12

/-- The reference passes the check of R343. -/
def rqLive (s : State) (ref : Nat) : Bool :=
  rqInc s (rqSlot ref) == fld ref 12 12 && rqState s (rqSlot ref) != 0 && rqState s (rqSlot ref) != 6

/-- A checked write: dropped and counted when the check fails. -/
def checked (s : State) (ref stale : Nat) (body : State → Nat → State × Nat) : State × Nat :=
  if rqLive s ref then body s (rqSlot ref) else (bumpStale s (rqSlot ref), stale)

/-- A checked read: refused without a count. -/
def checkedRead (s : State) (ref : Nat) (body : Nat → Nat) : State × Nat :=
  (s, if rqLive s ref then body (rqSlot ref) else 0x02)

/-- The bits of word i that `rqwr` writes; RECALLED apart (R339, R340). -/
def rwMask (i : Nat) : Nat :=
  if i = 0 then 0x7000
  else if i = 11 then 0x7F
  else if i = 10 ∨ i = 12 ∨ i = 13 ∨ i = 14 then 2 ^ 32 - 1
  else if 16 ≤ i ∧ i < 24 then 0x3FFFF
  else if i = 24 then 0xFFFFFF7F
  else if 32 ≤ i ∧ i < 80 then 2 ^ 32 - 1
  else if i = 196 then 0x1F
  else if 197 ≤ i ∧ i < 213 then 2 ^ 32 - 1
  else if 216 ≤ i ∧ i < 256 then 2 ^ 32 - 1
  else 0

/-- A word after `rqwr`: RW bits take the value; RECALLED can only fall (R340, R354). -/
def rwWord (i old v : Nat) : Nat :=
  let x := natOfBits 32 fun b => if bitOf (rwMask i) b then bitOf v b else bitOf old b
  if i = 0 then setFld x 10 1 (b2n (bitOf old 10 && bitOf v 10)) else x

/-! ## Images (R354) -/

/-- The bits of word i of an image that must be zero. -/
def zeroMask (i : Nat) : Nat :=
  if i = 0 then 0x00FF03F8
  else if i = 1 ∨ i = 5 then 0xFF000000
  else if i = 3 then 0xFFFFC000
  else if i = 7 then 0xFFFFFF00
  else if i = 11 then 0xFFFFFF80
  else if 16 ≤ i ∧ i < 24 then 0xFFFC0000
  else if i = 24 then 0x80
  else if 25 ≤ i ∧ i < 32 then 2 ^ 32 - 1
  else if i = 80 then 0xFFF00000
  else if i = 81 then 2 ^ 32 - 1
  else if i = 85 then 0xFFFFFFE0
  else if 90 ≤ i ∧ i < 96 then 2 ^ 32 - 1
  else if i = 100 then 0xFFFFE0FC
  else if i = 101 ∨ i = 103 then 2 ^ 32 - 1
  else if i = 102 then 0xFFFFFFC0
  else if 114 ≤ i ∧ i < 128 then 2 ^ 32 - 1
  else if i = 130 ∨ i = 131 then 2 ^ 32 - 1
  else if i = 196 then 0xFFFFFFE0
  else if 213 ≤ i ∧ i < 216 then 2 ^ 32 - 1
  else 0

/-- A 32-bit word of an image. -/
def imgWord (img : List Byte) (i : Nat) : Nat := leNat ((img.drop (4 * i)).take 4)

/-- An image passes the checks of R354. -/
def imageOk (img : List Byte) : Bool :=
  let w := imgWord img
  let stops := w 24
  (List.range 256).all (fun i => w i &&& zeroMask i == 0) &&
    !(w 6 == 0 && fld (w 7) 0 8 == 0) && w 9 != 0 && decide (fld (w 11) 0 7 ≤ 64) && decide (fld stops 0 4 ≤ 8) &&
    decide (fld stops 4 3 ≤ 4) && decide (fld (w 196) 0 5 ≤ 16) &&
    (List.range (fld stops 4 3)).all fun i => decide (1 ≤ fld stops (8 + 6 * i) 6) && decide (fld stops (8 + 6 * i) 6 ≤ 32)

/-! ## The batch former's registers (R345, R346) -/

/-- The batch former. -/
def State.bf (s : State) : Bf := s.plinth.bf
/-- The state with the batch former changed. -/
def State.modBf (s : State) (f : Bf → Bf) : State := s.modPlinth fun p => { p with bf := f p.bf }
/-- EN. -/
def Bf.en (b : Bf) : Bool := bitOf b.cfg.toNat 63
/-- AUTOSPILL. -/
def Bf.autospill (b : Bf) : Bool := bitOf b.cfg.toNat 62
/-- LTOK. -/
def Bf.ltok (b : Bf) : Nat := fld b.cfg.toNat 47 15
/-- CHUNK. -/
def Bf.chunk (b : Bf) : Nat := fld b.cfg.toNat 35 12
/-- S. -/
def Bf.stages (b : Bf) : Nat := fld b.cfg.toNat 29 6 + 1
/-- Bytes of a spill image. -/
def Bf.spillBytes (b : Bf) : Nat := 2 ^ fld b.spill.toNat 0 5
/-- The spill image of slot k. -/
def Bf.spillAddr (b : Bf) (k : Nat) : Nat := fld b.spill.toNat 16 32 * 2 ^ 16 + k * b.spillBytes
/-- Manifest buffer of pass p (R353). -/
def Bf.buffer (b : Bf) (p : Nat) : Nat := fld b.man.toNat 25 23 * 2 ^ 25 + p % 128 * 0x40000

/-- AVAIL raised. -/
def giveSets (s : State) (n : Nat) : State := s.modBf fun b => { b with avail := (b.avail + n) % 2 ^ 32 }
/-- AVAIL lowered. -/
def takeSets (s : State) (n : Nat) : State := s.modBf fun b => { b with avail := (b.avail + 2 ^ 32 - n % 2 ^ 32) % 2 ^ 32 }

/-- NEED of a request of P positions (R348). -/
def setsNeeded (b : Bf) (p : Nat) : Nat :=
  let m := b.model.toNat
  let nsink := fld m 19 3
  (fld m 16 3 + 1) * (min nsink ((p + 63) / 64) + min (fld m 22 26 + 1) ((p - 64 * nsink + 63) / 64))

/-- A prompt buffer is returned (spec/17_text.md R378). -/
def returnBuf (s : State) (pbuf : Nat) : State :=
  let r := s.plinth.qrbuf.toNat
  let base := fld r 16 40 * 2 ^ 16
  let i := (pbuf - base) / 2 ^ fld r 0 5
  if pbuf < base then s else s.modPlinth fun p => { p with bufs := p.bufs.filter (· != i) }

/-! ## Shard entries (spec/13_rings.md R309) -/

/-- The addresses of the entries of a shard table, sinks and then window; or the state that an access fault leaves, and its cause. -/
def shardAddrs (s : State) (t root : Nat) : Except (State × Nat) (State × List Nat) :=
  match elemRead s t root 16 8 with
  | .error e => .error e
  | .ok (s, b) =>
    let nsink := min 4 (fld (leNat b) 0 3)
    let wp := fld (leNat b) 64 26 + 1
    .ok (s, ((List.range nsink).map fun i => root + 0x440 + 8 * i) ++ (List.range wp).map fun i => root + 0x460 + 8 * i)

/-- SET, TILE and PKG of an entry. -/
def shardHome (e : Nat) : Nat × Nat × Nat := (fld e 10 20, fld e 30 10, fld e 40 8)

/-- A store of eight bytes at a virtual address would not fault. -/
def storeFault (s : State) (t va : Nat) : Option Nat :=
  match xlatNow s t va with
  | .error c => some c
  | .ok (s, e) => if !e.w then some 0x11 else homeFault s (e.map va)

/-- An operation of the batch former on a set of another package, and its answer, which is free (log entry 144); a number that no package
of the arcade holds is refused (spec/13_rings.md R312). -/
def farKv (s : State) (pkg tile : Nat) (op : KvOp) : State × Except Nat (Option Nat) :=
  if s.refusesPackage pkg then (s, .ok none)
  else ({ plinthArc s pkg (.kv tile op) with draws := s.draws + 1 }, Config.farKv s.draws)

/-- A set freed at its home: the cause of a fault, if one is met. -/
def freeSet (s : State) (home : Nat × Nat × Nat) : State × Option Nat :=
  let (set, tile, pkg) := home
  if pkg ≠ s.mgmt.arcNum then (match farKv s pkg tile (.free set) with
    | (s, .error c) => (s, some c)
    | (s, .ok _) => (s, none))
  else if !s.tileOk tile then (s, some 0x1A)
  else match kvLocal s tile false false (.free set) with
    | .error r => (kvReport s r, some r.1)
    | .ok (s, _, _) => (s, none)

/-- A shard table of a request names a set of another package. -/
def rqFar (s : State) (t k : Nat) : Bool :=
  (List.range 8).any fun g =>
    let root := rqNat s k (0x100 + 8 * g) 8
    root != 0 && match shardAddrs s t root with
      | .error _ => false
      | .ok (s, l) => l.any fun va => match elemRead s t va 8 8 with
        | .error _ => false
        | .ok (_, b) => bitOf (leNat b) 0 && fld (leNat b) 40 8 != s.mgmt.arcNum

/-- The sets of a request can be reached: none is in another package while the arcade does not run (spec/19_boundary.md R431). -/
def rqReach (s : State) (t k : Nat) : Bool := s.mgmt.arcUp || !rqFar s t k

/-! ## Retirement (R349, step 1) -/

/-- RETIRE_ERR (spec/19_boundary.md R428). -/
def retireErr (s : State) (c g k : Nat) : State := pushEvent s 0x0B (c * 2 ^ 48 + g * 2 ^ 45 + k)

/-- One entry of a retiring request's shard table: its set is freed and its V cleared; where the store that clears V meets an uncorrectable
error, the set is not freed; false when reading it meets an access fault. -/
def retireEntry (t k g : Nat) (s : State) (va : Nat) : State × Bool :=
  match elemRead s t va 8 8 with
  | .error (s, c) => (retireErr s c g k, false)
  | .ok (s, b) =>
    let e := leNat b
    if !bitOf e 0 then (s, true)
    else match storeFault s t va with
      | some c => (retireErr s c g k, true)
      | none => match freeSet s (shardHome e) with
        | (s, some c) => (retireErr s c g k, true)
        | (u, none) => match vWrite u t va (leBytes 8 (setFld e 0 1 0)) with
          | (u, none) => (u, true)
          | (_, some (c, _)) => (retireErr (vWrite { s with strike := u.strike } t va [0]).1 c g k, true)

/-- The entries of a retiring request's shard table in order; a faulting read skips the rest of the table. -/
def retireTable (t k g : Nat) : State → List Nat → State
  | s, [] => s
  | s, va :: l => match retireEntry t k g s va with
    | (s, true) => retireTable t k g s l
    | (s, false) => s

/-- A request retires. -/
def retireReq (t : Nat) (s : State) (k : Nat) : State :=
  let s := (List.range 8).foldl (fun s g =>
    let root := rqNat s k (0x100 + 8 * g) 8
    if root = 0 then s
    else match shardAddrs s t root with
      | .error (s, c) => retireErr s c g k
      | .ok (s, l) => retireTable t k g s l) s
  let s := if rqSpilled s k then s else giveSets s (rqSetres s k)
  let s := rqSet (rqSet s k 0x140 0 20 0) k 0 11 1 0
  returnBuf (enterReq s k 6) (rqFld s k 0x10 0 56)

/-! ## Spill and recall (R352) -/

/-- The valid entries among some addresses: address and entry. -/
def validAmong (t : Nat) : State → List Nat → Except (State × Nat) (State × List (Nat × Nat))
  | s, [] => .ok (s, [])
  | s, va :: vas => match elemRead s t va 8 8 with
    | .error e => .error e
    | .ok (s, b) => match validAmong t s vas with
      | .error e => .error e
      | .ok (s, l) => .ok (s, if bitOf (leNat b) 0 then (va, leNat b) :: l else l)

/-- The valid entries of a request's shard tables, for some groups. -/
def validEntries (t k : Nat) : State → List Nat → Except (State × Nat) (State × List (Nat × Nat))
  | s, [] => .ok (s, [])
  | s, g :: gs =>
    let root := rqNat s k (0x100 + 8 * g) 8
    let these : Except (State × Nat) (State × List (Nat × Nat)) :=
      if root = 0 then .ok (s, [])
      else match shardAddrs s t root with
        | .error e => .error e
        | .ok (s, vas) => validAmong t s vas
    match these with
    | .error e => .error e
    | .ok (s, l) => match validEntries t k s gs with
      | .error e => .error e
      | .ok (s, m) => .ok (s, l ++ m)

/-- Bytes of the set that an entry names; of one in another package, as in the pool of the tile of the batch former (log entry 51). -/
def setBytes (s : State) (t e : Nat) : Nat :=
  let (_, tile, pkg) := shardHome e
  2 ^ (s.tile (if pkg = s.mgmt.arcNum then tile else t)).ring.setl

/-- The status entry and the bytes of a set, or a cause; a refusal of another package counts as a failed copy. -/
def setImage (s : State) (t e : Nat) : State × Except Nat (Nat × List Byte) :=
  let (set, tile, pkg) := shardHome e
  if pkg ≠ s.mgmt.arcNum then (match farKv s pkg tile (.image set) with
    | (s, .error c) => (s, .error c)
    | (s, .ok none) => (s, .error 0)
    | (s, .ok (some p)) => (s, .ok (p % 2 ^ 256, leBytes (setBytes s t e) (p / 2 ^ 256))))
  else if !s.tileOk tile then (s, .error 0x1A)
  else
    let x := (s.tile tile).ring
    match readEnt s x false set with
    | .error r => (kvReport s r, .error r.1)
    | .ok (s, st) => match areaFault s (x.setAddr set) (2 ^ x.setl) with
      | some c => (s, .error c)
      | none =>
        if s.ue then (eccEvent s (x.setAddr set), .error 0x14)
        else (eccNote s (x.setAddr set), .ok (st, homeRead s (x.setAddr set) (2 ^ x.setl)))

/-- Bytes of the image of some entries. -/
def imageSize (s : State) (t : Nat) (l : List (Nat × Nat)) : Nat := (l.map fun e => 64 + setBytes s t e.2).sum

/-- The image of a request fits in its spill area. -/
def rqImageFits (s : State) (t k : Nat) : Bool :=
  match validEntries t k s (List.range 8) with
  | .ok (s, l) => decide (imageSize s t l ≤ s.bf.spillBytes)
  | .error _ => true

/-- The image written entry by entry; false when a copy faults. -/
def writeImage (t : Nat) : State → Nat → List (Nat × Nat) → State × Bool
  | s, _, [] => (s, true)
  | s, a, (_, e) :: l =>
    match setImage s t e with
    | (s, .error _) => (s, false)
    | (s, .ok (st, bytes)) =>
      let n := 64 + bytes.length
      match areaFault s a n with
      | some _ => (s, false)
      | none => writeImage t (homeWrite s a (leBytes 64 st ++ bytes)) (a + n) l

/-- A request spilled: false when a copy faults, and the request then faults SPILL_IO. -/
def spillReq (s : State) (t k : Nat) : State × Bool :=
  match validEntries t k s (List.range 8) with
  | .error (s, _) => (faultRequest s k 7, false)
  | .ok (s, l) =>
    match writeImage t s (s.bf.spillAddr k) l with
    | (s, false) => (faultRequest s k 7, false)
    | (s, true) =>
      let s := l.foldl (fun s e => (freeSet s (shardHome e.2)).1) s
      let s := giveSets s (rqSetres s k)
      let s := rqSet s k 0 11 1 1
      (rqSet s k 0x160 0 32 (rqFld s k 0x160 0 32 + 1), true)

/-- How a recall ends. -/
inductive Recall where
  | done | noSets | failed
deriving DecidableEq, Repr, Inhabited

/-- A set allocated at the home of an entry, with the masks of its image (R352): its number, where that succeeds. -/
def allocOne (s : State) (k inc e img : Nat) : State × Option Nat :=
  let (_, tile, pkg) := shardHome e
  if pkg ≠ s.mgmt.arcNum then (match farKv s pkg tile (.alloc k inc) with
    | (s, .ok (some set)) => ((farKv s pkg tile (.masks (set % 2 ^ 20) (entVmask img) (entTmask img))).1, some (set % 2 ^ 20))
    | (s, _) => (s, none))
  else if !s.tileOk tile then (s, none)
  else match kvLocal s tile false false (.alloc k inc) with
    | .ok (s, 0, set) =>
      let x := (s.tile tile).ring
      (writeEnt s x set (setFld (setFld (leNat (homeRead s (x.entAddr set) 32)) 128 64 (entVmask img)) 192 64 (entTmask img)), some set)
    | .ok (s, _, _) => (s, none)
    | .error r => (kvReport s r, none)

/-- New sets allocated for the entries of an image: address, entry and new set of each; false when one fails. -/
def allocSets (t k inc : Nat) : State → Nat → List (Nat × Nat) → List (Nat × Nat × Nat) → State × List (Nat × Nat × Nat) × Bool
  | s, _, [], got => (s, got, true)
  | s, a, (va, e) :: l, got =>
    match allocOne s k inc e (leNat (homeRead s a 32)) with
    | (s, none) => (s, got, false)
    | (s, some set) => allocSets t k inc s (a + 64 + setBytes s t e) l (got ++ [(va, e, set)])

/-- New sets freed again. -/
def dropSets (s : State) (got : List (Nat × Nat × Nat)) : State :=
  got.foldl (fun s (_, e, set) => (freeSet s (set, (shardHome e).2)).1) s

/-- The bytes of an image copied into a new set at the home of an entry; false when the copy faults. -/
def fillSet (s : State) (t e set a : Nat) : State × Bool :=
  let (_, tile, pkg) := shardHome e
  let n := setBytes s t e
  match areaFault s a (64 + n) with
  | some _ => (s, false)
  | none =>
    if s.ue then (eccEvent s a, false)
    else
      let s := eccNote s a
      let bytes := homeRead s (a + 64) n
      if pkg ≠ s.mgmt.arcNum then (match farKv s pkg tile (.fill set bytes) with
        | (s, .error _) => (s, false)
        | (s, .ok _) => (s, true))
      else
        let at' := (s.tile tile).ring.setAddr set
        match areaFault s at' n with
        | some _ => (s, false)
        | none => (homeWrite s at' bytes, true)

/-- Set bytes copied back and entries rewritten; false when a copy or a store faults. -/
def restoreSets (t : Nat) : State → Nat → List (Nat × Nat × Nat) → State × Bool
  | s, _, [] => (s, true)
  | s, a, (va, e, set) :: l =>
    match fillSet s t e set a with
    | (s, false) => (s, false)
    | (s, true) => match vWrite s t va (leBytes 8 (setFld e 10 20 set)) with
      | (s, some _) => (s, false)
      | (s, none) => restoreSets t s (a + 64 + setBytes s t e) l

/-- A request recalled. -/
def recallReq (s : State) (t k : Nat) : State × Recall :=
  if s.bf.avail < rqSetres s k then (s, .noSets)
  else match validEntries t k s (List.range 8) with
    | .error (s, _) => (faultRequest s k 7, .failed)
    | .ok (s, l) =>
      let a := s.bf.spillAddr k
      match allocSets t k (rqInc s k) s a l [] with
      | (s, got, false) => (dropSets s got, .noSets)
      | (s, got, true) =>
        match restoreSets t s a got with
        | (s, false) => (faultRequest (dropSets s got) k 7, .failed)
        | (s, true) => (rqSet (rqSet (takeSets s (rqSetres s k)) k 0 11 1 0) k 0 10 1 1, .done)

/-- The eviction order: ECLASS, STAMP, slot. -/
def evictBefore (s : State) (i j : Nat) : Bool :=
  decide (rqClass s i < rqClass s j) || (rqClass s i == rqClass s j &&
    (decide (rqStamp s i < rqStamp s j) || (rqStamp s i == rqStamp s j && decide (i < j))))

/-- Insertion at its place in an order. -/
def insertSlot (lt : Nat → Nat → Bool) (k : Nat) : List Nat → List Nat
  | [] => [k]
  | x :: l => if lt k x then k :: x :: l else x :: insertSlot lt k l

/-- Slots sorted by an order. -/
def sortSlots (lt : Nat → Nat → Bool) (l : List Nat) : List Nat := l.foldl (fun a k => insertSlot lt k a) []

/-- Step 3: spilled requests recalled, last spilled first, up to the first that does not fit (R349). -/
def recallAll (t : Nat) : State → List Nat → State
  | s, [] => s
  | s, k :: l => if s.bf.avail < rqSetres s k then s else recallAll t (recallReq s t k).1 l

/-! ## Admission (R350) -/

/-- The lowest free or retired slot. -/
def freeRecord (s : State) : Option Nat := recordSlots.find? fun k => rqState s k == 0 || rqState s k == 6

/-- Requests of a lane in admitted, prefill or decode. -/
def laneLoad (s : State) (b : Nat) : Nat := (recordSlots.filter fun k => rqActive s k && rqLane s k == b).length

/-- The lane with fewest requests below `n`, the lower on a tie. -/
def leastLane (s : State) : Nat → Option (Nat × Nat)
  | 0 => none
  | n + 1 =>
    let x := laneLoad s n
    match leastLane s n with
    | some (b, y) => if x < y then some (n, x) else some (b, y)
    | none => some (n, x)

/-- The lane a new request takes; none when it holds LTOK requests. -/
def freeLane (s : State) : Option Nat :=
  match leastLane s s.bf.stages with
  | some (b, y) => if y < s.bf.ltok then some b else none
  | none => none

/-- The words of a new record: what an image gives (R350). -/
def admitWord (img : List Byte) (i : Nat) : Nat :=
  let w := imgWord img i
  if i = 1 then fld w 16 8 * 2 ^ 16
  else if (4 ≤ i ∧ i < 8) ∨ i = 9 ∨ (96 ≤ i ∧ i < 102) then w
  else w &&& rwMask i

/-- An image installed in a slot. -/
def install (s : State) (k : Nat) (img : List Byte) (lane need : Nat) : State :=
  let inc := (rqInc s k + 1) % 4096
  let stale := rqFld s k 0x158 0 32
  let s := { s with mem := writeBytes s.mem (recordAddr k 0) ((List.range 256).flatMap fun i => leBytes 4 (admitWord img i)) }
  let s := rqSet (rqSet (rqSet s k 0 24 12 inc) k 0 42 6 lane) k 0 0 3 1
  let s := rqSet (rqSet s k 0x158 0 32 stale) k 0x140 0 20 need
  takeSets (rqPut s k 0x148 8 (s.bf.pass * 2 ^ 32 + s.bf.pass)) need

/-- The shortest prefix of some spillVictims that raises AVAIL to a need. -/
def spillVictims (s : State) (need : Nat) : Nat → List Nat → Option (List Nat)
  | have', [] => if need ≤ have' then some [] else none
  | have', k :: l => if need ≤ have' then some [] else (spillVictims s need (have' + rqSetres s k) l).map (k :: ·)

/-- The requests an admission of a class may spill, in eviction order. -/
def evictable (s : State) (t cls : Nat) : List Nat :=
  sortSlots (evictBefore s) (recordSlots.filter fun k =>
    rqActive s k && !rqPend s k && !rqSpilled s k && decide (rqClass s k < cls) && rqImageFits s t k)

/-- Step 4: the arrival queue admitted up to the first image that does not fit. -/
def admitAll (t : Nat) : Nat → State → State
  | 0, s => s
  | fuel + 1, s =>
    match s.bf.arrq with
    | [] => s
    | img :: rest =>
      if !imageOk img then
        let s := s.modBf fun b => { b with arrq := rest, bad := min (b.bad + 1) 65535 }
        admitAll t fuel (returnBuf s (fld (imgWord img 4 + imgWord img 5 * 2 ^ 32) 0 56))
      else match freeRecord s, freeLane s with
        | some k, some lane =>
          let p := imgWord img 6 + fld (imgWord img 7) 0 8 * 2 ^ 32 + imgWord img 9
          let need := setsNeeded s.bf p
          let s := if s.bf.avail < need ∧ s.bf.autospill then
              (match spillVictims s need s.bf.avail (evictable s t (fld (imgWord img 0) 12 2)) with
               | some l => l.foldl (fun s k => (spillReq s t k).1) s
               | none => s) else s
          if s.bf.avail < need then s
          else admitAll t fuel (install (s.modBf fun b => { b with arrq := rest }) k img lane need)
        | _, _ => s

/-! ## Building and publishing (R351, R353) -/

/-- A candidate of a lane (R351). -/
def candidate (s : State) (lane k : Nat) : Bool :=
  rqActive s k && rqLane s k == lane && !rqPend s k && !rqSpilled s k && !bitOf (rqNat s k 0 8) 10 &&
    (rqState s k != 3 || decide (rqNdraft s k + 1 + (rqOutw s k + 2 ^ 32 - rqOutr s k) % 2 ^ 32 ≤ 64))

/-- Tokens a candidate wants. -/
def wanted (s : State) (k : Nat) : Nat :=
  if rqState s k = 3 then 1 + rqNdraft s k else min (rqPlen s k - rqCpos s k) s.bf.chunk

/-- The tokens left over shared out in order, on top of the first of each. -/
def shareTokens (s : State) : Nat → List Nat → List (Nat × Nat)
  | _, [] => []
  | left, k :: l =>
    let x := min (wanted s k - 1) left
    (k, 1 + x) :: shareTokens s (left - x) l

/-- 32-bit words of some bytes. -/
def wordsOf32 (b : List Byte) (n : Nat) : List Nat := (List.range n).map fun i => leNat ((b.drop (4 * i)).take 4)

/-- The tokens of a served request, or the state after a fault of reading its prompt, which a PBUF that is not 4-aligned meets too. -/
def entryTokens (s : State) (t k n : Nat) : Except State (State × List Nat) :=
  if rqState s k = 3 then
    .ok (s, rqNat s k (0x210 + 4 * ((rqOutw s k + 63) % 64)) 4 :: (List.range (n - 1)).map fun i => rqNat s k (0x314 + 4 * i) 4)
  else match elemRead s t (rqFld s k 0x10 0 56 + 4 * rqCpos s k) (4 * n) 4 with
    | .error (s, _) => .error s
    | .ok (s, b) => .ok (s, wordsOf32 b n)

/-- The entries and tokens of a pass (R351, R353). -/
def buildEntries (t : Nat) : State → List (Nat × Nat) → List (Nat × Nat) → List Nat → State × List (Nat × Nat) × List Nat
  | s, [], es, ts => (s, es, ts)
  | s, (k, n) :: l, es, ts =>
    match entryTokens s t k n with
    | .error s => buildEntries t (faultRequest s k 5) l es ts
    | .ok (s, tok) =>
      let dec := rqState s k == 3
      let kind := if dec then (if 1 < n then 2 else 1) else 0
      let e := (k + rqInc s k * 2 ^ 12 + kind * 2 ^ 24 + ts.length * 2 ^ 32, rqCpos s k + n * 2 ^ 40)
      let s := rqSet s k 0x310 0 5 0
      let s := rqSet s k 0 40 1 1
      let s := rqSet s k 0x148 0 32 s.bf.pass
      let s := rqSet s k 0x158 32 32 (rqFld s k 0x158 32 32 + 1)
      let s := if rqState s k = 1 then rqSet s k 0 0 3 2 else s
      buildEntries t s l (es ++ [e]) (ts ++ tok)

/-- Steps 1 to 4 of a pass (R349). -/
def passBegin (s : State) (t : Nat) : State :=
  let s := (recordSlots.filter fun k => (rqState s k == 4 || rqState s k == 5) && rqClosed s k).foldl (retireReq t) s
  let s := (recordSlots.filter fun k => bitOf (rqNat s k 0 8) 15 && rqActive s k).foldl
    (fun s k => drainReq (rqSet (rqSet s k 0 40 1 0) k 0 15 1 0) k 5) s
  let s := recallAll t s (sortSlots (evictBefore s) (recordSlots.filter (rqSpilled s))).reverse
  admitAll t (s.bf.arrq.length + 1) s

/-- A pass waits at its start: a set that it would free or copy is in another package, and the arcade does not run
(spec/19_boundary.md R431). -/
def passWaits (s : State) (t : Nat) : Bool :=
  !s.mgmt.arcUp && recordSlots.any fun k =>
    (((rqState s k == 4 || rqState s k == 5) && rqClosed s k) || rqSpilled s k ||
      (s.bf.autospill && s.bf.arrq != [] && rqActive s k && !rqPend s k)) && rqFar s t k

/-- A record is still served in a pass whose buffer this pass would take (R353). -/
def passHeld (s : State) : Bool :=
  recordSlots.any fun k => rqPend s k && decide (rqStamp s k + 128 ≤ s.bf.pass)

/-- Steps 5 and 6 of a pass: the manifest buffer written and published, or the cause of an access fault. -/
def passEnd (s : State) (t lane : Nat) : Except Nat State :=
  let p := s.bf.pass
  let before (i j : Nat) : Bool := decide (rqStamp s i < rqStamp s j) || (rqStamp s i == rqStamp s j && decide (i < j))
  let served := (sortSlots before (recordSlots.filter (candidate s lane))).take s.bf.ltok
  let (s, es, ts) := buildEntries t s (shareTokens s (s.bf.ltok - served.length) served) [] []
  let a := s.bf.buffer p
  match areaFault s a 0x40000 with
  | some c => .error c
  | none =>
    let s := homeWrite s a (leBytes 8 (p + lane * 2 ^ 32) ++ leBytes 8 (es.length + ts.length * 2 ^ 32) ++ List.replicate 0xF0 0)
    let s := homeWrite s (a + 0x100) (es.flatMap fun e => leBytes 8 e.1 ++ leBytes 8 e.2)
    let s := homeWrite s (a + 0x10100) (ts.flatMap (leBytes 4))
    .ok (s.modBf fun b => { b with pass := (p + 1) % 2 ^ 32 })

/-- The lane a pass serves (R346, R347). -/
def passLane (s : State) (lane : Nat) (auto : Bool) : Nat :=
  let j := s.bf.pass % s.bf.stages
  if auto then fld (Tab.get s.bf.course (j / 8)).toNat (8 * (j % 8)) 6 else lane

/-- `bstep` (R347, R349): it does not start under a lane of S or more, and waits while a buffer is held. -/
def execCBstep (h : CHead) (lane : BitVec 6) (auto : Bool) (s : State) : Host.Outcome State Fault Refusal :=
  if (s.chain s.actor s.actorChain).run ≠ .started ∧ s.bf.stages ≤ lane.toNat then .next (chainFault s s.actor s.actorChain 0x1D 0)
  else runCmd h (fun s t c =>
    if !s.bf.en then cmdFault s t c 0x35
    else if (s.chain t c).pos = 0 ∧ passWaits s t then s
    else
      let s := if (s.chain t c).pos = 0 then (passBegin s t).modChain t c fun x => { x with pos := 1 } else s
      if passHeld s then s
      else match passEnd s t (passLane s lane.toNat auto) with
        | .error e => cmdFault s t c e
        | .ok s => issuedAll s t c) s

/-! ## Operations at the record store (R342, R354, spec/16_sampling.md R369, R371, spec/17_text.md R388) -/

/-- `rqadmit`. -/
def admitOp (s : State) (img : List Byte) (slot : Nat) (any : Bool) : State × Nat :=
  if !imageOk img then (s, 0x01)
  else match (if any then freeRecord s else if rqState s slot = 0 ∨ rqState s slot = 6 then some slot else none), freeLane s with
    | some k, some lane =>
      let need := setsNeeded s.bf (imgWord img 6 + fld (imgWord img 7) 0 8 * 2 ^ 32 + imgWord img 9)
      if s.bf.avail < need then (s, 0x05)
      else
        let s := install s k img lane need
        (s, k * 2 ^ 8 + rqInc s k * 2 ^ 20 + lane * 2 ^ 32)
    | _, _ => (s, 0x04)

/-- VSM1 of SAMPCFG. -/
def State.vsm1 (s : State) : Nat := fld s.plinth.sampcfg.toNat 27 18

/-- One token committed: the state, and whether the commit stopped, and with a token (R371). -/
def commitTok (s : State) (k y : Nat) : State × Bool × Nat :=
  if s.vsm1 < y then (faultRequest s k 6, true, 0)
  else
    let w := rqOutw s k
    let s := rqPut s k (0x210 + 4 * (w % 64)) 4 y
    let ng := (rqFld s k 0x20 0 32 + 1) % 2 ^ 32
    let s := postWake (rqSet (rqSet s k 0x200 0 32 (w + 1)) k 0x20 0 32 ng) k
    let nst := min 8 (rqFld s k 0x60 0 4)
    if (List.range nst).any (fun i => fld (rqNat s k (0x40 + 4 * i) 4) 0 18 == y) then (drainReq s k 1, true, 1)
    else if ng = rqFld s k 0x20 32 32 then (drainReq s k 3, true, 1)
    else (s, false, 1)

/-- Tokens committed up to the first that stops: the state and their number. -/
def commitToks (k : Nat) : State → List Nat → State × Nat
  | s, [] => (s, 0)
  | s, y :: l =>
    match commitTok s k y with
    | (s, true, n) => (s, n)
    | (s, false, n) =>
      let (s, m) := commitToks k s l
      (s, n + m)

/-- `scommit` at the record store (R371). -/
def commitOp (s : State) (k kind first n nacc : Nat) (y : List Nat) : State × Nat :=
  if (rqState s k ≠ 2 ∧ rqState s k ≠ 3) ∨ !rqPend s k ∨ rqCpos s k ≠ first then (s, 0x03)
  else if nacc = 0 ∨ n < nacc ∨ (kind = 0 ∧ nacc ≠ 1) then (s, 0x01)
  else
    let s := rqSet s k 0 40 1 0
    let (s, cnt) :=
      if kind = 0 then
        let s := rqSet (rqSet s k 8 0 40 (first + n)) k 8 40 6 0
        if rqCpos s k = rqPlen s k then commitToks k (rqSet s k 0 0 3 3) [y.getD (n - 1) 0] else (s, 0)
      else
        let s := rqSet (rqSet s k 8 0 40 (first + nacc)) k 8 40 6 (n - nacc)
        let s := rqSet s k 0x160 32 32 (rqFld s k 0x160 32 32 + (n - nacc))
        commitToks k s (y.take nacc)
    (s, cnt * 2 ^ 8 + rqState s k * 2 ^ 24)

/-- The sampling descriptor `rngblk` writes (spec/16_sampling.md R357, R358, R369). -/
def descBytes (s : State) (k p dbase : Nat) (dres : Bool) : List Byte :=
  let salt (i : Nat) : List Byte := leBytes 8 (Tab.get s.plinth.salt i).toNat
  let temp := rqFld s k 0x28 0 32
  let greedy := !(decide (0 < temp) && decide (temp ≤ 0x7F800000))
  leBytes 8 (rqNat s k 0x30 8) ++ salt 0 ++ salt 1 ++ salt 2 ++ leBytes 8 p ++
    leBytes 8 (rqFld s k 0x38 0 32 + temp * 2 ^ 32) ++
    leBytes 8 (s.vsm1 + min (rqFld s k 0x28 32 7) (s.vsm1 + 1) * 2 ^ 18 + b2n greedy * 2 ^ 25 + b2n dres * 2 ^ 26) ++ leBytes 8 dbase

/-- The descriptor of `rngblk` written into the issuing tile through the shared port, which it holds for 8 double words; a memory tile that
is no buffer any more takes nothing (spec/09_memory.md R208, R210). -/
def putDesc (s : State) (t dst : Nat) (bytes : List Byte) : State :=
  if (s.roleOf t (fld dst 16 4)).isBuffer then writeMt (usePort s t (fld dst 16 4) 4 8) t (fld dst 16 4) (fld dst 0 16) bytes none else s

/-- `rngblk` at the record store: the descriptor is written into the issuing tile. -/
def rngOp (s : State) (t : Option Nat) (ref p : Nat) (rsv : Bool) (dst : Nat) : State × Nat :=
  let k := rqSlot ref
  if !rqLive s ref then (s, 0x02)
  else if 2 ^ 40 ≤ p then (faultRequest s k 4, 0x05)
  else
    let draw := rqFld s k 0x38 32 32
    if rsv && decide (2 ^ 32 - 16401 < draw) then (rqSet (faultRequest s k 3) k 0x38 32 32 (2 ^ 32 - 1), 0x06)
    else
      let dbase := if rsv then draw else 0
      let bytes := descBytes s k p dbase rsv
      let s := if rsv then rqSet s k 0x38 32 32 (draw + 16) else s
      (match t with
       | some t => putDesc s t dst bytes
       | none => s, dbase * 2 ^ 8)

/-- The Setter a slot's wakes go to is running. -/
def setterOn (s : State) (k : Nat) : Bool := (Tab.get s.plinth.setter (rqFld s k 0x190 8 4)).running

/-- One operation at the record store: the state and what d receives. -/
def recordOp (s : State) (t : Option Nat) (op : RecOp) : State × Nat :=
  let tile := t.getD 0
  match op with
  | .read ref i => checkedRead s ref fun k => rqNat s k (4 * i) 4 * 2 ^ 8
  | .write ref i v => checked s ref 0x02 fun s k => (rqPut s k (4 * i) 4 (rwWord i (rqNat s k (4 * i) 4) v), 0)
  | .fault ref c => checked s ref 0x02 fun s k => (faultRequest s k c, 0)
  | .state ref => checkedRead s ref fun k => rqFld s k 0 0 32 * 2 ^ 8
  | .cancel ref =>
      let (u, v) := checked s ref 0x02 fun s k => if 4 ≤ rqState s k then (s, 0x03) else (rqSet s k 0 15 1 1, 0)
      -- the table of R354 answers STATE for a retired record too; its write is dropped and counted by R343 (log entry 145)
      (u, if rqInc s (rqSlot ref) = fld ref 12 12 ∧ rqState s (rqSlot ref) = 6 then 0x03 else v)
  | .faults ref => checkedRead s ref fun k => rqFld s k 0x150 0 37 * 2 ^ 8
  | .spill ref => checked s ref 0x02 fun s k =>
      if !rqActive s k || rqPend s k || rqSpilled s k then (s, 0x03)
      else if !rqImageFits s tile k then (s, 0x08)
      else ((spillReq s tile k).1, 0)
  | .recall ref => checked s ref 0x02 fun s k =>
      if !rqSpilled s k then (s, 0x03)
      else match recallReq s tile k with
        | (s, .noSets) => (s, 0x05)
        | (s, _) => (s, 0)
  | .admitImg img slot any => admitOp s img slot any
  | .commit slot inc kind first n nacc y => checked s (slot + inc * 2 ^ 12) 0x02 fun s k => commitOp s k kind first n nacc y
  | .rngblk ref p rsv dst => rngOp s t ref p rsv dst
  | .close ref => checked s ref 0x0B fun s k =>
      if rqState s k ≠ 4 ∧ rqState s k ≠ 5 then (s, 0x09)
      else if bitOf (rqNat s k 0x190 8) 12 && setterOn s k then (s, 0x09)
      else (rqSet s k 0 41 1 1, 0)

/-- An operation waits: a spill or recall, with a set of its request in another package while the arcade does not run (spec/19_boundary.md
R431); `rngblk`, while the port of its memory tile does not serve the crossbar (spec/09_memory.md R210). -/
def recordWaits (s : State) (m : RecMsg) : Bool :=
  match m.op with
  | .rngblk _ _ _ dst => (match m.from' with
    | some t => (s.roleOf t (fld dst 16 4)).isBuffer && !(s.port t (fld dst 16 4)).serves s.cyc 4
    | none => false)
  | .spill ref | .recall ref => rqLive s ref && !rqReach s (m.from'.getD 0) (rqSlot ref)
  | _ => false

/-- The record store performs the oldest operation that has arrived (R342). -/
def execRecordStoreOperation (s : State) : Host.Outcome State Fault Refusal :=
  .next (match s.plinth.recq with
    | [] => s
    | m :: rest =>
      if recordWaits s m then (match m.op, m.from' with
        | .rngblk _ _ _ dst, some t => askPort s t (fld dst 16 4) 4
        | _, _ => s) else
      let (s, v) := recordOp (s.modPlinth fun p => { p with recq := rest }) m.from' m.op
      match m.from' with
      | some t => s.modBk t fun b => { b with answer := some [v] }
      | none => s)

/-! ## Banker instructions, row 0xB (R354, R355) -/

/-- An operation sent to the record store; a writing one is a release and waits for the banker's earlier accesses, a reading one an acquire
when its reply comes (R342). -/
def recordSend (s : State) (t : Nat) (d : BDst) (release : Bool) (op : RecOp) : BRes :=
  if release && outstanding (s.tile t).mem .banker != [] then .keep s
  else .keep ((s.modPlinth fun p => { p with recq := p.recq ++ [{ op := op, from' := some t }] }).modBk t fun b =>
    { b with stall := if release then .reply d false 0 none else .record d, answer := none })

/-- An instruction that names a request by a reference (R342, R354). -/
def runRef (f : BForm) (s : State) (ok : Nat → Bool) (release : Bool) (op : Nat → Nat → RecOp) : Host.Outcome State Fault Refusal :=
  runAccess f s fun s t a b =>
    if a.toNat / 2 ^ 24 ≠ 0 ∨ !ok b.toNat then .nat s 0x01 1 else recordSend s t f.dst release (op a.toNat b.toNat)

/-- `rqrd`. -/
def execRqrd (f : BForm) (s : State) : Host.Outcome State Fault Refusal :=
  runRef f s (fun b => b / 2 ^ 8 == 0) false fun a b => .read a b
/-- `rqwr`. -/
def execRqwr (f : BForm) (s : State) : Host.Outcome State Fault Refusal :=
  runRef f s (fun b => fld b 8 24 == 0) true fun a b => .write a (fld b 0 8) (fld b 32 32)
/-- `rqfault`. -/
def execRqfault (f : BForm) (s : State) : Host.Outcome State Fault Refusal :=
  runRef f s (fun b => decide (1 ≤ b) && decide (b ≤ 31)) true fun a b => .fault a b
/-- `rqstate` operation 0; an operation of 3 or more gives BAD_ARG. -/
def execRqstateRead (f : BForm) (s : State) : Host.Outcome State Fault Refusal :=
  runRef f s (fun b => decide (b < 3)) false fun a _ => .state a
/-- `rqstate` operation 1. -/
def execRqstateCancel (f : BForm) (s : State) : Host.Outcome State Fault Refusal :=
  runRef f s (fun b => decide (b < 3)) true fun a _ => .cancel a
/-- `rqstate` operation 2. -/
def execRqstateFaults (f : BForm) (s : State) : Host.Outcome State Fault Refusal :=
  runRef f s (fun b => decide (b < 3)) false fun a _ => .faults a
/-- `rqspill`. -/
def execRqspill (f : BForm) (s : State) : Host.Outcome State Fault Refusal := runRef f s (fun _ => true) true fun a _ => .spill a
/-- `rqrecall`. -/
def execRqrecall (f : BForm) (s : State) : Host.Outcome State Fault Refusal := runRef f s (fun _ => true) true fun a _ => .recall a

/-- Package-scope acquire loads of some lines one after another, as `acquireRead` makes each; or the fault of one, and its address; or 0
where one must wait. -/
def acquireLines (t : Nat) : Nat → State → Nat → Except (State × Nat × Nat) (State × List Byte)
  | 0, s, _ => .ok (s, [])
  | k + 1, s, va => match acquireRead s t va 128 with
    | .error (s, c) => .error (s, c, va)
    | .ok (s, b) => match acquireLines t k s (va + 128) with
      | .ok (s, bs) => .ok (s, b ++ bs)
      | r => r

/-- `rqadmit`: the image is read at issue. -/
def execRqadmit (f : BForm) (s : State) : Host.Outcome State Fault Refusal :=
  runAccess f s fun s t a b =>
    let lines := 8 + a.toNat % 128 / 64
    let va := a.toNat / 128 * 128
    if a.toNat % 64 ≠ 0 ∨ b.toNat / 2 ^ 13 ≠ 0 then .nat s 0x01 1
    else if outstanding (s.tile t).mem .banker != [] then .keep s
    else if !areaFree s t 0 va (128 * lines) then .keep (askArea s t 0 va (128 * lines))
    else match acquireLines t lines s va with
      | .error (_, 0, va) => .keep (askArea s t 0 va 128)
      | .error (s, c, va) => .faultWith s { cause := c, info := BitVec.ofNat 64 (max va a.toNat) }
      | .ok (s, b') =>
        recordSend (acquirePoint s t .banker) t f.dst true
          (.admitImg ((b'.drop (a.toNat % 128)).take 1024) (fld b.toNat 0 12) (bitOf b.toNat 12))

/-- Bytes of physical memory within a line, read by a banker's instruction at package scope, as an acquire or not; or a precise
fault. -/
def readManifest (s : State) (t pa n : Nat) (acq : Bool) (k : State → Nat → BRes) : BRes :=
  match homeFault s pa with
  | some c => .cause c (BitVec.ofNat 64 pa)
  | none =>
    if blockedBy s t .banker (s.tile t).mem.nextId [(pa, n)] (some .package) then .keep s
    else if s.ue then .faultWith (eccEvent s pa) { cause := 0x14, info := BitVec.ofNat 64 pa }
    else
      let (s, b) := perfLoadAs (eccNote s pa) t .package acq pa n false
      k (if acq then acquirePoint s t .banker else s) (leNat b)

/-- `mfcnt`: a cursor at entry 0 of a published pass. -/
def execMfcnt (f : BForm) (s : State) : Host.Outcome State Fault Refusal :=
  runAccess f s fun s t a _ =>
    let pass := s.bf.pass
    if a.toNat / 2 ^ 33 ≠ 0 then .nat s 0x01 1
    else
      let p := if bitOf a.toNat 32 then pass - 1 else fld a.toNat 0 32
      if pass ≤ p ∨ p + 128 < pass then .nat s 0x07 1
      else readManifest s t (s.bf.buffer p) 16 true fun s h =>
        .nat s (fld h 64 13 * 2 ^ 45 + p % 2 ^ 16 * 2 ^ 16 + fld h 32 6 * 2 ^ 8) 1

/-- `mfnext`. -/
def execMfnext (f : BForm) (s : State) : Host.Outcome State Fault Refusal :=
  runForm f s fun s _ a _ =>
    let i := fld a.toNat 32 13 + 1
    .nat s (if i < fld a.toNat 45 13 then setFld a.toNat 32 13 i else 0x06) 1

/-- A cursor that `mfget` takes: well formed, and within its pass (R355). -/
def cursorOk (a : Nat) : Bool :=
  a / 2 ^ 58 == 0 && fld a 14 2 == 0 && fld a 0 8 == 0 && decide (fld a 32 13 < fld a 45 13)

/-- `mfget`. -/
def execMfget (f : BForm) (s : State) : Host.Outcome State Fault Refusal :=
  runAccess f s fun s t a b =>
    let k := b.toNat
    let buf := s.bf.buffer (fld a.toNat 16 16)
    if !cursorOk a.toNat || decide (2 ^ 16 ≤ k) then .cause 0x0A a
    else readManifest s t buf 8 false fun s h =>
      if fld h 0 16 ≠ fld a.toNat 16 16 then .cause 0x0A a
      else readManifest s t (buf + 0x100 + 16 * fld a.toNat 32 13) 16 false fun s e =>
        if k < 2 then .nat s (fld e (64 * k) 64) 1
        else if fld e 104 15 ≤ k - 2 then .nat s (2 ^ 64 - 1) 1
        else readManifest s t (buf + 0x10100 + 4 * (fld e 32 32 + (k - 2))) 4 false fun s y => .nat s y 1

/-! ## Banker instructions, row 0xC (spec/16_sampling.md R367 to R371) -/

/-- A verdict block (R370). -/
structure Verdict where
  slot : Nat
  inc : Nat
  kind : Nat
  first : Nat
  n : Nat
  nacc : Nat
  t : List Nat
  y : List Nat
  mt : Nat
  off : Nat

/-- The verdict block at a local address, read through the shared port: a fault, BAD_ARG, or what is done with it. The four double words
at its head are checked before its length is known. -/
def readVerdict (s : State) (t : Nat) (a : Word) (go : State → Verdict → BRes) : BRes :=
  match localCheck s t a.toNat 32 8 with
  | .error c => .cause c a
  | .ok (mt, off) => bankRead s t a mt off 32 1 fun s bytes =>
    let l := wordsOf 4 bytes
    let d0 := l.getD 0 0
    let d1 := l.getD 1 0
    let d2 := l.getD 2 0
    let kind := fld d0 24 2
    let n := fld d1 40 15
    if fld d0 26 6 ≠ 0 ∨ d1 / 2 ^ 55 ≠ 0 ∨ d2 / 2 ^ 16 ≠ 0 ∨ l.getD 3 0 ≠ 0 ∨ kind = 3 ∨ (kind = 0 ∧ n = 0) ∨
        (kind = 1 ∧ n ≠ 1) ∨ (kind = 2 ∧ (n < 2 ∨ 17 < n)) ∨ 65536 < 32 + 8 * n then .nat s 0x01 1
    else match localCheck s t a.toNat (32 + 8 * n) 8 with
      | .error c => .cause c a
      | .ok _ =>
        if localBlocked s t mt off (32 + 8 * n) true then .keep s
        else
          let word (o : Nat) : Nat := leNat (readMt s t mt (off + o) 4)
          go (usePort s t mt 0 ((32 + 8 * n + 63) / 64))
            { slot := fld d0 0 12, inc := fld d0 12 12, kind := kind, first := fld d1 0 40, n := n, nacc := d2,
              t := (List.range n).map fun i => word (0x20 + 4 * i),
              y := (List.range n).map fun i => word (0x20 + 4 * n + 4 * i), mt := mt, off := off }

/-- Drafts accepted: the longest prefix on which they agree with the samples (R370). -/
def agree : List Nat → List Nat → Nat
  | a :: as, b :: bs => if a = b then agree as bs + 1 else 0
  | _, _ => 0

/-- NACC of a verdict (R370). -/
def Verdict.accept (v : Verdict) : Nat := if v.kind = 0 then 1 else agree (v.t.drop 1) v.y + 1

/-- `sacpt`. -/
def execSacpt (f : BForm) (s : State) : Host.Outcome State Fault Refusal :=
  runAccess f s fun s t a _ => readVerdict s t a fun s v =>
    let n := v.accept
    if localBlocked s t v.mt (v.off + 16) 8 false then .keep s
    else .nat (holdIssue (writeMt s t v.mt (v.off + 16) (leBytes 8 n) none) t (2 + (v.n + 1) / 2)) (n * 2 ^ 8) (2 + (v.n + 1) / 2)

/-- The walls of the sampling set, ascending. -/
def samplingWalls (s : State) : List Nat := (List.range 4).filter (bitOf s.plinth.sampcfg.toNat)

/-- The tile lies on the keystone wall of a slot, in the keystone package (R367). -/
def isKeystone (s : State) (t k : Nat) : Bool :=
  let c := s.plinth.sampcfg.toNat
  let ws := samplingWalls s
  ws[k % ws.length]? == some (s.wallOf t) && (fld c 10 8 + k % (max 1 (fld c 18 9))) % 256 == s.mgmt.arcNum

/-- `scommit`: the block and the keystone are tested at the issuing tile (R371). -/
def execScommit (f : BForm) (s : State) : Host.Outcome State Fault Refusal :=
  runAccess f s fun s t a _ => readVerdict s t a fun s v =>
    if !isKeystone s t v.slot then .nat s 0x04 1
    else recordSend s t f.dst true (.commit v.slot v.inc v.kind v.first v.n v.nacc v.y)

/-- `rngblk` (R369). -/
def execRngblk (f : BForm) (s : State) : Host.Outcome State Fault Refusal :=
  runAccess f s fun s t a b =>
    if a.toNat / 2 ^ 24 ≠ 0 ∨ b.toNat / 2 ^ 62 ≠ 0 then .nat s 0x01 1
    else match localCheck s t (fld b.toNat 0 20) 64 64 with
      | .error c => .cause c (BitVec.ofNat 64 (fld b.toNat 0 20))
      | .ok _ => recordSend s t f.dst true (.rngblk a.toNat (fld b.toNat 20 41) (bitOf b.toNat 61) (fld b.toNat 0 20))

end Sys2Proof.Machine
end

