-- ==== Sys2Proof/Machine/Text.lean ====
section
/-!
DEFINITION. Text engines (spec/17_text.md): vocabulary images (R376, R377), frames (R373 to R375), the Quarry (R378 to R381),
the Setter (R382 to R386), the chain-3 commands `qtok` and `sdet` (R387), and the banker's row 0xD (R388, R389).
-/
namespace Sys2Proof.Machine

/-! ## Vocabulary images (R376, R377) -/

/-- A little-endian number in an image. -/
def vocNat (b : List Byte) (off n : Nat) : Nat := leNat ((b.drop off).take n)

/-- NTOK. -/
def Vocab.ntok (v : Vocab) : Nat := vocNat v.bytes 0x10 4
/-- NMERGE. -/
def Vocab.nmerge (v : Vocab) : Nat := vocNat v.bytes 0x14 4
/-- POOLLEN. -/
def Vocab.poolLen (v : Vocab) : Nat := vocNat v.bytes 0xC 4
/-- Offset of the merge table. -/
def Vocab.mergeOff (v : Vocab) : Nat := 0x480 + 8 * v.ntok
/-- Offset of the byte pool. -/
def Vocab.poolOff (v : Vocab) : Nat := v.mergeOff + 8 * v.nmerge
/-- The byte map's entry for a byte. -/
def Vocab.byteTok (v : Vocab) (b : Byte) : Nat := vocNat v.bytes (0x80 + 4 * b.toNat) 4
/-- Entry `i` of the token table. -/
def Vocab.tokEnt (v : Vocab) (i : Nat) : Nat := vocNat v.bytes (0x480 + 8 * i) 8
/-- Entry `i` of the merge table. -/
def Vocab.mergeEnt (v : Vocab) (i : Nat) : Nat := vocNat v.bytes (v.mergeOff + 8 * i) 8
/-- The bytes of a token. -/
def Vocab.tokBytes (v : Vocab) (i : Nat) : List Byte :=
  let e := v.tokEnt i
  (v.bytes.drop (v.poolOff + fld e 0 32)).take (fld e 32 8)

/-- LEN as the counts of an image give it. -/
def vocLen (ntok nmerge pool : Nat) : Nat := 0x480 + 8 * ntok + 8 * nmerge + c8 pool

/-- The header of an image breaks R376. -/
def vocHeadBad (b : List Byte) : Bool :=
  vocNat b 0 4 != 0x5E7D0CAB || vocNat b 4 1 != 1 || vocNat b 6 2 != 0 || vocNat b 0x18 8 != 0 || vocNat b 0x50 0x30 != 0 ||
    vocNat b 0x10 4 == 0 || decide (262144 < vocNat b 0x10 4) || decide (1048576 < vocNat b 0x14 4) ||
    vocNat b 8 4 != vocLen (vocNat b 0x10 4) (vocNat b 0x14 4) (vocNat b 0xC 4)

/-- The status of an image whose header is well formed (R377). -/
def vocCheck (v : Vocab) : Nat :=
  let ts := List.range v.ntok
  let ms := (List.range v.nmerge).map v.mergeEnt
  let left (m : Nat) : Nat := fld m 0 18
  let right (m : Nat) : Nat := fld m 18 18
  let res (m : Nat) : Nat := fld m 36 18
  if ts.any (fun i => fld (v.tokEnt i) 40 24 != 0 || fld (v.tokEnt i) 32 8 == 0) || ms.any (fun m => fld m 54 10 != 0) ||
      (v.bytes.drop (v.poolOff + v.poolLen)).any (· != 0) then 0x02
  else if (List.range 256).any (fun b => let t := v.byteTok (BitVec.ofNat 8 b); t != 0xFFFFFFFF && decide (v.ntok ≤ t)) ||
      ts.any (fun i => decide (v.poolLen < fld (v.tokEnt i) 0 32 + fld (v.tokEnt i) 32 8)) ||
      ms.any (fun m => decide (v.ntok ≤ left m) || decide (v.ntok ≤ right m) || decide (v.ntok ≤ res m) ||
        v.tokBytes (res m) != v.tokBytes (left m) ++ v.tokBytes (right m)) ||
      !decide ((ms.map fun m => fld m 0 36).Nodup) then 0x03
  else if sha384 (v.bytes.drop 0x80) ≠ (v.bytes.drop 0x20).take 48 then 0x04
  else 0

/-- A resident vocabulary. -/
def State.vocab? (s : State) (vid : Nat) : Option Vocab := s.plinth.vocabs.find? (·.vid == vid)

/-! ## Merging (R380) -/

/-- The rank and the result of the entry for a pair. -/
def pairRank (ms : List Nat) (a b : Nat) : Option (Nat × Nat) :=
  (ms.findIdx? fun m => fld m 0 18 == a && fld m 18 18 == b).map fun r => (r, fld (ms.getD r 0) 36 18)

/-- The lowest-ranked pair of a sequence, leftmost on a tie: rank, index and result. -/
def bestPair (ms : List Nat) : Nat → List Nat → Option (Nat × Nat × Nat)
  | i, a :: b :: l =>
    let here := (pairRank ms a b).map fun r => (r.1, i, r.2)
    match here, bestPair ms (i + 1) (b :: l) with
    | none, x => x
    | some r, none => some r
    | some r, some x => if x.1 < r.1 then some x else some r
  | _, _ => none

/-- Merges until no pair has a rank; each one shortens the sequence. -/
def mergeAll (ms : List Nat) : Nat → List Nat → List Nat
  | 0, l => l
  | n + 1, l => match bestPair ms 0 l with
    | none => l
    | some (_, i, r) => mergeAll ms n (l.take i ++ r :: l.drop (i + 2))

/-- The token sequence of a body, none where a byte has no token. -/
def tokenise (v : Vocab) (body : List Byte) : Option (List Nat) :=
  let seq := body.map v.byteTok
  if seq.contains 0xFFFFFFFF then none else some (mergeAll ((List.range v.nmerge).map v.mergeEnt) seq.length seq)

/-! ## Frames (R373 to R375) -/

/-- A frame formed. -/
def frameBytes (kind rid : Nat) (tlv body : List Byte) : List Byte :=
  leBytes 4 0x5A1EC0D3 ++ leBytes 1 1 ++ leBytes 1 kind ++ leBytes 2 0 ++ leBytes 8 rid ++ leBytes 2 tlv.length ++ leBytes 2 0 ++
    leBytes 4 body.length ++ tlv ++ body

/-- KIND of a frame. -/
def frameKind (b : List Byte) : Nat := vocNat b 5 1
/-- RID of a frame; 0 when the header is short. -/
def frameRid (b : List Byte) : Nat := if b.length < 24 then 0 else vocNat b 8 8

/-- The final frame of a reply (R385). -/
def finalFrame (rid reason first ngen : Nat) : List Byte :=
  frameBytes 0x82 rid (leBytes 4 (0x0101 + 8 * 2 ^ 16) ++ leBytes 1 reason ++ leBytes 1 first ++ leBytes 2 0 ++ leBytes 4 ngen) []

/-- The error frame (R375). -/
def errorFrame (rid code : Nat) : List Byte := frameBytes 0x83 rid (leBytes 4 (0x0100 + 4 * 2 ^ 16) ++ leBytes 4 code) []

/-- The header or a length of a request or cancel frame is wrong (R375, code FRAME). -/
def frameBad (b : List Byte) : Bool :=
  let kind := frameKind b
  let flags := vocNat b 6 2
  let tl := vocNat b 16 2
  let bl := vocNat b 20 4
  decide (b.length < 24) || vocNat b 0 4 != 0x5A1EC0D3 || vocNat b 4 1 != 1 || (kind != 1 && kind != 2) || vocNat b 18 2 != 0 ||
    (if kind = 1 then decide (8 ≤ flags) else flags != 0 || tl != 0 || bl != 0) || tl % 4 != 0 || decide (4096 < tl) ||
    decide (4194304 < bl) || b.length != 24 + tl + bl

/-- The TLVs of a request frame: type and value; none where one overruns (R374). -/
def splitTlvs : Nat → List Byte → Option (List (Nat × List Byte))
  | _, [] => some []
  | 0, _ => none
  | n + 1, b =>
    let ty := vocNat b 0 2
    let vl := vocNat b 2 2
    let k := 4 + (vl + 3) / 4 * 4
    if b.length < 4 ∨ b.length < k then none
    else (splitTlvs n (b.drop k)).map ((ty, (b.drop 4).take vl) :: ·)

/-- The lengths a type may have, and how often it may stand in a frame. -/
def tlvRule (ty : Nat) : Option (Nat × Nat × Nat) :=
  match ty with
  | 1 => some (1, 1, 1)
  | 2 => some (4, 4, 1)
  | 3 => some (1, 1, 1)
  | 4 => some (8, 8, 1)
  | 5 => some (4, 4, 1)
  | 6 => some (4, 4, 1)
  | 7 => some (4, 4, 8)
  | 8 => some (1, 32, 4)
  | _ => none

/-- One TLV is wrong by itself. -/
def tlvBad (x : Nat × List Byte) : Bool :=
  match tlvRule x.1 with
  | none => !bitOf x.1 15
  | some (lo, hi, _) =>
    decide (x.2.length < lo) || decide (hi < x.2.length) || (x.1 == 3 && decide (64 < leNat x.2)) ||
      (x.1 == 6 && leNat x.2 == 0) || (x.1 == 7 && decide (2 ^ 18 ≤ leNat x.2))

/-- The values of a type, in frame order. -/
def tlvVals (l : List (Nat × List Byte)) (ty : Nat) : List (List Byte) := (l.filter (·.1 == ty)).map (·.2)

/-- The TLVs are wrong (R375, code TLV). -/
def tlvsBad (l : List (Nat × List Byte)) : Bool :=
  l.any tlvBad || (List.range 9).any fun ty => match tlvRule ty with
    | some (_, _, n) => decide (n < (tlvVals l ty).length)
    | none => false

/-- A value of a frame, or its default (R374). -/
def tlvNat (l : List (Nat × List Byte)) (ty dflt : Nat) : Nat :=
  match tlvVals l ty with
  | v :: _ => leNat v
  | [] => dflt

/-! ## Requests by (PORT, PEER, RID) (R375, R381) -/

/-- The image of a queued request. -/
def queuedReq (s : State) (port peer rid : Nat) : Option Nat :=
  s.bf.arrq.findIdx? fun img => vocNat img 0x180 8 == rid && vocNat img 0x188 8 == peer && vocNat img 0x190 1 % 4 == port

/-- The slot of a live request. -/
def liveReq (s : State) (port peer rid : Nat) : Option Nat :=
  recordSlots.find? fun k => rqState s k != 0 && rqState s k != 6 && bitOf (rqNat s k 0x190 8) 12 &&
    rqFld s k 0x190 0 2 == port && rqNat s k 0x188 8 == peer && rqNat s k 0x180 8 == rid

/-! ## The Quarry (R378 to R381) -/

/-- A Quarry. -/
def State.quarryOf (s : State) (e : Nat) : Quarry := Tab.get s.plinth.quarry e
/-- The state with a Quarry changed. -/
def State.modQuarry (s : State) (e : Nat) (f : Quarry → Quarry) : State :=
  s.modPlinth fun p => { p with quarry := Tab.modify p.quarry e f }

/-- The Quarry that serves a port. -/
def portQuarry (s : State) (port : Nat) : Option Nat :=
  (List.range 16).find? fun e => (s.quarryOf e).st == 1 && bitOf (s.quarryOf e).ports port

/-- A frame fails: the error frame leaves (R375). -/
def failFrame (s : State) (e port : Nat) (peer : Word) (b : List Byte) (code : Nat) : State :=
  (s.send (.frame port peer (errorFrame (frameRid b) code))).modQuarry e fun q =>
    { q with errors := (q.errors + 1) % 65536, lastErr := code }

/-- Address of prompt buffer `i` (R378). -/
def promptBuf (s : State) (i : Nat) : Nat :=
  let r := s.plinth.qrbuf.toNat
  fld r 16 40 * 2 ^ 16 + i * 2 ^ fld r 0 5

/-- The checks of a request frame after FRAME: a code, or its token sequence (R375). -/
def checkRequest (s : State) (port : Nat) (peer : Word) (b : List Byte) : Except Nat (List Nat) :=
  let tl := vocNat b 16 2
  match splitTlvs (tl / 4) ((b.drop 24).take tl) with
  | none => .error 0x02
  | some l =>
    if tlvsBad l then .error 0x02
    else match (tlvVals l 1).head?.bind fun v => s.vocab? (leNat v) with
      | none => .error 0x03
      | some v =>
        let body := b.drop (24 + tl)
        if body = [] then .error 0x04
        else match tokenise v body with
          | none => .error 0x05
          | some seq =>
            if 2 ^ fld s.plinth.qrbuf.toNat 0 5 / 4 < seq.length then .error 0x06
            else if (queuedReq s port peer.toNat (frameRid b)).isSome || (liveReq s port peer.toNat (frameRid b)).isSome then .error 0x08
            else .ok seq

/-- Bytes put into an image. -/
def imgPut (img : List Byte) (off : Nat) (new : List Byte) : List Byte := img.take off ++ new ++ img.drop (off + new.length)

/-- The staged image of a request (R379, step 4). -/
def stagedImage (e port : Nat) (peer : Word) (b : List Byte) (l : List (Nat × List Byte)) (pbuf plen : Nat) : List Byte :=
  let flags := vocNat b 6 2
  let toks := tlvVals l 7
  let strs := tlvVals l 8
  let lens := ((strs.zip (List.range 4)).map fun p => p.1.length * 2 ^ (8 + 6 * p.2)).sum
  let z := List.replicate 1024 (0 : Byte)
  let i := imgPut z 0 (leBytes 8 (tlvNat l 1 0 * 2 ^ 48 + fld flags 0 1 * 2 ^ 14 + fld flags 1 2 * 2 ^ 12))
  let i := imgPut i 0x10 (leBytes 8 pbuf ++ leBytes 8 plen ++ leBytes 8 (tlvNat l 6 256 * 2 ^ 32))
  let i := imgPut i 0x28 (leBytes 8 (tlvNat l 2 0x3F800000 + tlvNat l 3 0 * 2 ^ 32) ++ leBytes 8 (tlvNat l 4 0) ++ leBytes 8 (tlvNat l 5 0))
  let i := imgPut i 0x40 (toks.flatMap (·.take 4))
  let i := imgPut i 0x60 (leBytes 8 (toks.length + strs.length * 2 ^ 4 + lens))
  let i := imgPut i 0x80 (strs.flatMap fun x => x ++ List.replicate (32 - x.length) 0)
  imgPut i 0x180 (leBytes 8 (frameRid b) ++ leBytes 8 peer.toNat ++ leBytes 8 (port + e * 2 ^ 8 + 2 ^ 12))

/-- The frame a Quarry works on is over; a stopping Quarry becomes idle (R388). -/
def frameOver (s : State) (e : Nat) : State := s.modQuarry e fun q => { q with held := .none, st := if q.st = 2 then 0 else q.st }

/-- A staged image is posted to the arrival queue; the Quarry waits where that is full (R379, step 5). -/
def postImage (s : State) (e : Nat) (img : List Byte) : State :=
  if 4096 ≤ s.bf.arrq.length then s.modQuarry e fun q => { q with held := .post img }
  else
    let s := s.modBf fun f => { f with arrq := f.arrq ++ [img] }
    frameOver (s.modQuarry e fun q => { q with posted := (q.posted + 1) % 65536 }) e

/-- A request frame that passed its checks: it takes the lowest free prompt buffer, or waits for one, and its tokens are written there
(R379, steps 2 to 4). -/
def stageRequest (s : State) (e port : Nat) (peer : Word) (b : List Byte) (seq : List Nat) : State :=
  match (List.range 4096).find? (fun i => !s.plinth.bufs.contains i) with
  | none => s.modQuarry e fun q => { q with held := .buffer port peer b seq }
  | some i =>
    let a := promptBuf s i
    match vWrite s 0 a (seq.flatMap (leBytes 4)) with
    | (s, some _) => frameOver (failFrame s e port peer b 0x09) e
    | (s, none) =>
      let l := (splitTlvs (vocNat b 16 2 / 4) ((b.drop 24).take (vocNat b 16 2))).getD []
      postImage (s.modPlinth fun p => { p with bufs := p.bufs ++ [i] }) e (stagedImage e port peer b l a seq.length)

/-- A command of TYPE `ty` that the engine with number `e` serves is under way: frame work waits for its end (R387). -/
def textCmd (s : State) (e ty : Nat) : Bool :=
  (Tab.keys s.tiles).any fun t =>
    let x := s.chain t 3
    t % 16 == e && x.run == .started && fld x.record 0 8 == ty && x.pos != 0

/-- A held frame goes on where it waits. -/
def retryHeld (s : State) (e : Nat) : State :=
  if textCmd s e 0x30 then s
  else match (s.quarryOf e).held with
    | .none => s
    | .buffer port peer b seq => stageRequest s e port peer b seq
    | .post img => postImage s e img

/-- Every held frame tried again. -/
def retryFrames (s : State) : State := (Tab.keys s.plinth.quarry).foldl retryHeld s

/-- A frame meets the Quarry of its port, where one listens and is free; else it stays with the transport. -/
def serveFrame (s : State) (port : Fin 4) (body : State → Nat → State) : State :=
  match portQuarry s port.val with
  | none => s
  | some e => if (s.quarryOf e).held ≠ .none ∨ textCmd s e 0x30 then s else body s e

/-- A frame that is no cancel frame reaches a Quarry (R375, R379). -/
def execRequestFrame (port : Fin 4) (peer : Word) (bytes : List Byte) (s : State) : Host.Outcome State Fault Refusal :=
  .next (if 24 ≤ bytes.length ∧ frameKind bytes = 2 then s
    else serveFrame s port fun s e =>
      if frameBad bytes then failFrame s e port.val peer bytes 0x01
      else match checkRequest s port.val peer bytes with
        | .error c => failFrame s e port.val peer bytes c
        | .ok seq => stageRequest s e port.val peer bytes seq)

/-- A cancel frame reaches a Quarry (R381). -/
def execCancelFrame (port : Fin 4) (peer : Word) (bytes : List Byte) (s : State) : Host.Outcome State Fault Refusal :=
  .next (if bytes.length < 24 ∨ frameKind bytes ≠ 2 then s
    else serveFrame s port fun s e =>
      let rid := frameRid bytes
      if frameBad bytes then failFrame s e port.val peer bytes 0x01
      else match queuedReq s port.val peer.toNat rid with
        | some i =>
          let img := s.bf.arrq.getD i []
          let s := s.modBf fun f => { f with arrq := f.arrq.eraseIdx i }
          (returnBuf s (fld (vocNat img 0x10 8) 0 56)).send (.frame port.val peer (finalFrame rid 5 0 0))
        | none => match liveReq s port.val peer.toNat rid with
          | some k =>
            if rqActive s k then
              s.modPlinth fun p => { p with recq := p.recq ++ [{ op := .cancel (k + rqInc s k * 2 ^ 12) }] }
            else failFrame s e port.val peer bytes 0x07
          | none => failFrame s e port.val peer bytes 0x07)

/-! ## The Setter (R382 to R386) -/

/-- Continuation bytes a lead byte requires (R384). -/
def utf8Need (x : Byte) : Nat :=
  let n := x.toNat
  if 0xC2 ≤ n ∧ n ≤ 0xDF then 1 else if 0xE0 ≤ n ∧ n ≤ 0xEF then 2 else if 0xF0 ≤ n ∧ n ≤ 0xF4 then 3 else 0

/-- Some bytes, newest first, end in an incomplete sequence, after `n` continuation bytes. -/
def incompleteRev : Nat → List Byte → Bool
  | _, [] => false
  | n, x :: l => if 0x80 ≤ x.toNat ∧ x.toNat ≤ 0xBF then incompleteRev (n + 1) l else decide (n < utf8Need x)

/-- Bytes end in an incomplete UTF-8 sequence. -/
def incomplete (l : List Byte) : Bool := incompleteRev 0 l.reverse

/-- The longest prefix of at most `u` bytes that does not end in an incomplete sequence. -/
def wholeLen (tb : List Byte) : Nat → Nat
  | 0 => 0
  | u + 1 => if incomplete (tb.take (u + 1)) then wholeLen tb u else u + 1

/-- Length of the longest suffix that is a proper prefix of a stop string, up to `n`. -/
def heldLen (stops : List (List Byte)) (tb : List Byte) : Nat → Nat
  | 0 => 0
  | n + 1 => if stops.any (fun x => decide (n + 1 < x.length) && x.take (n + 1) == tb.drop (tb.length - (n + 1))) ∧ n + 1 ≤ tb.length
    then n + 1 else heldLen stops tb n

/-- What a Setter has formed: bytes held, bytes to send, and whether a stop string matched. -/
structure Detok where
  tb : List Byte
  out : List Byte
  hit : Bool

/-- One byte detokenised (R384). -/
def detokByte (stops : List (List Byte)) (x : Detok) (b : Byte) : Detok :=
  if x.hit then x
  else
    let tb := x.tb ++ [b]
    match stops.find? (fun y => y.isSuffixOf tb) with
    | some y => { tb := [], out := x.out ++ tb.take (tb.length - y.length), hit := true }
    | none =>
      let u := wholeLen tb (tb.length - heldLen stops tb 31)
      { x with tb := tb.drop u, out := x.out ++ tb.take u }

/-- Tokens detokenised: OUTR, the bytes, and the request fault met (R384). -/
def detokAll (v : Vocab) (stops : List (List Byte)) (stopt : List Nat) : Nat → List Nat → Detok → Nat × Detok × Option Nat
  | r, [], x => (r, x, none)
  | r, y :: l, x =>
    if x.hit then (r, x, none)
    else if v.ntok ≤ y then ((r + 1) % 2 ^ 32, x, some 6)
    else if stopt.contains y then detokAll v stops stopt ((r + 1) % 2 ^ 32) l x
    else detokAll v stops stopt ((r + 1) % 2 ^ 32) l ((v.tokBytes y).foldl (detokByte stops) x)

/-- Bytes cut into data frames of at most 4,096. -/
def cutBody : Nat → List Byte → List (List Byte)
  | 0, _ => []
  | n + 1, l => if l = [] then [] else l.take 4096 :: cutBody n (l.drop 4096)

/-- The bodies of the data frames of a close: held bytes join the last one (R385). -/
def joinLast : List (List Byte) → List Byte → List (List Byte)
  | [], [] => []
  | [], tb => [tb]
  | [x], tb => [x ++ tb]
  | x :: l, tb => x :: joinLast l tb

/-- The stop strings of a record. -/
def stopStrings (s : State) (k : Nat) : List (List Byte) :=
  (List.range (min 4 (rqFld s k 0x60 4 3))).map fun i => readBytes s.mem (recordAddr k (0x80 + 32 * i)) (rqFld s k 0x60 (8 + 6 * i) 6)

/-- A wake served: the record read, the frames formed, and the update, as one operation at the record store (R384 to R386). -/
def serveWake (s : State) (e k : Nat) : State :=
  if rqClosed s k then s
  else
    let outr := rqOutr s k
    let outw := rqOutw s k
    let held := readBytes s.mem (recordAddr k 0x1A0) (min 40 (rqFld s k 0x198 0 6))
    let toks := (List.range ((outw + 2 ^ 32 - outr) % 2 ^ 32)).map fun i => rqNat s k (0x210 + 4 * ((outr + i) % 64)) 4
    let stopt := (List.range (min 8 (rqFld s k 0x60 0 4))).map fun i => fld (rqNat s k (0x40 + 4 * i) 4) 0 18
    let x0 : Detok := { tb := held, out := [], hit := false }
    let (r, x, f) := match s.vocab? (rqFld s k 0 48 8) with
      | none => (outr, x0, some 8)
      | some v => detokAll v (stopStrings s k) stopt outr toks x0
    if !rqLive s (k + rqInc s k * 2 ^ 12) then bumpStale s k
    else
      let s := match f with
        | some c => faultRequest s k c
        | none => s
      let s := rqSet s k 0x200 32 32 (if x.hit then rqOutw s k else r)
      let s := if x.hit && rqActive s k then drainReq (rqSet s k 0 40 1 0) k 2 else s
      let bodies := cutBody (x.out.length / 4096 + 1) x.out
      let close := (rqState s k == 4 || rqState s k == 5) && rqOutr s k == rqOutw s k
      let tb := if close then [] else x.tb
      let bodies := if close then joinLast bodies x.tb else bodies
      let s := { s with mem := writeBytes s.mem (recordAddr k 0x1A0) (padTo 40 tb) }
      let s := rqSet s k 0x198 0 6 tb.length
      let s := if close then rqSet s k 0 41 1 1 else s
      let rid := rqNat s k 0x180 8
      let frames := bodies.map (frameBytes 0x81 rid []) ++
        (if close then [finalFrame rid (rqFld s k 0 36 4) (rqFld s k 0x150 32 5) (rqFld s k 0x20 0 32)] else [])
      let peer := BitVec.ofNat 64 (rqNat s k 0x188 8)
      let port := rqFld s k 0x190 0 2
      let s := frames.foldl (fun s b => s.send (.frame port peer b)) s
      s.modPlinth fun p => { p with setter := Tab.modify p.setter e fun y => { y with sent := (y.sent + frames.length) % 65536 } }

/-- A running Setter serves its oldest wake (R383). -/
def execSetterWakeServe (eng : Fin 16) (s : State) : Host.Outcome State Fault Refusal :=
  let x := Tab.get s.plinth.setter eng.val
  .next (match x.wakes with
    | [] => s
    | k :: l =>
      if !x.running || textCmd s eng.val 0x40 then s
      else serveWake (s.modPlinth fun p => { p with setter := Tab.set p.setter eng.val { x with wakes := l } }) eng.val k)

/-! ## Chain-3 commands (R387) -/

/-- A text command has made its other accesses: its status and count are left for RES. -/
def textDone (s : State) (t c status count : Nat) : State :=
  s.modChain t c fun x => { x with pos := 1, shape := [status, count] }

/-- RES written through the shared port, after which the command's accesses are over. -/
def writeRes (s : State) (t c res : Nat) : State :=
  let l := (s.chain t c).shape
  match localCheck s t res 8 8 with
  | .error e => cmdFault s t c e
  | .ok (mt, off) => withPort s t mt (chainPort c) id fun s =>
    issuedAll (writeMt s t mt off (leBytes 8 (l.getD 0 0 + l.getD 1 0 * 2 ^ 32)) none) t c

/-- A text command's engine serves it now: it is at no frame and at no other command (R387). -/
def textServes (s : State) (t e ty : Nat) : Bool :=
  (s.chain t 3).pos != 0 || (!textCmd s e ty && (ty != 0x30 || (s.quarryOf e).held == .none))

/-- An area read by an engine in one piece; none is read where it is empty. -/
def readText (s : State) (t c src al n : Nat) : Except (State × Nat) (State × List Byte) :=
  if n = 0 then .ok (s, [])
  else match engineCheck src al with
    | some c => .error (s, c)
    | none => areaRead s t (1 + c) src n

/-- A text command writes its output, and leaves its status and count. -/
def textOut (s : State) (t c status dst al : Nat) (bytes : List Byte) (count : Nat) : State :=
  if bytes = [] then textDone s t c status 0
  else match engineWrite s t c .here dst al bytes with
    | .error (s, e) => cmdStop s t c e
    | .ok s => textDone s t c status count

/-- `qtok`. -/
def execCQtok (h : CHead) (src dst : BitVec 56) (vid : BitVec 8) (res : BitVec 20) (len : BitVec 24) (maxtok : BitVec 20)
    (s : State) : Host.Outcome State Fault Refusal :=
  runCmd h (fun s t c =>
    if !textServes s t (t % 16) 0x30 then s
    else if (s.chain t c).pos ≠ 0 then writeRes s t c res.toNat
    else match s.vocab? vid.toNat with
      | none => textDone s t c 1 0
      | some v => match readText s t c src.toNat 1 len.toNat with
        | .error (s, e) => cmdStop s t c e
        | .ok (s, body) => match tokenise v body with
          | none => textDone s t c 2 0
          | some seq =>
            let out := seq.take maxtok.toNat
            textOut s t c (if maxtok.toNat < seq.length then 3 else 0) dst.toNat 4 (out.flatMap (leBytes 4)) out.length) s

/-- The bytes of tokens up to a limit, and the status that ends them (R387). -/
def detokRun (v : Vocab) (dmax : Nat) : List Nat → List Byte → Nat × List Byte
  | [], out => (0, out)
  | y :: l, out =>
    if v.ntok ≤ y then (4, out)
    else
      let b := v.tokBytes y
      if dmax < out.length + b.length then (5, out) else detokRun v dmax l (out ++ b)

/-- `sdet`. -/
def execCSdet (h : CHead) (src dst : BitVec 56) (vid : BitVec 8) (res : BitVec 20) (count : BitVec 20) (dmax : BitVec 24)
    (s : State) : Host.Outcome State Fault Refusal :=
  runCmd h (fun s t c =>
    if !textServes s t (t % 16) 0x40 then s
    else if (s.chain t c).pos ≠ 0 then writeRes s t c res.toNat
    else match s.vocab? vid.toNat with
      | none => textDone s t c 1 0
      | some v => match readText s t c src.toNat 4 (4 * count.toNat) with
        | .error (s, e) => cmdStop s t c e
        | .ok (s, b) =>
          let (st, out) := detokRun v dmax.toNat (wordsOf32 b count.toNat) []
          textOut s t c st dst.toNat 1 out out.length) s

/-! ## Banker instructions, row 0xD (R388, R389) -/

/-- An image loaded: its status, and the vocabulary (R377, R389). -/
def loadVocab (s : State) (t a : Nat) : State × Nat × Option Vocab :=
  if a % 8 ≠ 0 then (s, 0x08, none)
  else match elemRead s t a 0x80 8 with
    | .error (s, _) => (s, 0x08, none)
    | .ok (s, head) =>
      if vocHeadBad head then (s, 0x02, none)
      else match elemRead s t a (vocNat head 8 4) 8 with
        | .error (s, _) => (s, 0x08, none)
        | .ok (s, bytes) =>
          let v : Vocab := { vid := vocNat bytes 5 1, bytes := bytes }
          (s, vocCheck v, some v)

/-- Bytes of vocabulary memory in use. -/
def vocabBytes (s : State) : Nat := (s.plinth.vocabs.map fun v => v.bytes.length).sum

/-- `vocld` operation 0. -/
def execVocldLoad (f : BForm) (s : State) : Host.Outcome State Fault Refusal :=
  runAccess f s fun s t a b =>
    if fld b.toNat 0 8 ≠ 0 ∨ b.toNat / 2 ^ 16 ≠ 0 then .nat s 0x01 2
    else if outstanding (s.tile t).mem .banker != [] then .keep s
    else if !areaFree s t 0 a.toNat 0x80 then .keep (askArea s t 0 a.toNat 0x80)
    else match loadVocab s t a.toNat with
      | (s, st, some v) =>
        if st ≠ 0 then .nat s st 2
        else if (s.vocab? v.vid).isSome then .nat s 0x05 2
        else if s.plinth.vocabs.length = 16 ∨ 2 ^ 27 < vocabBytes s + v.bytes.length then .nat s 0x06 2
        else .nat (s.modPlinth fun p => { p with vocabs := p.vocabs ++ [v] }) (v.vid * 2 ^ 8 + v.ntok * 2 ^ 16) 2
      | (s, st, none) => .nat s st 2

/-- A queued or live request, or a running command, names a vocabulary (R389). -/
def vocabUsed (s : State) (vid : Nat) : Bool :=
  s.bf.arrq.any (fun img => vocNat img 6 1 == vid) ||
    recordSlots.any (fun k => rqState s k != 0 && rqState s k != 6 && rqFld s k 0 48 8 == vid) ||
    (Tab.keys s.tiles).any fun t =>
      let x := s.chain t 3
      x.run != .idle && (fld x.record 0 8 == 0x30 || fld x.record 0 8 == 0x40) && fld x.record 120 8 == vid

/-- `vocld` operation 1. -/
def execVocldUnload (f : BForm) (s : State) : Host.Outcome State Fault Refusal :=
  runForm f s fun s _ _ b =>
    let vid := fld b.toNat 8 8
    if fld b.toNat 0 8 ≠ 1 ∨ b.toNat / 2 ^ 16 ≠ 0 then .nat s 0x01 2
    else if (s.vocab? vid).isNone then .nat s 0x07 2
    else if vocabUsed s vid then .nat s 0x05 2
    else .nat (s.modPlinth fun p => { p with vocabs := p.vocabs.filter fun v => v.vid != vid }) 0 2

/-- `qrgo`. -/
def execQrgo (f : BForm) (s : State) : Host.Outcome State Fault Refusal :=
  runForm f s fun s _ a _ =>
    let e := fld a.toNat 0 4
    let ports := fld a.toNat 4 4
    if a.toNat / 2 ^ 8 ≠ 0 then .nat s 0x01 2
    else if (s.quarryOf e).st ≠ 0 then .nat s 0x09 2
    else if ports = 0 ∨ !bitOf s.plinth.qrbuf.toNat 63 then .nat s 0x01 2
    else if (List.range 16).any (fun i => (s.quarryOf i).st != 0 && (s.quarryOf i).ports &&& ports != 0) then .nat s 0x0A 2
    else .nat (s.modQuarry e fun q => { q with st := 1, ports := ports }) 0 2

/-- An instruction on an engine, whose number is A. -/
def runTextEngine (f : BForm) (s : State) (body : State → Nat → State × Nat) : Host.Outcome State Fault Refusal :=
  runForm f s fun s _ a _ =>
    if a.toNat / 16 ≠ 0 then .nat s 0x01 2
    else
      let (s, v) := body s a.toNat
      .nat s v 2

/-- `qrstat`. -/
def execQrstat (f : BForm) (s : State) : Host.Outcome State Fault Refusal :=
  runTextEngine f s fun s e =>
    let q := s.quarryOf e
    (s, q.st * 2 ^ 8 + q.ports * 2 ^ 10 + q.posted * 2 ^ 16 + q.errors * 2 ^ 32 + q.lastErr * 2 ^ 48)

/-- `qrstop`: a Quarry with no frame in hand is idle at once. -/
def execQrstop (f : BForm) (s : State) : Host.Outcome State Fault Refusal :=
  runTextEngine f s fun s e => (s.modQuarry e fun q => if q.st = 0 then q else { q with st := if q.held = .none then 0 else 2 }, 0)

/-- `stgo`. -/
def execStgo (f : BForm) (s : State) : Host.Outcome State Fault Refusal :=
  runTextEngine f s fun s e =>
    if (Tab.get s.plinth.setter e).running then (s, 0x09)
    else (s.modPlinth fun p => { p with setter := Tab.modify p.setter e fun x => { x with running := true } }, 0)

/-- `ststat`. -/
def execStstat (f : BForm) (s : State) : Host.Outcome State Fault Refusal :=
  runTextEngine f s fun s e =>
    let x := Tab.get s.plinth.setter e
    (s, b2n x.running * 2 ^ 8 + x.sent * 2 ^ 16 + x.wakes.length % 65536 * 2 ^ 32)

/-- `stclose`. -/
def execStclose (f : BForm) (s : State) : Host.Outcome State Fault Refusal := runRef f s (fun _ => true) true fun a _ => .close a

end Sys2Proof.Machine
end

