-- ==== Sys2Proof/Machine/Tick.lean ====
section
/-!
DEFINITION. The passing of a fabric cycle: what takes place at its end and at the start of the next one, and whether the
fabric clock runs (spec/18_system.md R415, spec/19_boundary.md R427).
-/
namespace Sys2Proof.Machine

/-- The fabric clock runs: neither FREEZE nor power state 3 stops it (spec/19_boundary.md R427). -/
def clockRuns (s : State) : Bool := !s.plinth.frozen && s.mgmt.pwrCur != 3

/-- The trace entries of a cycle written at its end, and TRIG posted (spec/18_system.md R414). -/
def flushTile (s : State) (t : Nat) : State :=
  let x := (s.tile t).sys
  if x.traceBuf = [] ∧ x.post ≠ 1 then s
  else
    let (y, fires) := flushTrace x
    let s := s.modSys t fun _ => y
    let s := (fires.filter (·.1)).foldl (fun s f =>
      postTrap s t { trap := { cause := 0x22, posted := true, info := BitVec.ofNat 64 f.2.1, info2 := BitVec.ofNat 64 f.2.2 }, rank := 3 }) s
    if y.post == 1 && !y.frozen then schedule s (s.cyc + 1) (.traceFreeze t) else s

/-- What the lanes of a tile do at the end of a cycle: results are written, requests are accepted (spec/05_float.md R143). -/
def serveLanes (s : State) (t : Nat) : State :=
  if (s.tile t).lanes = [] then s
  else
    let s := [0, 1, 2, 3].foldl (fun s l => writeBack s t l) s
    serveLane (serveLane (serveLane (serveLane s t 0) t 1) t 2) t 3

/-- Old bytes of the memory tiles, and the floors of loads, are forgotten when their cycle is over; in unordered mode when no delay reaches them any more
(spec/10_ordering.md R256). -/
def pruneHist (s : State) (t : Nat) : State :=
  let keep (l : List (Issuer × Nat)) : List (Issuer × Nat) := if s.plinth.unord then l.filter fun f => decide (s.cyc ≤ f.2 + 64) else []
  let s := if (s.tile t).mem.floors = [] ∧ (s.tile t).mem.seen = [] then s
    else s.modMem t fun m => { m with floors := keep m.floors, seen := keep m.seen }
  if (s.tile t).hist = [] then s
  else s.modTile t fun x => { x with hist := if s.plinth.unord then x.hist.filter fun h => decide (s.cyc ≤ h.1 + 64) else [] }

/-- The tile has work that a wheel is computed for. -/
def usesWheel (s : State) (t : Nat) : Bool := s.copies.any (fun c => c.tile == t) || (s.tile t).wheel != []

/-- The tiles with something to do. -/
def listedTiles (s : State) : List Nat :=
  s.copies.foldl (fun l c => if l.contains c.tile then l else l ++ [c.tile]) (Tab.keys s.tiles)

/-- What happens at every 256th cycle: each tile's wheel is recomputed (spec/08_launch.md R198), and a requested power state takes
effect (spec/19_boundary.md R427). -/
def atEpoch (s : State) : State :=
  if s.cyc % 256 ≠ 0 then s
  else
    let s := ((listedTiles s).filter (usesWheel s)).foldl (fun s t => schedule s s.cyc (.wheelEpoch t)) s
    if s.mgmt.pwrCur ≠ s.mgmt.pwrReq ∧ s.mgmt.pwrCur ≠ 3 then schedule s s.cyc .powerStateChange else s

/-- A cycle ends: its slot writes land, faulted copies roll back, its trace entries are written, its exponent requests are accepted,
occupancy is sampled. -/
def endCycle (s : State) : State :=
  let s := netServe (landStores s)
  let s := s.copies.foldl settleFault s
  let ts := listedTiles s
  let s := ts.foldl flushTile s
  let s := ts.foldl serveLanes s
  if s.cyc % 16 = 15 then (ts.filter (usesWheel s)).foldl sampleOcc s else s

/-- FIFO memory tiles feed the channels behind them (spec/07_control.md R170). -/
def feedAll (s : State) : State :=
  s.copies.foldl (fun s c =>
    let (c', n) := c.feed s.draws
    if c.fifos.all (·.2 == []) then s else { s.modCopy c.ref (fun _ => c') with draws := n }) s

/-- The next cycle begins: memory tiles whose port queues are empty are released, CXL ports close that waited to, results land, tokens and frames that were held try again, and FIFO memory tiles feed their channels. -/
def beginCycle (s : State) : State :=
  let s := { s with cyc := s.cyc + 1 }
  let s := (Tab.keys s.tiles).foldl (fun s t => endClosing (pruneHist s t) t) s
  let s := if s.was = [] then s else { s with was := if s.plinth.unord then s.was.filter fun h => decide (s.cyc ≤ h.1 + 64) else [] }
  atEpoch (retryFrames (feedAll (replayParked (netShift (crossTick (landResults (closePorts s)))))))

/-- One fabric cycle passes. -/
def tickOnce (s : State) : State := beginCycle (endCycle s)

end Sys2Proof.Machine
end

