-- ==== Sys2Proof/Machine/SysRegs.lean ====
section
/-!
DEFINITION. The system register space (spec/01_machine.md R44, spec/18_system.md R417): which offsets are registers, what a
read of each returns and clears, and what a write of each does (spec/00_scope.md R7, R8, and the rule of each register).
-/
namespace Sys2Proof.Machine

/-! ## The space (R417, spec/19_boundary.md R422) -/

/-- A register: a block and its offset in it. -/
inductive SysReg where
  | tile (n off : Nat)
  | wall (w off : Nat)
  | plinth (off : Nat)
  | mgmt (off : Nat)
deriving DecidableEq, Repr, Inhabited

/-- Offsets assigned in a TILE block. -/
def tileOffOk (off : Nat) : Bool := off % 8 == 0 && decide (off ≤ 0x138) && off != 0xF8

/-- Offsets assigned in the PLINTH block. -/
def plinthOffOk (off : Nat) : Bool :=
  off % 8 == 0 && (decide (off ≤ 0x40) || (decide (0x80 ≤ off) && decide (off ≤ 0x128)) || (decide (0x140 ≤ off) && decide (off ≤ 0x178)) ||
    (decide (0x800 ≤ off) && decide (off ≤ 0xFF8)) || off == 0x10000 || off == 0x10008)

/-- Offsets assigned in the management block. -/
def mgmtOffOk (off : Nat) : Bool :=
  off % 8 == 0 && (decide (off ≤ 0x30) || (decide (0x40 ≤ off) && decide (off ≤ 0x68)) || (decide (0x80 ≤ off) && decide (off ≤ 0x98)) ||
    (decide (0x100 ≤ off) && decide (off ≤ 0x2F8)))

/-- The register at an offset of the space, none where it is unassigned or belongs to an unassigned tile (R417, R418). -/
def sysRegAt (s : State) (off : Nat) : Option SysReg :=
  if off < 0x400000 then
    (if s.tileOk (off / 0x1000) && tileOffOk (off % 0x1000) then some (.tile (off / 0x1000) (off % 0x1000)) else none)
  else if off < 0x440000 then
    (if off % 0x10000 = 0 then some (.wall ((off - 0x400000) / 0x10000) 0) else none)
  else if off < 0x500000 then none
  else if off < 0x520000 then (if plinthOffOk (off - 0x500000) then some (.plinth (off - 0x500000)) else none)
  else if off < 0x600000 then (if mgmtOffOk (off - 0x520000) then some (.mgmt (off - 0x520000)) else none)
  else none

/-- An offset as an instruction of a tile names it, the aliases of its own blocks resolved (R417). -/
def ownOffset (s : State) (t off : Nat) : Nat :=
  if 0xF00000 ≤ off ∧ off < 0xF01000 then t * 0x1000 + (off - 0xF00000)
  else if 0xF40000 ≤ off ∧ off < 0xF50000 then 0x400000 + s.wallOf t * 0x10000 + (off - 0xF40000)
  else off

/-- Registers that only the host may access (R415 to R418, spec/19_boundary.md R422). -/
def SysReg.hostOnly : SysReg → Bool
  | .tile _ off => off == 0xC8
  | .wall .. => false
  | .plinth off => off == 0x18 || off == 0x10000 || off == 0x10008
  | .mgmt off => !(off == 0x80 || off == 0x88)

/-! ## Fields -/

/-- Bits `hi:lo` set. -/
def bitRange (hi lo : Nat) : Word := BitVec.ofNat 64 (2 ^ (hi + 1) - 2 ^ lo)

/-- Bit `i` set. -/
def oneBit (i : Nat) : Word := BitVec.ofNat 64 (2 ^ i)

/-- RW bits of MWIN. -/
def mwinMask : Word := oneBit 63 ||| bitRange 55 16
/-- RW bits of KVPOOL. -/
def kvpoolMask : Word := oneBit 63 ||| bitRange 47 16 ||| bitRange 12 8 ||| bitRange 5 0
/-- RW bits of ASCFG. -/
def ascfgMask : Word := bitRange 39 16 ||| bitRange 11 4
/-- RW bits of SNAPBASE. -/
def snapbaseMask : Word := bitRange 47 26 ||| oneBit 0
/-- RW bits of TRACECTL. -/
def tracectlMask : Word := oneBit 63 ||| bitRange 47 32 ||| bitRange 15 10
/-- RW bits of TRIGCTL. -/
def trigctlMask : Word := bitRange 63 62 ||| bitRange 60 59 ||| bitRange 55 0
/-- RW bits of PTROOT. -/
def ptrootMask : Word := bitRange 47 12 ||| oneBit 0
/-- RW bits of QRBUF. -/
def qrbufMask : Word := oneBit 63 ||| bitRange 55 16 ||| bitRange 4 0
/-- RW bits of SAMPCFG. -/
def sampcfgMask : Word := bitRange 44 10 ||| bitRange 3 0
/-- RW bits of a COURSE register: a stage of six bits in each byte (spec/15_requests.md R347). -/
def courseMask : Word := 0x3F3F3F3F3F3F3F3F
/-- RW bits of CGRP. -/
def cgrpMask : Word := oneBit 63 ||| bitRange 47 32 ||| bitRange 15 0

/-- A field at its place. -/
def at' (v lo : Nat) : Nat := v * 2 ^ lo

/-! ## Tile registers: writes -/

/-- A copy has claimed memory tile `i` of a tile, or the tile is still being released. -/
def claimedMt (s : State) (t i : Nat) : Bool :=
  (s.tile t).mem.closing.contains i || s.copies.any fun c => c.tile == t && (match regionMt c i with
    | some m => bitOf c.kern.mtUse m
    | none => false)

/-- An enabled chain lies in a memory tile. -/
def chainIn (s : State) (t i : Nat) : Bool := (s.tile t).chains.any fun p => p.2.en && p.2.mt == i

/-- The new BKMT bit of a memory tile: a bit of a tile that a context owns is not set, one that an enabled chain lies in is
not cleared (spec/09_memory.md R209, spec/12_engines.md R278). -/
def bkmtBit (s : State) (t i : Nat) (v : Bool) : Bool :=
  let old := s.reserved t i
  if v then old || !claimedMt s t i else old && chainIn s t i

/-- A write of BKMT: a memory tile that becomes the banker's is zero-filled and its tags become invalid (R209, R220); one that becomes free
has the wall's placer run again (spec/08_launch.md R190). -/
def writeBkmt (s : State) (t : Nat) (v : Word) : State :=
  let mask := natOfBits 16 fun i => bkmtBit s t i (bitOf v.toNat i)
  let fresh := (List.range 16).filter fun i => bitOf mask i && !s.reserved t i
  let freed := (List.range 16).filter fun i => !bitOf mask i && s.reserved t i
  let s := fresh.foldl (fun s i => tagsReset (zeroMt s t i) t i) s
  let s := (closeMts s t freed).modMem t fun m => { m with bkmt := mask }
  if freed = [] then s else askPlacer s (s.wallOf t)

/-- A window value that leaves the register unchanged (spec/09_memory.md R222). -/
def mwinBad (s : State) (t i : Nat) (w : Word) : Bool :=
  let others := (List.range 4).filter (· != i)
  let members := (groupMembers s (mwGid w)).filter (· != t)
  mwEn w && (mwBase w % 8 != 0 || mwLen w % 8 != 0 || decide (65536 < mwBase w + mwLen w) || mwLen w == 0 ||
    others.any (fun j => let x := Tab.get (s.tile t).mem.mwin j; mwEn x && mwGid x == mwGid w) || decide (64 ≤ members.length))

/-- A write of a window register (R222). -/
def writeMwin (s : State) (t i : Nat) (v : Word) : State :=
  let w := v &&& mwinMask
  if mwinBad s t i w then s else s.modMem t fun m => { m with mwin := Tab.set m.mwin i w }

/-- A write of RSCFG: MEN stays 0 for a QMT that is not the banker's (spec/13_rings.md R303). -/
def writeRscfg (s : State) (t : Nat) (v : Word) : State :=
  let q := v &&& bitRange 3 0
  s.modRing t fun x => { x with rscfg := if bitOf v.toNat 63 && s.reserved t q.toNat then q ||| oneBit 63 else q }

/-- A write of KVPOOL (spec/13_rings.md R305). -/
def writeKvpool (s : State) (t : Nat) (v : Word) : State :=
  let x := (s.tile t).ring
  let w := v &&& kvpoolMask
  let setl := fld w.toNat 8 5
  if x.poolOn then
    (if bitOf w.toNat 63 then s else s.modRing t fun x => { x with kvpool := x.kvpool &&& ~~~(oneBit 63) })
  else if bitOf w.toNat 63 && !(decide (16 ≤ setl) && decide (setl ≤ 30) && fld w.toNat 16 32 * 2 ^ 16 % 2 ^ setl == 0 && decide (1 ≤ x.nset))
  then s
  else s.modRing t fun x => { x with kvpool := w }

/-- A write of KVSTAT: none while the pool is enabled (R305). -/
def writeKvstat (s : State) (t : Nat) (v : Word) : State :=
  if (s.tile t).ring.poolOn then s else s.modRing t fun x => { x with kvstat := v &&& bitRange 47 5 }

/-- A write of KVFREE: none while the pool is enabled (R305). -/
def writeKvfree (s : State) (t : Nat) (v : Word) : State :=
  if (s.tile t).ring.poolOn then s else s.modRing t fun x => { x with nset := fld v.toNat 20 20, head := fld v.toNat 0 20 }

/-- A write of ASCFG: only while the sequencer is idle (spec/14_attention.md R319). -/
def writeAscfg (s : State) (t : Nat) (v : Word) : State :=
  if (s.tile t).seq.st = 0 then s.modSeq t fun q => { q with ascfg := v &&& ascfgMask } else s

/-- A write of ASSTART: ENTRY, and the start of an idle sequencer (spec/14_attention.md R320). -/
def writeAsstart (s : State) (t : Nat) (v : Word) : State :=
  let e := fld v.toNat 0 10
  let s := s.modSeq t fun q => { q with entry := e }
  if bitOf v.toNat 63 then seqGo s t e else s

/-- A write of TCTL; an idle banker with a trap it may now take goes on (R392, R396). -/
def writeTctl (s : State) (t : Nat) (v : Word) : State :=
  wakeIdle (s.modSys t fun x => { x with ebrk := bitOf v.toNat 1, ten := bitOf v.toNat 0 }) t

/-- A write of SNAPBASE: none while a copy is resident on the tile (R402). -/
def writeSnapbase (s : State) (t : Nat) (v : Word) : State :=
  if s.copies.any (fun c => c.tile == t) then s else s.modSys t fun x => { x with snapbase := v &&& snapbaseMask }

/-- A write of TRACECTL: EN from 0 to 1 begins a new recording (R412). -/
def writeTracectl (s : State) (t : Nat) (v : Word) : State :=
  s.modSys t fun x =>
    let y := { x with tracectl := v &&& tracectlMask }
    if bitOf v.toNat 63 && !bitOf x.tracectl.toNat 63 then { y with frozen := false, wptr := 0, wrap := false, lost := 0, post := 0 } else y

/-- A write of TRIGCTL, ARM with it, clears FIRED (R412; log entry 103). -/
def writeTrigctl (s : State) (t : Nat) (v : Word) : State :=
  s.modSys t fun x => { x with trigctl := v &&& trigctlMask, fired := false }

/-- Bytes counted in TILE.SBPEND for a reply that a banker no longer waits for. -/
def stallPend : Stall → Nat
  | .reply _ _ n _ => n
  | _ => 0

/-- A host write of BCTL: RUN restarts the banker at PC; any write ends `idle` (R417, R419). -/
def writeBctl (s : State) (t : Nat) (v : Word) : State :=
  let pc := v &&& bitRange 55 0
  if bitOf v.toNat 63 then
    let n := stallPend (s.tile t).bk.stall
    (s.modMem t fun m => { m with sbpend := m.sbpend - n }).modBk t fun b =>
      { b with mode := 0, pc := pc, bctlPc := pc, stall := .none, emul := none, answer := none, nextIssue := s.cyc + 1 }
  else s.modBk t fun b => { b with bctlPc := pc, mode := if b.mode = 2 then 0 else b.mode }

/-- A write of CHCFG (spec/12_engines.md R278); what is still in flight for other packages and in the exponent engine stays so. -/
def writeChcfg (s : State) (t i : Nat) (v : Word) : State :=
  let x := Tab.get (s.tile t).chains i
  let en := bitOf v.toNat 63
  let mt := fld v.toNat 32 4
  let base := fld v.toNat 16 16
  let sz := fld v.toNat 0 4
  if x.en then (if en || x.issued != x.done then s else s.modChain t i fun x => { x with en := false })
  else if en then
    (if s.reserved t mt && decide (1 ≤ sz) && decide (sz ≤ 11) && base % 32 == 0 && decide (base + 32 * 2 ^ sz ≤ 65536) then
      s.modChain t i fun x => { en := true, mt := mt, base := base, sz := sz, remote := x.remote, results := x.results }
    else s)
  else s.modChain t i fun x => { x with mt := mt, base := base, sz := sz }

/-- A write of a TILE register (R7, R8, R417); RO and RC fields take nothing. -/
def writeTile (s : State) (t off : Nat) (v : Word) : State :=
  match off with
  | 0x008 => writeBkmt s t v
  | 0x020 => writeMwin s t 0 v
  | 0x028 => writeMwin s t 1 v
  | 0x030 => writeMwin s t 2 v
  | 0x038 => writeMwin s t 3 v
  | 0x048 => writeRscfg s t v
  | 0x058 => writeKvpool s t v
  | 0x060 => writeKvstat s t v
  | 0x068 => writeKvfree s t v
  | 0x070 => writeAscfg s t v
  | 0x078 => writeAsstart s t v
  | 0x088 => s.modSys t fun x => { x with tvec := v &&& bitRange 55 9 }
  | 0x090 => s.modSys t fun x => { x with tfbase := v &&& bitRange 19 9 }
  | 0x098 => writeTctl s t v
  | 0x0A0 => writeResume s t v.toNat
  | 0x0A8 => writeSnapbase s t v
  | 0x0B0 => writeTracectl s t v
  | 0x0B8 => writeTrigctl s t v
  | 0x0C8 => writeBctl s t v
  | 0x100 => writeChcfg s t 0 v
  | 0x108 => writeChcfg s t 1 v
  | 0x110 => writeChcfg s t 2 v
  | 0x118 => writeChcfg s t 3 v
  | _ => s

/-! ## Tile registers: reads -/

/-- CHCFG of a chain. -/
def chcfgWord (x : Chain) : Nat :=
  at' (b2n x.en) 63 + at' (b2n x.flt) 62 + at' (b2n x.hold) 61 + at' x.mt 32 + at' x.base 16 + x.sz

/-- A poison-origin latch read: its value, and the latch empty (R399). -/
def readLatch (s : State) (t i : Nat) : State × Nat :=
  (s.modSys t fun x => { x with platch := Tab.set x.platch i 0 }, (Tab.get (s.tile t).sys.platch i).toNat)

/-- What a TILE register that a read leaves as it is returns. -/
def tileWord (s : State) (t off : Nat) : Nat :=
  let x := s.tile t
  let y := x.sys
  match off with
  | 0x000 => t
  | 0x008 => x.mem.bkmt
  | 0x010 => x.mem.sbpend
  | 0x020 => (Tab.get x.mem.mwin 0).toNat
  | 0x028 => (Tab.get x.mem.mwin 1).toNat
  | 0x030 => (Tab.get x.mem.mwin 2).toNat
  | 0x038 => (Tab.get x.mem.mwin 3).toNat
  | 0x048 => x.ring.rscfg.toNat
  | 0x058 => x.ring.kvpool.toNat
  | 0x060 => x.ring.kvstat.toNat
  | 0x068 => at' x.ring.nset 20 + x.ring.head
  | 0x070 => x.seq.ascfg.toNat
  | 0x078 => x.seq.entry
  | 0x080 => x.seq.stat
  | 0x088 => y.tvec.toNat
  | 0x090 => y.tfbase.toNat
  | 0x098 => at' y.posted.length 32 + at' (b2n y.ebrk) 1 + b2n y.ten
  | 0x0A8 => y.snapbase.toNat
  | 0x0B0 => y.tracectl.toNat + at' (b2n y.frozen) 62
  | 0x0B8 => y.trigctl.toNat + at' (b2n y.fired) 61
  | 0x0C8 => at' x.bk.mode 56 + x.bk.bctlPc.toNat
  | 0x100 => chcfgWord (Tab.get x.chains 0)
  | 0x108 => chcfgWord (Tab.get x.chains 1)
  | 0x110 => chcfgWord (Tab.get x.chains 2)
  | 0x118 => chcfgWord (Tab.get x.chains 3)
  | 0x120 => at' (Tab.get x.chains 0).done 32 + (Tab.get x.chains 0).issued
  | 0x128 => at' (Tab.get x.chains 1).done 32 + (Tab.get x.chains 1).issued
  | 0x130 => at' (Tab.get x.chains 2).done 32 + (Tab.get x.chains 2).issued
  | 0x138 => at' (Tab.get x.chains 3).done 32 + (Tab.get x.chains 3).issued
  | _ => 0

/-- A TILE register read: RC fields clear (R7). -/
def readTile (s : State) (t off : Nat) : State × Nat :=
  let x := s.tile t
  match off with
  | 0x018 => (s.modTile t fun x => { x with orphan := 0 }, x.orphan)
  | 0x040 => (s.modMem t fun m => { m with mwdrop := 0 }, x.mem.mwdrop)
  | 0x050 => (s.modRing t fun x => { x with qdrop := 0, qskip := 0 }, at' x.ring.qdrop 16 + x.ring.qskip)
  | 0x0C0 => (s.modSys t fun y => { y with lost := 0 }, at' x.sys.lost 32 + at' (b2n x.sys.wrap) 14 + x.sys.wptr)
  | 0x0D0 => readLatch s t 0
  | 0x0D8 => readLatch s t 1
  | 0x0E0 => readLatch s t 2
  | 0x0E8 => readLatch s t 3
  | 0x0F0 => (s.modSys t fun y => { y with platchB := 0 }, x.sys.platchB.toNat)
  | _ => (s, tileWord s t off)

/-! ## Wall registers (spec/09_memory.md R228) -/

/-- Lines of a wall as the split shrinks from `old` to `n` ways: of each set, those in the ways that change class, `old − n` at most, are
written back and invalidated, so that no more than `n` are left; which way holds a line is not stated (log entry 9). -/
def shrinkWays (w old n : Nat) : State → List Nat → List Line → List Line → State
  | s, _, _, [] => s
  | s, gone, kept, l :: ls =>
    let set (x : Line) : Nat := x.line % (16 * 2048)
    let full := decide (n ≤ (kept.filter fun k => set k == set l).length)
    let may := decide (gone.count (set l) < old - n)
    if full || (may && decide (Config.remoteWayVictim s.draws % old < old - n)) then
      shrinkWays w old n (dropWay (cleanWay { s with draws := s.draws + 1 } w l) w l.line) (set l :: gone) kept ls
    else shrinkWays w old n { s with draws := s.draws + 1 } gone (l :: kept) ls

/-- A write of WAYRES: values above 8 set 8 (R228). -/
def writeWayres (s : State) (w : Nat) (v : Word) : State :=
  let n := min (fld v.toNat 0 4) 8
  let old := s.ways w
  let s := if n < old then shrinkWays w old n s [] [] (s.wall w).lines else s
  s.modWall w fun x => { x with wayres := n }

/-! ## Plinth registers -/

/-- A write of ORDCTL: a change of mode waits until no launch is resident (spec/10_ordering.md R255). -/
def writeOrdctl (s : State) (v : Word) : State :=
  let want := bitOf v.toNat 0
  s.modPlinth fun p => { p with seed := fld v.toNat 32 32, unordReq := if want == p.unord then none else some want }

/-- A requested power state takes effect. -/
def takePower (s : State) : State := s.modMgmt fun m => { m with pwrCur := m.pwrReq }

/-- The clock goes on where it was stopped and now runs: in the next cycle (spec/18_system.md R415, spec/19_boundary.md R427). -/
def restartClock (old s : State) : State := if !clockRuns old && clockRuns s then tickOnce s else s

/-- A write of FREEZE: the clock stops at the end of the cycle, or goes on (R415). A change among power states that waits takes
effect while the clock is stopped by FREEZE (spec/19_boundary.md R427). -/
def writeFreeze (s : State) (v : Word) : State :=
  if bitOf v.toNat 0 then
    let s := (landStores s).modPlinth fun p => { p with frz := true, frozen := true }
    if s.mgmt.pwrCur = 3 then s else takePower s
  else restartClock s (s.modPlinth fun p => { p with frz := false, frozen := false })

/-- A write of QRBUF (spec/17_text.md R378). -/
def writeQrbuf (s : State) (v : Word) : State :=
  let psl := fld v.toNat 0 5
  if s.plinth.quarry.any (fun p => p.2.st == 1) || decide (psl < 12) || decide (26 < psl) then s
  else s.modPlinth fun p => { p with qrbuf := v &&& qrbufMask }

/-- A write of SAMPCFG: none while the batch former is enabled, nor with an empty sampling set (spec/16_sampling.md R356). -/
def writeSampcfg (s : State) (v : Word) : State :=
  let w := v &&& sampcfgMask
  let pcnt := fld w.toNat 18 9
  if s.bf.en || fld w.toNat 0 4 == 0 || pcnt == 0 || decide (256 < pcnt) then s else s.modPlinth fun p => { p with sampcfg := w }

/-- A write of SALT: none while the batch former is enabled (R356). -/
def writeSalt (s : State) (i : Nat) (v : Word) : State :=
  if s.bf.en then s else s.modPlinth fun p => { p with salt := Tab.set p.salt i v }

/-- A write of a barrier register (spec/10_ordering.md R246). -/
def writeSbar (s : State) (i : Nat) (v : Word) : State :=
  let x := s.sbarOf i
  let en := bitOf v.toNat 31
  let n := fld v.toNat 0 11
  if x.arr ≠ 0 ∨ (en = true ∧ (n = 0 ∨ 1024 < n)) then s
  else s.modPlinth fun p => { p with sbar := Tab.set p.sbar i { x with en := en, count := n } }

/-- A write of a batch-former register, by its offset in the block (spec/15_requests.md R345). -/
def writeBf (s : State) (off : Nat) (v : Word) : State :=
  let keep := oneBit 63 ||| oneBit 62
  match off with
  | 0x100 => s.modBf fun b =>
      { b with cfg := if b.en then (b.cfg &&& ~~~keep) ||| (v &&& keep) else v &&& bitRange 63 29 }
  | 0x108 => if s.bf.en then s else s.modBf fun b => { b with model := v &&& bitRange 47 16 }
  | 0x110 => s.modBf fun b => { b with avail := fld v.toNat 0 32 }
  | 0x118 => if s.bf.en then s else s.modBf fun b => { b with man := v &&& bitRange 47 25 }
  | 0x120 => s.modBf fun b => { b with spill := v &&& (bitRange 47 16 ||| bitRange 4 0) }
  | _ => s

/-- An instance of a group is in progress in this package. -/
def groupBusy (s : State) (g : Nat) : Bool :=
  (s.group g).insts.any (fun p => p.2 != []) ||
  s.tiles.any fun t => t.2.chains.any fun c => match c.2.coll with
    | some (x, _) => x == g
    | none => false

/-- A write of CGRP: enabling resets the instance count of every participant (spec/12_engines.md R293). -/
def writeCgrp (s : State) (g : Nat) (v : Word) : State :=
  let w := v &&& cgrpMask
  let en := bitOf w.toNat 63
  if (en && fld w.toNat 32 16 == 0) || groupBusy s g then s
  else
    let rise := en && !(s.group g).en
    let s := s.modPlinth fun p => { p with cgrp := Tab.modify p.cgrp g fun x => { x with cgrp := w } }
    if rise then (Tab.keys s.tiles).foldl (fun s t => s.modTile t fun x => { x with collCount := Tab.set x.collCount g 0 }) s else s

/-- A write of a PLINTH register. -/
def writePlinth (s : State) (off : Nat) (v : Word) : State :=
  if 0x800 ≤ off ∧ off ≤ 0xFF8 then writeCgrp s ((off - 0x800) / 8) v
  else if 0x140 ≤ off ∧ off ≤ 0x178 then s.modBf fun b => { b with course := Tab.set b.course ((off - 0x140) / 8) (v &&& courseMask) }
  else if 0x100 ≤ off ∧ off ≤ 0x128 then writeBf s off v
  else if 0x80 ≤ off ∧ off ≤ 0xF8 then writeSbar s ((off - 0x80) / 8) v
  else match off with
  | 0x000 => s.modPlinth fun p => { p with ptroot := v &&& ptrootMask }
  | 0x010 => writeOrdctl s v
  | 0x018 => writeFreeze s v
  | 0x020 => writeQrbuf s v
  | 0x028 => writeSampcfg s v
  | 0x030 => writeSalt s 0 v
  | 0x038 => writeSalt s 1 v
  | 0x040 => writeSalt s 2 v
  | 0x10000 => s.modPlinth fun p => { p with scansel := v }
  | _ => s

/-! ## Scan (R416) -/

/-- The copy in a context slot whose region holds the CE at a place of the tile, and the CE's number in it. -/
def scanCe (s : State) (t slot cexy : Nat) : Option (Copy × Nat) :=
  s.copies.findSome? fun c =>
    if c.tile == t && c.slot == slot then
      ((ceList c.kern.shape).find? fun x => ceY c x * 8 + ceX c x == cexy).map fun x => (c, x)
    else none

/-- A value, or its poison and void bits. -/
def scanVal (v : Val) (tags : Bool) : Nat := if tags then b2n v.poison + 2 * b2n v.void else v.v.toNat

/-- CLASS 0: an item of a CE. -/
def scanItem (c : Copy) (x item : Nat) (tags : Bool) : Nat :=
  let k := c.ce x
  if item < 64 then scanVal (Tab.get k.k item) tags
  else if item < 80 then scanVal (Tab.get k.s (item - 64)) tags
  else if item = 80 then scanVal k.result tags
  else if item = 81 then
    (if tags then b2n ((List.range 8).any fun i => (predOf c x i).poison) else natOfBits 8 fun i => (predOf c x i).b)
  else if tags then 0
  else if item = 82 then c.oc
  else if item = 83 then c.base
  else 0

/-- CLASS 2: an entry of an input queue. -/
def scanQueue (c : Copy) (x ch n : Nat) (tags : Bool) : Nat :=
  let q := Tab.get (c.ce x).queue ch
  match tags, q[n]? with
  | false, some t => t.val.v.toNat
  | false, none => 0
  | true, t => at' (min q.length 7) 8 + (match t with
    | some t => 4 * b2n (t.kind == .eos) + 2 * b2n t.val.poison + b2n t.val.void
    | none => 0)

/-- CLASS 4: an item of a banker. -/
def scanBanker (b : Banker) (i : Nat) : Nat :=
  if i < 32 then (Tab.get b.r.g i).v.toNat
  else if i = 32 then natOfBits 8 fun j => (b.r.flag j).b
  else if i < 36 then Tab.get b.r.lc (i - 33)
  else if i = 36 then b.pc.toNat
  else if i < 40 then (Tab.get b.r.start (i - 37)).toNat
  else if i < 43 then (Tab.get b.r.stop (i - 40)).toNat
  else if i = 43 then natOfBits 3 fun j => Tab.get b.r.active j
  else 0

/-- SCANDAT: the item that SCANSEL names, while the clock is frozen. -/
def scanWord (s : State) : Nat :=
  let v := s.plinth.scansel.toNat
  let t := fld v 54 10
  let x := s.tile t
  if !s.plinth.frozen || !s.tileOk t then 0
  else match fld v 48 6 with
  | 0 => match scanCe s t (fld v 14 2) (fld v 8 6) with
    | some (c, ce) => scanItem c ce (fld v 0 7) (bitOf v 7)
    | none => 0
  | 1 => match scanCe s t (fld v 14 2) (fld v 8 6) with
    | some (c, _) => at' c.j 32 + c.v
    | none => 0
  | 2 => match scanCe s t (fld v 14 2) (fld v 8 6) with
    | some (c, ce) => scanQueue c ce (fld v 3 3) (fld v 0 2) (bitOf v 7)
    | none => 0
  | 3 => let e := s.tag t (fld v 16 4) (fld v 0 8); at' (b2n e.valid) 63 + e.tag
  | 4 => scanBanker x.bk (fld v 0 6)
  | 5 => if bitOf v 10 then Tab.get x.seq.store (fld v 0 10)
    else if fld v 0 10 < 16 then (Tab.get x.seq.a (fld v 0 10)).v.toNat
    else if fld v 0 10 = 16 then x.seq.pc
    else 0
  | 6 => Tab.get x.sem (fld v 0 8)
  | _ => 0

/-- The word of a barrier. -/
def sbarWord (x : Sbar) : Nat := at' x.epoch 32 + at' (b2n x.en) 31 + at' x.arr 16 + x.count

/-- The mode as it was last written, and whether it waits (spec/10_ordering.md R255). -/
def ordctlWord (p : Plinth) : Nat := at' p.seed 32 + at' (b2n p.unordReq.isSome) 1 + b2n (p.unordReq.getD p.unord)

/-- A PLINTH register read. -/
def readPlinth (s : State) (off : Nat) : State × Nat :=
  let p := s.plinth
  let b := p.bf
  if 0x800 ≤ off ∧ off ≤ 0xFF8 then (s, (s.group ((off - 0x800) / 8)).cgrp.toNat)
  else if 0x140 ≤ off ∧ off ≤ 0x178 then (s, (Tab.get b.course ((off - 0x140) / 8)).toNat)
  else if 0x80 ≤ off ∧ off ≤ 0xF8 then (s, sbarWord (s.sbarOf ((off - 0x80) / 8)))
  else match off with
  | 0x000 => (s, p.ptroot.toNat)
  | 0x008 => (s.modPlinth fun p => { p with sigdrop := 0 }, p.sigdrop)
  | 0x010 => (s, ordctlWord p)
  | 0x018 => (s, at' (b2n p.frozen) 1 + b2n p.frz)
  | 0x020 => (s, p.qrbuf.toNat)
  | 0x028 => (s, p.sampcfg.toNat)
  | 0x030 => (s, (Tab.get p.salt 0).toNat)
  | 0x038 => (s, (Tab.get p.salt 1).toNat)
  | 0x040 => (s, (Tab.get p.salt 2).toNat)
  | 0x100 => (s, b.cfg.toNat)
  | 0x108 => (s, b.model.toNat)
  | 0x110 => (s, b.avail)
  | 0x118 => (s, b.man.toNat)
  | 0x120 => (s, b.spill.toNat)
  | 0x128 => (s.modBf fun b => { b with bad := 0 }, at' b.pass 32 + at' b.bad 16 + b.arrq.length)
  | 0x10000 => (s, p.scansel.toNat)
  | 0x10008 => (s, scanWord s)
  | _ => (s, 0)

/-! ## The management block (spec/19_boundary.md R422) -/

/-- STAT. -/
def statWord (m : Mgmt) : Nat := at' m.booterr 8 + at' m.bank 7 + at' m.rcause 2 + m.state

/-- The sum of `f i` over `i < n`, each at its place of `w` bits. -/
def packed (w : Nat) (f : Nat → Nat) : Nat → Nat
  | 0 => 0
  | n + 1 => packed w f n + f n * 2 ^ (w * n)

/-- Live tiles of a wall. -/
def wallLive (h : Hw) (w : Nat) : Nat :=
  match h.shape with
  | [] => 256
  | _ => liveBelow h (256 * (w + 1)) - liveBelow h (256 * w)

/-- Least live pseudo-channels of any slice of a wall. -/
def wallNmin (h : Hw) (w : Nat) : Nat :=
  match h.shape with
  | [] => 18
  | _ => minChannels h w 16

/-- SHAPE0: live tiles, least pseudo-channels and live ports, in force (R434). -/
def shape0 (h : Hw) : Nat :=
  packed 9 (wallLive h) 4 + at' (packed 5 (wallNmin h) 4) 36 + at' (packed 1 (fun i => b2n (!shapeBit h 0x170 i)) 8) 56

/-- SHAPE1: widths of the ring links and the spokes, and the on-module second tier (R434). -/
def shape1 (h : Hw) : Nat :=
  packed 3 (fun i => widthCode (ringLanes h (i / 2) (i % 2)) 64) 8 +
    at' (packed 3 (fun i => widthCode (spokeLanes h (i / 2) (i % 2)) 32) 8) 24 + at' (fld h.modGb 0 12) 48

/-- The oldest event popped (R428). -/
def popEvent (s : State) : State × Nat :=
  match s.mgmt.evq with
  | [] => (s, 0)
  | (c, d) :: rest => ((s.modMgmt fun m => { m with evq := rest }).tell, at' 1 63 + at' c 56 + fld d 0 56)

/-- The word of a CXL port. -/
def cxlWord (c : Cxl) : Nat := at' (b2n c.en) 63 + at' (b2n c.up) 62 + c.size

/-- A management register read. -/
def readMgmt (s : State) (off : Nat) : State × Nat :=
  let m := s.mgmt
  if 0x100 ≤ off ∧ off ≤ 0x2F8 then (s, (Tab.get m.srv ((off - 0x100) / 8)).toNat)
  else if 0x40 ≤ off ∧ off ≤ 0x68 then (s, cxlWord (Tab.get m.cxl ((off - 0x40) / 8)))
  else match off with
  | 0x000 => (s, statWord m)
  | 0x008 => (s, at' (b2n m.pend) 62)
  | 0x010 => (s, at' m.pwrCur 4 + m.pwrReq)
  | 0x018 => (s.modMgmt fun m => { m with droop := 0 }, m.droop)
  | 0x020 => (s, at' (b2n m.arcEn) 63 + at' (b2n m.arcUp) 62 + at' (b2n m.arcDup) 61 + at' m.arcSize 8 + m.arcNum)
  | 0x028 => popEvent s
  | 0x030 => (s.modMgmt fun m => { m with evlost := 0 }, m.evlost)
  | 0x080 => (s, shape0 s.hw)
  | 0x088 => (s, shape1 s.hw)
  | 0x090 => (s, at' m.flashSt 60 + at' m.flashErr 56 + m.flashAddr)
  | 0x098 => (s, at' (b2n m.attestDone) 62 + m.attestAddr)
  | _ => (s, 0)

/-- A write of PWR: the state requested; while FREEZE has stopped the clock, a change takes effect at once unless it leads out
of state 3 (R427). -/
def writePwr (s : State) (v : Word) : State :=
  let s := s.modMgmt fun m => { m with pwrReq := fld v.toNat 0 2 }
  if s.plinth.frozen && s.mgmt.pwrCur != 3 then takePower s else s

/-- A write of ARC: the ring starts with a hello; while EN = 1 a write changes nothing (R431). -/
def writeArc (s : State) (v : Word) : State :=
  let n := fld v.toNat 0 8
  let en := bitOf v.toNat 63
  if s.mgmt.arcEn then s
  else
    let s := s.modMgmt fun m => { m with arcEn := en, arcSize := fld v.toNat 8 9, arcNum := n }
    if en then s.send (.hello [n]) else s

/-- A write of CXLn (R433): EN = 1 leaves an enabled port as it is; EN = 0 waits until accepted accesses have completed. -/
def writeCxl (s : State) (p : Nat) (v : Word) : State :=
  let c := Tab.get s.mgmt.cxl p
  let en := bitOf v.toNat 63
  let set (f : Cxl → Cxl) : State := s.modMgmt fun m => { m with cxl := Tab.modify m.cxl p f }
  if en && c.en then s
  else if en then set fun c => { c with en := true, size := fld v.toNat 0 12, lost := false, off := none }
  else if c.en && portBusy s p then set fun c => { c with off := some v }
  else disableCxl s p v

/-- A write of FLASH: an operation starts; while one is under way nothing changes (R425). -/
def writeFlash (s : State) (v : Word) : State :=
  let op := fld v.toNat 62 2
  if s.mgmt.flashSt = 1 then s
  else s.modMgmt fun m =>
    let m := { m with flashAddr := fld v.toNat 12 36 * 4096 }
    if op = 0 then m else { m with flashSt := 1, flashErr := 0, flashOp := op }

/-- A write of ATTEST: GO starts a report and clears DONE (R426). -/
def writeAttest (s : State) (v : Word) : State :=
  s.modMgmt fun m =>
    let m := { m with attestAddr := fld v.toNat 6 42 * 64 }
    if bitOf v.toNat 63 then { m with attestGo := true, attestDone := false } else m

/-- A management register written; RESET.GO asks for the warm reset, which is taken as soon as FLASH.ST is not busy (R423). -/
def writeMgmt (s : State) (off : Nat) (v : Word) : State :=
  if 0x100 ≤ off ∧ off ≤ 0x2F8 then s.modMgmt fun m => { m with srv := Tab.set m.srv ((off - 0x100) / 8) v }
  else if 0x40 ≤ off ∧ off ≤ 0x68 then writeCxl s ((off - 0x40) / 8) v
  else match off with
  | 0x008 => if bitOf v.toNat 63 then s.modMgmt fun m => if m.pend then m else { m with pend := true, resetAt := s.cyc } else s
  | 0x010 => writePwr s v
  | 0x020 => writeArc s v
  | 0x090 => writeFlash s v
  | 0x098 => writeAttest s v
  | _ => s

/-! ## One register -/

/-- A register read: RC fields clear (R7). -/
def readReg (s : State) : SysReg → State × Nat
  | .tile t off => readTile s t off
  | .wall w _ => (s, s.ways w)
  | .plinth off => readPlinth s off
  | .mgmt off => readMgmt s off

/-- A register written. -/
def writeReg (s : State) (r : SysReg) (v : Word) : State :=
  match r with
  | .tile t off => writeTile s t off v
  | .wall w _ => writeWayres s w v
  | .plinth off => writePlinth s off v
  | .mgmt off => writeMgmt s off v

/-- In recovery only the management block answers (spec/19_boundary.md R424). -/
def hostReaches (s : State) : SysReg → Bool
  | .mgmt _ => true
  | _ => s.mgmt.state != 2

/-- A host read through BAR0; what is unassigned reads zero, as the aliases do (R417). -/
def hostRead (s : State) (off : Nat) : State × Nat :=
  match sysRegAt s off with
  | some r => if hostReaches s r then readReg s r else (s, 0)
  | none => (s, 0)

/-- A host write of a register. -/
def hostSet (s : State) (r : SysReg) (v : Word) : State := if hostReaches s r then writeReg s r v else s

/-- A host write through BAR0. -/
def hostWrite (s : State) (off : Nat) (v : Word) : State :=
  match sysRegAt s off with
  | some r => hostSet s r v
  | none => s

/-! ## The writes that are steps of their own -/

/-- A host write of a register of a tile, if the tile is assigned. -/
def hostTile (s : State) (t off : Nat) (v : Word) : Host.Outcome State Fault Refusal :=
  .next (if s.tileOk t then hostSet s (.tile t off) v else s)

/-- Bits `n` from `lo` of a written value forced. -/
def withField (v : Word) (lo n x : Nat) : Word := BitVec.ofNat 64 (setFld v.toNat lo n x)

/-- REGISTER_WRITE: a host write of a register (R7, R8, R417). -/
def execRegisterWrite (off : BitVec 32) (v : Word) (s : State) : Host.Outcome State Fault Refusal := .next (hostWrite s off.toNat v)

/-- CLEAR_ON_READ: a host read of a register, whose value goes to the host (R7). -/
def execClearOnRead (off : BitVec 32) (s : State) : Host.Outcome State Fault Refusal :=
  let (s, v) := hostRead s off.toNat
  .next (s.send (.hostReg (BitVec.ofNat 64 v)))

/-- EVQ_READ (spec/19_boundary.md R428). -/
def execEvqRead (s : State) : Host.Outcome State Fault Refusal :=
  let (s, v) := popEvent s
  .next (s.send (.hostReg (BitVec.ofNat 64 v)))

/-- BKMT_WRITE (spec/09_memory.md R209). -/
def execBkmtWrite (t : Nat) (v : Word) (s : State) : Host.Outcome State Fault Refusal := hostTile s t 0x008 v

/-- CHAIN_ENABLE: a CHCFG write with EN = 1 (spec/12_engines.md R278). -/
def execChainEnable (t : Nat) (c : Fin 4) (v : Word) (s : State) : Host.Outcome State Fault Refusal :=
  hostTile s t (0x100 + 8 * c.val) (withField v 63 1 1)

/-- CHAIN_DISABLE: a CHCFG write with EN = 0 (R278). -/
def execChainDisable (t : Nat) (c : Fin 4) (v : Word) (s : State) : Host.Outcome State Fault Refusal :=
  hostTile s t (0x100 + 8 * c.val) (withField v 63 1 0)

/-- MWIN_WRITE (spec/09_memory.md R222). -/
def execMwinWrite (t : Nat) (i : Fin 4) (v : Word) (s : State) : Host.Outcome State Fault Refusal := hostTile s t (0x020 + 8 * i.val) v

/-- RSCFG_WRITE (spec/13_rings.md R303). -/
def execRscfgWrite (t : Nat) (v : Word) (s : State) : Host.Outcome State Fault Refusal := hostTile s t 0x048 v

/-- KVPOOL_ENABLE: a KVPOOL write with EN = 1 (spec/13_rings.md R305). -/
def execKvpoolEnable (t : Nat) (v : Word) (s : State) : Host.Outcome State Fault Refusal := hostTile s t 0x058 (withField v 63 1 1)

/-- KVPOOL_DISABLE: a KVPOOL write with EN = 0 (R305). -/
def execKvpoolDisable (t : Nat) (v : Word) (s : State) : Host.Outcome State Fault Refusal := hostTile s t 0x058 (withField v 63 1 0)

/-- ASCFG_WRITE (spec/14_attention.md R319). -/
def execAscfgWrite (t : Nat) (v : Word) (s : State) : Host.Outcome State Fault Refusal := hostTile s t 0x070 v

/-- ASSTART_GO: an ASSTART write with GO = 1 (spec/14_attention.md R320). -/
def execAsstartGo (t : Nat) (v : Word) (s : State) : Host.Outcome State Fault Refusal := hostTile s t 0x078 (withField v 63 1 1)

/-- RESUME_COPIES: a RESUME write with ACT 0 (R405). -/
def execResumeCopies (t : Nat) (v : Word) (s : State) : Host.Outcome State Fault Refusal := hostTile s t 0x0A0 (withField v 16 2 0)

/-- RESUME_CANCEL: a RESUME write with ACT 1 (R405). -/
def execResumeCancel (t : Nat) (v : Word) (s : State) : Host.Outcome State Fault Refusal := hostTile s t 0x0A0 (withField v 16 2 1)

/-- SNAPBASE_WRITE (R402). -/
def execSnapbaseWrite (t : Nat) (v : Word) (s : State) : Host.Outcome State Fault Refusal := hostTile s t 0x0A8 v

/-- TRACECTL_WRITE (R412). -/
def execTracectlWrite (t : Nat) (v : Word) (s : State) : Host.Outcome State Fault Refusal := hostTile s t 0x0B0 v

/-- TRIGCTL_WRITE (R412). -/
def execTrigctlWrite (t : Nat) (v : Word) (s : State) : Host.Outcome State Fault Refusal := hostTile s t 0x0B8 v

/-- BCTL_RUN: a BCTL write with RUN = 1 (R417). -/
def execBctlRun (t : Nat) (v : Word) (s : State) : Host.Outcome State Fault Refusal := hostTile s t 0x0C8 (withField v 63 1 1)

/-- WAYRES_WRITE (spec/09_memory.md R228). -/
def execWayresWrite (w : Nat) (v : Word) (s : State) : Host.Outcome State Fault Refusal :=
  .next (if w < 4 then hostSet s (.wall w 0) v else s)

/-- ORDCTL_WRITE (spec/10_ordering.md R255). -/
def execOrdctlWrite (v : Word) (s : State) : Host.Outcome State Fault Refusal := .next (hostSet s (.plinth 0x010) v)

/-- A written mode takes effect: no launch is resident. -/
def orderReady (s : State) : Bool := s.plinth.unordReq.isSome && s.copies == []

/-- ORDER_MODE_CHANGE (R255). -/
def execOrderModeChange (s : State) : Host.Outcome State Fault Refusal :=
  .next (if orderReady s then s.modPlinth fun p => { p with unord := p.unordReq.getD p.unord, unordReq := none } else s)

/-- SBAR_REG_WRITE (spec/10_ordering.md R246). -/
def execSbarRegWrite (i : Fin 16) (v : Word) (s : State) : Host.Outcome State Fault Refusal :=
  .next (hostSet s (.plinth (0x080 + 8 * i.val)) v)

/-- CGRP_WRITE (spec/12_engines.md R293). -/
def execCgrpWrite (g : Nat) (v : Word) (s : State) : Host.Outcome State Fault Refusal :=
  .next (if g < 256 then hostSet s (.plinth (0x800 + 8 * g)) v else s)

/-- BFCFG_WRITE: a write of a batch-former register (spec/15_requests.md R345). -/
def execBfcfgWrite (off : BitVec 32) (v : Word) (s : State) : Host.Outcome State Fault Refusal :=
  .next (if 0x500100 ≤ off.toNat ∧ off.toNat ≤ 0x500178 then hostWrite s off.toNat v else s)

/-- QRBUF_WRITE (spec/17_text.md R378). -/
def execQrbufWrite (v : Word) (s : State) : Host.Outcome State Fault Refusal := .next (hostSet s (.plinth 0x020) v)

/-- SAMPCFG_WRITE: a write of a sampling register (spec/16_sampling.md R356). -/
def execSampcfgWrite (off : BitVec 32) (v : Word) (s : State) : Host.Outcome State Fault Refusal :=
  .next (if 0x500028 ≤ off.toNat ∧ off.toNat ≤ 0x500040 then hostWrite s off.toNat v else s)

/-- ARC_START: an ARC write with EN = 1 (spec/19_boundary.md R431). -/
def execArcStart (v : Word) (s : State) : Host.Outcome State Fault Refusal := .next (hostSet s (.mgmt 0x020) (withField v 63 1 1))

/-- PWR_REQ_WRITE (spec/19_boundary.md R427). -/
def execPwrReqWrite (v : Word) (s : State) : Host.Outcome State Fault Refusal := .next (hostSet s (.mgmt 0x010) v)

/-- FLASH_FIRMWARE: a FLASH write with OP 1 (spec/19_boundary.md R425). -/
def execFlashFirmware (v : Word) (s : State) : Host.Outcome State Fault Refusal := .next (hostSet s (.mgmt 0x090) (withField v 62 2 1))

/-- FLASH_CONFIG_BLOCK: a FLASH write with OP 2 (R425). -/
def execFlashConfigBlock (v : Word) (s : State) : Host.Outcome State Fault Refusal := .next (hostSet s (.mgmt 0x090) (withField v 62 2 2))

/-- FLASH_DEGRADATION_TABLE: a FLASH write with OP 3 (R425). -/
def execFlashDegradationTable (v : Word) (s : State) : Host.Outcome State Fault Refusal :=
  .next (hostSet s (.mgmt 0x090) (withField v 62 2 3))

/-- ATTEST_GO: an ATTEST write with GO = 1 (spec/19_boundary.md R426). -/
def execAttestGo (v : Word) (s : State) : Host.Outcome State Fault Refusal := .next (hostSet s (.mgmt 0x098) (withField v 63 1 1))

/-- CXL_ENABLE: a CXLn write with EN = 1 (spec/19_boundary.md R433). -/
def execCxlEnable (p : Fin 6) (v : Word) (s : State) : Host.Outcome State Fault Refusal :=
  .next (hostSet s (.mgmt (0x040 + 8 * p.val)) (withField v 63 1 1))

/-- CXL_DISABLE: a CXLn write with EN = 0 (R433). -/
def execCxlDisable (p : Fin 6) (v : Word) (s : State) : Host.Outcome State Fault Refusal :=
  .next (hostSet s (.mgmt (0x040 + 8 * p.val)) (withField v 63 1 0))

/-- FREEZE: a host write of FRZ = 1 (R415). -/
def execFreeze (s : State) : Host.Outcome State Fault Refusal := .next (hostSet s (.plinth 0x018) 1)

/-- UNFREEZE: a host write of FRZ = 0 (R415). -/
def execUnfreeze (s : State) : Host.Outcome State Fault Refusal := .next (hostSet s (.plinth 0x018) 0)

end Sys2Proof.Machine
end

