-- ==== Sys2Proof/Machine/Boundary.lean ====
section
/-!
DEFINITION. The device and the outside world (spec/19_boundary.md): host accesses to memory (R421), resets and boot (R423,
R424), signed objects, flash and attestation (R425, R426), power and droop (R427), events (R428), the arcade's hello (R431),
CXL links (R433).
-/
namespace Sys2Proof.Machine

/-! ## Host accesses to memory (R421) -/

/-- The fault of an area at its home: its first byte, every 32 KiB behind it, and its last byte. -/
def hostFault (s : State) (pa n : Nat) : Option Nat :=
  match (List.range (n / 32768 + 1)).findSome? fun i => homeFault s (pa + 32768 * i) with
  | some c => some c
  | none => homeFault s (pa + n - 1)

/-- HOST_ERR, with the cause and the address; an uncorrectable error is an event of its own (R421, R428). -/
def hostErr (s : State) (c pa : Nat) : State :=
  pushEvent (if c = 0x14 then eccEvent s pa else s) 0x0A (c * 2 ^ 48 + pa % 2 ^ 48)

/-- The cause a host access meets. -/
def hostCause (s : State) (pa n : Nat) (ecc : Bool) : Option Nat :=
  match hostFault s pa n with
  | some c => some c
  | none => if ecc || s.ue then some 0x14 else none

/-- The answer to a read that faults or may not be made: completer abort on BAR2, a poisoned response on CXL.mem (R421). -/
def hostRefuse (s : State) (cxl : Bool) : State := s.send (if cxl then .hostPoison else .hostAbort)

/-- HOST_MEMORY_READ, through BAR2 or CXL.mem: a read at the home; a fault, power state 3 and recovery refuse it (R421, R424, R427). -/
def execHostMemoryRead (pa : BitVec 48) (len : Nat) (cxl ecc : Bool) (s : State) : Host.Outcome State Fault Refusal :=
  let a := pa.toNat
  .next (if s.mgmt.pwrCur = 3 ∨ s.mgmt.state = 2 then hostRefuse s cxl
    else if len = 0 then s.send (.hostData [])
    else match hostCause s a len ecc with
      | some c => hostRefuse (hostErr s c a) cxl
      | none => (eccNote s a).send (.hostData (homeRead s a len)))

/-- In recovery a write reaches only the on-module second tier (R424). -/
def recoveryWrite (s : State) (a n : Nat) : Bool :=
  match s.place a, s.place (a + n - 1) with
  | .module _, .module _ => true
  | _, _ => false

/-- HOST_MEMORY_WRITE: a write at the home; one that faults is discarded (R421). -/
def execHostMemoryWrite (pa : BitVec 48) (bytes : List Byte) (ecc : Bool) (s : State) : Host.Outcome State Fault Refusal :=
  let a := pa.toNat
  .next (if s.mgmt.pwrCur = 3 ∨ bytes = [] ∨ (s.mgmt.state = 2 ∧ recoveryWrite s a bytes.length = false) then s
    else match hostCause s a bytes.length ecc with
      | some c => hostErr s c a
      | none => homeWrite (eccNote s a) a bytes)

/-! ## Signed objects (R425) -/

/-- A field of an object, in bytes. -/
def objNat (b : List Byte) (off n : Nat) : Nat := leNat ((b.drop off).take n)

/-- PLEN. -/
def objPlen (b : List Byte) : Nat := objNat b 0xC 4
/-- SVN. -/
def objSvn (b : List Byte) : Nat := objNat b 0x8 4
/-- KIND. -/
def objKind (b : List Byte) : Nat := objNat b 4 1
/-- Where the signatures begin. -/
def objSigned (b : List Byte) : Nat := 0x40 + (objPlen b + 7) / 8 * 8
/-- The payload. -/
def objPayload (b : List Byte) : List Byte := (b.drop 0x40).take (objPlen b)

/-- All bytes are zero. -/
def zeros (l : List Byte) : Bool := l.all (· == 0)

/-- The format of an object; a degradation table has the payload of R434. -/
def objFormat (b : List Byte) : Bool :=
  let p := objPayload b
  objNat b 0 4 == 0x0A5E51C7 && objNat b 5 1 == 1 && objNat b 6 2 == 0 && zeros ((b.drop 0x10).take 0x30) &&
    b.length == objSigned b + 384 + 16224 && zeros ((b.drop (0x40 + objPlen b)).take (objSigned b - 0x40 - objPlen b)) &&
    (objKind b != 3 || (objPlen b == 0x180 && zeros (p.drop 0x171)))

/-- The rejection code of an object for an operation, 0 where it verifies (R425). -/
def objVerify (h : Hw) (kind : Nat) (b : List Byte) : Nat :=
  let n := objSigned b
  if !objFormat b then 1
  else if !rsaVerify Config.rsaKey (b.take n) ((b.drop n).take 384) then 2
  else if !slhVerify Config.slhKey (b.take n) (b.drop (n + 384)) then 3
  else if objSvn b < Tab.get h.minSvn (objKind b) then 4
  else if objKind b ≠ kind then 5
  else 0

/-- An object in memory, as long as its header says; none where it meets a fault. -/
def objRead (s : State) (a : Nat) : Option (List Byte) :=
  match hostFault s a 0x40 with
  | some _ => none
  | none =>
    let n := objSigned (homeRead s a 0x40) + 384 + 16224
    match hostFault s a n with
    | some _ => none
    | none => some (homeRead s a n)

/-- The object of a firmware bank. -/
def Hw.bank (h : Hw) (i : Nat) : List Byte := if i = 0 then h.bank0 else h.bank1

/-- A verified object in its slot: the firmware bank that was not booted, which is active from now on, or the slot of its kind. -/
def Hw.put (h : Hw) (booted kind : Nat) (b : List Byte) : Hw :=
  let h := { h with minSvn := Tab.set h.minSvn kind (objSvn b) }
  match kind with
  | 1 => if booted = 0 then { h with bank1 := b, active := 1 } else { h with bank0 := b, active := 0 }
  | 2 => { h with config := b }
  | _ => { h with table := b }

/-- FLASH_DONE: the operation ends written or rejected (R425). An object that cannot be read has no format. -/
def execFlashDone (s : State) : Host.Outcome State Fault Refusal :=
  let m := s.mgmt
  .next (if m.flashSt ≠ 1 then s
    else
      let s := s.modMgmt fun m => { m with resetAt := s.cyc + 1 }
      let reject (code : Nat) : State := s.modMgmt fun m => { m with flashSt := 3, flashErr := code, flashOp := 0 }
      match objRead s m.flashAddr with
      | none => reject 1
      | some b =>
        let code := objVerify s.hw m.flashOp b
        if code ≠ 0 then reject code
        else { s with hw := s.hw.put m.bank m.flashOp b }.modMgmt fun m => { m with flashSt := 2, flashErr := 0, flashOp := 0 })

/-! ## Attestation (R426) -/

/-- Bytes 0x000 to 0x0FF of a report. -/
def reportBody (s : State) (nonce : List Byte) : List Byte :=
  let fw := s.hw.bank s.mgmt.bank
  nonce ++ (List.range 16).map Config.deviceIdentity ++ leBytes 4 (objSvn fw) ++ leBytes 4 (objSvn s.hw.config) ++
    leBytes 4 (objSvn s.hw.table) ++ leBytes 4 0 ++ sha384 fw ++ sha384 s.hw.config ++ sha384 s.hw.table ++
    leBytes 8 (shape0 s.hw) ++ leBytes 8 (shape1 s.hw)

/-- A report with its two signatures. -/
def reportBytes (body : List Byte) : List Byte := body ++ (List.range (384 + 16224)).map (Config.attestSignature body)

/-- ATTEST_DONE: the report is written behind the nonce and DONE is set; where an access would fault, nothing is. -/
def execAttestDone (s : State) : Host.Outcome State Fault Refusal :=
  let a := s.mgmt.attestAddr
  .next (if !s.mgmt.attestGo then s
    else
      let s := s.modMgmt fun m => { m with attestGo := false }
      if (hostFault s a (64 + 256 + 384 + 16224)).isSome then s
      else
        (homeWrite s (a + 64) (reportBytes (reportBody s (homeRead s a 64)))).modMgmt fun m => { m with attestDone := true })

/-! ## Reset and boot (R423, R424) -/

/-- Cells of CXL memory, the only memory that the device does not zero (spec/09_memory.md R235). -/
def keepCxl : List Host.Cell → List Host.Cell
  | [] => []
  | (k, v) :: m => if cxlBase ≤ k then (k, v) :: keepCxl m else keepCxl m

/-- The trace entries of the tiles, whose fields no reset initialises (spec/00_scope.md R9, spec/18_system.md R413). -/
def keepTraces : Tab Tile → Tab Tile
  | [] => []
  | (t, x) :: l => if x.sys.trace == [] then keepTraces l else (t, { sys := { trace := x.sys.trace } }) :: keepTraces l

/-- Every field at its reset value, but for the trace entries, the flash, and after a warm reset the event queue; what the model itself
keeps (who acts next, free values drawn, what has left the package) goes on. -/
def resetState (s : State) (warm : Bool) : State :=
  let m : Mgmt := { bank := s.mgmt.bank, rcause := b2n warm, evq := if warm then s.mgmt.evq else [],
                    evlost := if warm then s.mgmt.evlost else 0 }
  { mem := keepCxl s.mem, tiles := keepTraces s.tiles, mgmt := m, hw := s.hw, agenda := s.agenda, draws := s.draws, out := s.out }

/-- Boot stops in recovery with a code. -/
def bootStop (s : State) (code : Nat) : State := s.modMgmt fun m => { m with state := 2, booterr := code }

/-- The pairs of a configuration payload applied as host writes, in order: an offset and a value of 64 bits each. -/
def applyPairs : Nat → State → List Byte → State
  | 0, s, _ => s
  | n + 1, s, b => applyPairs n (hostWrite s (objNat b 0 8) (BitVec.ofNat 64 (objNat b 8 8))) (b.drop 16)

/-- The firmware bank that verifies: the active one, or the other. -/
def bootBank (h : Hw) : Option Nat :=
  if objVerify h 1 (h.bank h.active) = 0 then some h.active
  else if objVerify h 1 (h.bank (1 - h.active)) = 0 then some (1 - h.active)
  else none

/-- Boot, in order; the first failure stops it (R424). -/
def boot (s : State) : State :=
  match bootBank s.hw with
  | none => bootStop s 1
  | some b =>
    let s := { s with hw := { s.hw with active := b } }.modMgmt fun m => { m with bank := b }
    if objVerify s.hw 3 s.hw.table ≠ 0 then bootStop s 2
    else
      let s := { s with hw := { s.hw with shape := objPayload s.hw.table } }
      if objVerify s.hw 2 s.hw.config ≠ 0 then bootStop s 3
      else
        let p := objPayload s.hw.config
        let s := (applyPairs (p.length / 16) s p).modMgmt fun m => { m with state := 1 }
        pushEvent s 0x08 (statWord s.mgmt)

/-- COLD_RESET (R423, R424). -/
def execColdReset (s : State) : Host.Outcome State Fault Refusal := .next (boot (resetState s false))

/-- The warm reset. -/
def warmReset (s : State) : State := boot (resetState s true)

/-- WARM_RESET: a host write of RESET.GO; while the flash is busy it is pending (R423). -/
def execWarmReset (s : State) : Host.Outcome State Fault Refusal :=
  .next (if s.mgmt.flashSt = 1 then s.modMgmt fun m => { m with pend := true, resetAt := s.cyc } else warmReset s)

/-- A warm reset that was asked for may be taken: at once, or, where the flash was busy, in the cycle after FLASH.ST leaves busy. -/
def resetReady (s : State) : Bool :=
  s.mgmt.pend && s.mgmt.flashSt != 1 && (decide (s.mgmt.resetAt ≤ s.cyc) || !clockRuns s)

/-- PENDING_WARM_RESET: FLASH.ST has left busy (R423). -/
def execPendingWarmReset (s : State) : Host.Outcome State Fault Refusal := .next (if resetReady s then warmReset s else s)

/-! ## Power and droop (R427) -/

/-- A change of power state may take effect now: into or among states 0 to 2 at a 256-cycle boundary or while FREEZE holds the
clock; out of state 3 once HBM4E has left self-refresh. -/
def powerReady (s : State) : Bool :=
  s.mgmt.pwrCur != s.mgmt.pwrReq && (s.mgmt.pwrCur == 3 || s.cyc % 256 == 0 || s.plinth.frozen)

/-- POWER_STATE_CHANGE. -/
def execPowerStateChange (s : State) : Host.Outcome State Fault Refusal :=
  .next (if powerReady s then restartClock s (takePower s) else s)

/-- DROOP_EPISODE: the supply sags and cycles are stretched; they are counted (R427). -/
def execDroopEpisode (n : Nat) (s : State) : Host.Outcome State Fault Refusal :=
  .next (s.modMgmt fun m => { m with droop := satAdd32 m.droop n, sag := some (satAdd32 (m.sag.getD 0) n) })

/-- SUPPLY_RECOVERY: the episode ends, and its one event says how many cycles were stretched (R427, R428). -/
def execSupplyRecovery (s : State) : Host.Outcome State Fault Refusal :=
  .next (match s.mgmt.sag with
    | some n => pushEvent (s.modMgmt fun m => { m with sag := none }) 0x03 n
    | none => s)

/-! ## Links (R428, R429, R431, R433) -/

/-- The first number of a list that stands in it twice. -/
def firstTwice : List Nat → Option Nat
  | [] => none
  | n :: l => if l.contains n then some n else firstTwice l

/-- A package finds a duplicate: DUP is set, UP stays 0, and the host is told once (R431). -/
def arcDuplicate (s : State) (n : Nat) : State :=
  if s.mgmt.arcDup then s else pushEvent (s.modMgmt fun m => { m with arcDup := true }) 0x06 n

/-- ARC_HELLO: the package's own hello has come round, or another's is passed on with its number appended (R431). -/
def execArcHello (nums : List Nat) (s : State) : Host.Outcome State Fault Refusal :=
  let m := s.mgmt
  .next (if !m.arcEn ∨ nums = [] then s
    else if nums.head? = some m.arcNum then
      (if (firstTwice nums).isNone && nums.length == m.arcSize && !m.arcDup then
        s.modMgmt fun m => { m with arcUp := true, arcList := nums }
      else if m.arcUp then s
      else arcDuplicate s ((firstTwice nums).getD m.arcNum))
    else
      let s := s.send (.hello (nums ++ [m.arcNum]))
      if nums.contains m.arcNum && !m.arcUp then arcDuplicate s m.arcNum else s)

/-- CXL_LINK_DOWN: UP clears, the host is told, and later accesses to a populated window fault ECC_UE (R433). -/
def execCxlLinkDown (p : Fin 6) (s : State) : Host.Outcome State Fault Refusal :=
  .next (if (Tab.get s.mgmt.cxl p.val).up then
      pushEvent (s.modMgmt fun m => { m with cxl := Tab.modify m.cxl p.val fun c => { c with up := false, lost := c.en } }) 0x09 p.val
    else s)

/-- CXL_LINK_TRAINED: UP is set; the window is populated if EN is 1 already (R433). -/
def execCxlLinkTrained (p : Fin 6) (s : State) : Host.Outcome State Fault Refusal :=
  .next (s.modMgmt fun m => { m with cxl := Tab.modify m.cxl p.val fun c => { c with up := true, lost := false } })

/-- LINK_LANE_ERROR: errors of a lane are reported (R428). -/
def execLinkLaneError (link : Fin 16) (dir : Bool) (lane errors : Nat) (s : State) : Host.Outcome State Fault Refusal :=
  .next (pushEvent s 0x07 (lane % 64 + link.val * 2 ^ 8 + b2n dir * 2 ^ 12 + errors % 2 ^ 32 * 2 ^ 16))

/-- FRAME_ON_UNIMPLEMENTED_MODE: the frame is discarded (R429). -/
def execFrameOnUnimplementedMode (_port : Fin 8) (_bytes : List Byte) (s : State) : Host.Outcome State Fault Refusal := .next s

end Sys2Proof.Machine
end

