-- ==== Sys2Proof/Machine/Integer.lean ====
section
/-!
DEFINITION. The banker's integer instructions, rows 0x0 to 0x2 (spec/04_integer.md R116 to R123), and its poison word
(spec/02_words.md R68).
-/
namespace Sys2Proof.Machine

/-- An integer instruction of the banker: its result by R109 and R116 to R123, its latency by R113. The divider takes one
operation at a time. -/
def runAlu (op : AluOp) (m : AluMods) (f : BForm) (s : State) : Host.Outcome State Fault Refusal :=
  let a := readB s s.actor f.a
  let b := readB s s.actor f.b
  let c := readB s s.actor f.c
  .next (runSoft f.guard f.dst (formRegs f) [a, b, c] (bankerLatency op m)
    (fun s _ => .val s (aluResult op m a.v b.v c.v) (bankerLatency op m)) s)

/-- A division waits while the divider is taken, unless its guard is false (R113, R114). -/
def runDiv (op : AluOp) (m : AluMods) (f : BForm) (s : State) : Host.Outcome State Fault Refusal :=
  let a := readB s s.actor f.a
  let b := readB s s.actor f.b
  .next (runSoft f.guard f.dst (formRegs f) [a, b] (divLatency m)
    (fun s _ => .val s (aluResult op m a.v b.v 0) (divLatency m)) s
    (fun s t => if s.cyc < (s.tile t).bk.divBusy then none
      else some (s.modBk t fun k => { k with divBusy := s.cyc + divLatency m })))

/-- An unassigned banker word: at t+1 a poisoned value with its origin reaches a legal destination; a loop counter faults
POISON with that origin (R68). Its guard field is not read, of which R68 does not speak (log entry 156). -/
def execBPoisonWord (w : BitVec 64) (s : State) : Host.Outcome State Fault Refusal :=
  let t := s.actor
  let o := originB t (s.tile t).bk.pc
  let d := (bDstOf (wDk w.toNat) (wDi w.toNat)).getD .none
  .next (settle s t false d (match d with
    | .lc _ => poisonTrap s t o
    | d => if (s.tile t).bk.readyAt (dstSlot d) = pendingReg then .keep s else .done s (some { v := o, poison := true }) 1))

/-- `nop`: its guard is not read (R116). -/
def execBNop (_g : Guard) (s : State) : Host.Outcome State Fault Refusal := .next (retire s s.actor false none)

/-- `mov` (R116). -/
def execBMov (m : AluMods) (f : BForm) (s : State) : Host.Outcome State Fault Refusal := runAlu .mov m f s
/-- `add` (R116). -/
def execBAdd (m : AluMods) (f : BForm) (s : State) : Host.Outcome State Fault Refusal := runAlu .add m f s
/-- `sub` (R116). -/
def execBSub (m : AluMods) (f : BForm) (s : State) : Host.Outcome State Fault Refusal := runAlu .sub m f s
/-- `neg` (R116). -/
def execBNeg (m : AluMods) (f : BForm) (s : State) : Host.Outcome State Fault Refusal := runAlu .neg m f s
/-- `abs` (R116). -/
def execBAbs (m : AluMods) (f : BForm) (s : State) : Host.Outcome State Fault Refusal := runAlu .abs m f s
/-- `mul` (R116). -/
def execBMul (m : AluMods) (f : BForm) (s : State) : Host.Outcome State Fault Refusal := runAlu .mul m f s
/-- `mulh` (R116). -/
def execBMulh (m : AluMods) (f : BForm) (s : State) : Host.Outcome State Fault Refusal := runAlu .mulh m f s
/-- `mad` (R116). -/
def execBMad (m : AluMods) (f : BForm) (s : State) : Host.Outcome State Fault Refusal := runAlu .mad m f s
/-- `min` (R116). -/
def execBMin (m : AluMods) (f : BForm) (s : State) : Host.Outcome State Fault Refusal := runAlu .min m f s
/-- `max` (R116). -/
def execBMax (m : AluMods) (f : BForm) (s : State) : Host.Outcome State Fault Refusal := runAlu .max m f s
/-- `div` (R119). -/
def execDiv (m : AluMods) (f : BForm) (s : State) : Host.Outcome State Fault Refusal := runDiv .div m f s
/-- `rem` (R119). -/
def execRem (m : AluMods) (f : BForm) (s : State) : Host.Outcome State Fault Refusal := runDiv .rem m f s
/-- `clamp` (R116). -/
def execBClamp (m : AluMods) (f : BForm) (s : State) : Host.Outcome State Fault Refusal := runAlu .clamp m f s

/-- `movi` (R117). -/
def execBMovi (w : BWide) (s : State) : Host.Outcome State Fault Refusal :=
  .next (runSoft w.guard w.dst [] [] 1 (fun s _ => .val s (moviValue w.imm) 1) s)

/-- `movhi`: the destination is also a source (R117). -/
def execBMovhi (w : BWide) (s : State) : Host.Outcome State Fault Refusal :=
  let old : PReg := match w.dst with
    | .g i => Tab.get (s.tile s.actor).bk.r.g i.val
    | _ => {}
  .next (runSoft w.guard w.dst [dstSlot w.dst] [old] 1 (fun s _ => .val s (movhiValue old.v w.imm) 1) s)

/-- `and` (R118). -/
def execBAnd (m : AluMods) (f : BForm) (s : State) : Host.Outcome State Fault Refusal := runAlu .and m f s
/-- `or` (R118). -/
def execBOr (m : AluMods) (f : BForm) (s : State) : Host.Outcome State Fault Refusal := runAlu .or m f s
/-- `xor` (R118). -/
def execBXor (m : AluMods) (f : BForm) (s : State) : Host.Outcome State Fault Refusal := runAlu .xor m f s
/-- `andn` (R118). -/
def execBAndn (m : AluMods) (f : BForm) (s : State) : Host.Outcome State Fault Refusal := runAlu .andn m f s
/-- `not` (R118). -/
def execBNot (m : AluMods) (f : BForm) (s : State) : Host.Outcome State Fault Refusal := runAlu .not m f s
/-- `shl` (R118). -/
def execBShl (m : AluMods) (f : BForm) (s : State) : Host.Outcome State Fault Refusal := runAlu .shl m f s
/-- `shr` (R118). -/
def execBShr (m : AluMods) (f : BForm) (s : State) : Host.Outcome State Fault Refusal := runAlu .shr m f s
/-- `sar` (R118). -/
def execBSar (m : AluMods) (f : BForm) (s : State) : Host.Outcome State Fault Refusal := runAlu .sar m f s
/-- `rol` (R118). -/
def execBRol (m : AluMods) (f : BForm) (s : State) : Host.Outcome State Fault Refusal := runAlu .rol m f s
/-- `cmpeq` (R119). -/
def execBCmpeq (m : AluMods) (f : BForm) (s : State) : Host.Outcome State Fault Refusal := runAlu .cmpeq m f s
/-- `cmpne` (R119). -/
def execBCmpne (m : AluMods) (f : BForm) (s : State) : Host.Outcome State Fault Refusal := runAlu .cmpne m f s
/-- `cmplt` (R119). -/
def execBCmplt (m : AluMods) (f : BForm) (s : State) : Host.Outcome State Fault Refusal := runAlu .cmplt m f s
/-- `cmple` (R119). -/
def execBCmple (m : AluMods) (f : BForm) (s : State) : Host.Outcome State Fault Refusal := runAlu .cmple m f s
/-- `sel` (R119). -/
def execBSel (m : AluMods) (f : BForm) (s : State) : Host.Outcome State Fault Refusal := runAlu .sel m f s
/-- `clz` (R120). -/
def execBClz (m : AluMods) (f : BForm) (s : State) : Host.Outcome State Fault Refusal := runAlu .clz m f s
/-- `popc` (R120). -/
def execBPopc (m : AluMods) (f : BForm) (s : State) : Host.Outcome State Fault Refusal := runAlu .popc m f s
/-- `ctz` (R120). -/
def execBCtz (m : AluMods) (f : BForm) (s : State) : Host.Outcome State Fault Refusal := runAlu .ctz m f s
/-- `agen` (R121). -/
def execBAgen (m : AluMods) (f : BForm) (s : State) : Host.Outcome State Fault Refusal := runAlu .agen m f s
/-- `wrap` (R123). -/
def execBWrap (m : AluMods) (f : BForm) (s : State) : Host.Outcome State Fault Refusal := runAlu .wrap m f s
/-- `sext` (R120). -/
def execBSext (m : AluMods) (f : BForm) (s : State) : Host.Outcome State Fault Refusal := runAlu .sext m f s
/-- `zext` (R120). -/
def execBZext (m : AluMods) (f : BForm) (s : State) : Host.Outcome State Fault Refusal := runAlu .zext m f s
/-- `bswap` (R120). -/
def execBBswap (m : AluMods) (f : BForm) (s : State) : Host.Outcome State Fault Refusal := runAlu .bswap m f s

end Sys2Proof.Machine
end

