-- ==== Sys2Proof/Machine/System.lean ====
section
/-!
DEFINITION. The banker's system instructions, row 0xF (spec/18_system.md R397, R409 to R411, R418, R419), taking a posted
trap at an instruction boundary (R393, R396), and the replies a stalled banker waits for (spec/13_rings.md R311).
-/
namespace Sys2Proof.Machine

/-! ## System registers (R418) -/

/-- The register an instruction of a tile names, none where it faults SYS_REG (R418). -/
def instrReg (s : State) (t : Nat) (a : Word) : Option SysReg :=
  if 2 ^ 32 ≤ a.toNat ∨ a.toNat % 8 ≠ 0 then none
  else match sysRegAt s (ownOffset s t a.toNat) with
    | some r => if r.hostOnly then none else some r
    | none => none

/-- The register lies in the tile's own block, and is reached at t+1 (R418). -/
def ownBlock (t : Nat) : SysReg → Bool
  | .tile n _ => n == t
  | _ => false

/-- The banker stalls until its access has been performed: at t+1 in the own tile's block, otherwise when the reply arrives. -/
def awaitReply (s : State) (t : Nat) (own : Bool) (w : Stall) : BRes :=
  let s := s.modBk t fun b => { b with stall := w, answer := none }
  .keep (if own then schedule s (s.cyc + 1) (.replyArrival t 0) else s)

/-- An access to a system register (R418). -/
def accessReg (s : State) (t : Nat) (wr : Bool) (a v : Word) (d : BDst) : BRes :=
  match instrReg s t a with
  | none => .cause 0x23 a
  | some r => awaitReply s t (ownBlock t r) (.sysreg wr (ownOffset s t a.toNat) v d)

/-- `sysrd` (R418, R419). -/
def execSysrd (f : BForm) (s : State) : Host.Outcome State Fault Refusal := runForm f s fun s t a _ => accessReg s t false a 0 f.dst

/-- `syswr` (R418, R419). -/
def execSyswr (f : BForm) (s : State) : Host.Outcome State Fault Refusal := runForm f s fun s t a b => accessReg s t true a b .none

/-- The register access of a stalled banker, performed where the register is: what a read returns. -/
def performReg (s : State) (wr : Bool) (off : Nat) (v : Word) : State × Nat :=
  match sysRegAt s off with
  | none => (s, 0)
  | some r => if wr then (writeReg s r v, 0) else readReg s r

/-! ## Traps and returns -/

/-- `trap`: the trap of the next word, with A in INFO (R391, R419). -/
def execTrap (f : BForm) (s : State) : Host.Outcome State Fault Refusal :=
  runForm f s fun s t a _ =>
    if (s.tile t).bk.hasPending s.cyc then .keep s
    else
      let s := retire s t false none
      .keep (enterTrap s t { cause := 0x20, info := a } (s.tile t).bk.pc)

/-- An access of the banker to its trap frame, for some cycles of the shared port: MEM_ROLE where the frame's memory tile is none that a
banker may access (spec/09_memory.md R208, R210, R214; log entry 123). -/
def withFrame (s : State) (t n : Nat) (go : State → BRes) : BRes :=
  let (mt, off) := s.frameAt t
  if !(s.roleOf t mt).isBuffer then .cause 0x0C (BitVec.ofNat 64 (mt * 65536 + off))
  else if (s.port t mt).serves s.cyc 0 then go (usePort s t mt 0 n)
  else .keep (askPort s t mt 0)

/-- `rfe` (R397): the 48 double words are read through the shared port. The end test at its own word comes first, and all that the test can
change the return replaces (spec/07_control.md R165, log entry 135). -/
def execRfe (f : BForm) (s : State) : Host.Outcome State Fault Refusal :=
  runForm f s fun s t _ _ =>
    if (s.tile t).bk.hasPending s.cyc then .keep s
    else withFrame s t 48 fun s => .keep (leaveTrap (retire s t false none) t)

/-- `brk` of the banker: a precise trap (R409). -/
def execBBrk (f : BForm) (s : State) : Host.Outcome State Fault Refusal := runForm f s fun _ _ _ _ => .cause 0x21 0

/-- A posted trap may be taken at this boundary: traps are on, the banker runs, and it stands between instructions or in a stall
that a trap interrupts (R393, R396; spec/10_ordering.md R243, R248, spec/12_engines.md R284). -/
def mayTakeTrap (s : State) (t : Nat) : Bool :=
  let b := (s.tile t).bk
  (s.tile t).sys.ten && (s.tile t).sys.posted != [] && b.mode == 0 && b.emul.isNone && !b.hasPending s.cyc &&
    decide (b.nextIssue ≤ s.cyc) &&
    (match b.stall with
     | .none | .wait .. | .sbar .. | .edrain .. => true
     | _ => false)

/-- TRAP_ENTRY: the oldest posted trap is taken at an instruction boundary (R393, R396). -/
def execTrapEntry (t : Nat) (s : State) : Host.Outcome State Fault Refusal := .next (if mayTakeTrap s t then takePosted s t else s)

/-! ## Code, debug, halting -/

/-- Fetch cache and loop buffer of a tile invalidated (R410). -/
def dropCode (s : State) (t : Nat) : State := s.modBk t fun b => { b with fcache := [], lbvalid := false }

/-- The tiles in a scope of `bcinv`: 1 the tile, 2 the wall, 3 the package. -/
def codeTargets (s : State) (t scope : Nat) : List Nat :=
  if scope = 1 then [t] else (Tab.keys s.tiles).filter fun u => scope == 3 || s.wallOf u == s.wallOf t

/-- `bcinv` (R410). -/
def execBcinv (f : BForm) (s : State) : Host.Outcome State Fault Refusal :=
  runForm f s fun s t a _ =>
    if a.toNat = 0 ∨ 3 < a.toNat then .cause 0x24 a
    else if outstandingStores (s.tile t).mem .banker != [] then .keep s
    else .done ((codeTargets s t a.toNat).foldl dropCode s) none 1

/-- `trig`: an event with ID A[15:0], tested against the trigger (R412, R419). -/
def execBTrig (f : BForm) (s : State) : Host.Outcome State Fault Refusal :=
  runForm f s fun s t a _ =>
    let n := fld a.toNat 0 16
    .done (traceEvent s t (some (0, n)) true 0 (traceEntry s.cyc 5 true 0 0 n)) none 1

/-- `tmark` (R419). -/
def execBTmark (f : BForm) (s : State) : Host.Outcome State Fault Refusal :=
  runForm f s fun s t a _ => .done (traceEvent s t none true 0 (traceEntry s.cyc 4 true 0 0 a.toNat)) none 1

/-- The entry read by `sysrdt`: its low or high half. -/
def traceHalf (s : State) (t i : Nat) : Nat :=
  let e := Tab.get (s.tile t).sys.trace (i % 16384)
  if bitOf i 14 then e / 2 ^ 64 else e % 2 ^ 64

/-- The tile `sysrdt` names: bit 10 for the own tile. -/
def traceTile (t : Nat) (a : Word) : Nat := if bitOf a.toNat 10 then t else fld a.toNat 0 10

/-- `sysrdt` (R419); a tile that is not assigned is an invalid tile reference (spec/01_machine.md R17). -/
def execSysrdt (f : BForm) (s : State) : Host.Outcome State Fault Refusal :=
  runForm f s fun s t a b =>
    let u := traceTile t a
    if 2 ^ 11 ≤ a.toNat then .cause 0x24 a
    else if 2 ^ 15 ≤ b.toNat then .cause 0x24 b
    else if !s.tileOk u then .cause 0x1A a
    else awaitReply s t (u == t) (.traceRead u b.toNat f.dst)

/-- The 48-bit word in A of `emul` is one that is refused: row 0xF, `lbload` or `lbrun` (R411). -/
def emulRefuses (a : Word) : Bool :=
  let op := fld a.toNat 40 8
  a.toNat / 2 ^ 48 != 0 || decide (0xF0 ≤ op) || op == 0x48 || op == 0x49

/-- `emul`: the banker takes up the frame's registers and pc, which it reads through the shared port, to run the word (R411). A poisoned A is data like any other. -/
def execEmul (f : BForm) (s : State) : Host.Outcome State Fault Refusal :=
  let a := readB s s.actor f.a
  .next (runBanker false f.guard f.dst (formRegs f) []
    (fun s t =>
      if emulRefuses a.v then .nat s 0x01 8
      else if (s.tile t).bk.hasPending s.cyc then .keep s
      else withFrame s t 1 fun s =>
        let base := s.frameBase t
        .keep (s.modBk t fun b =>
          { b with emul := some { regs := b.r, pc := b.pc, frame := frameRegs s.mem base, epc := frameEpc s.mem base, d := f.dst,
                                  word := a.v.toNat },
                   r := frameRegs s.mem base, pc := frameEpc s.mem base, ready := [] })) s)

/-- `halt` (R419). -/
def execHalt (f : BForm) (s : State) : Host.Outcome State Fault Refusal :=
  runForm f s fun s t _ _ => .keep ((retire s t false none).modBk t fun b => { b with mode := 1 })

/-- `idle`: until a posted trap can be taken, or a host write of BCTL (R419). -/
def execIdle (f : BForm) (s : State) : Host.Outcome State Fault Refusal :=
  runForm f s fun s t _ _ => .keep (wakeIdle ((retire s t false none).modBk t fun b => { b with mode := 2 }) t)

/-- TRACE_FREEZE: the entries after the trigger have been recorded (R414). -/
def execTraceFreeze (t : Nat) (s : State) : Host.Outcome State Fault Refusal :=
  .next (s.modSys t fun x => if x.post = 1 then { x with frozen := true, post := 0 } else x)

/-! ## Replies (spec/13_rings.md R311) -/

/-- A stalled instruction of the own tile's block completes: it was issued in the cycle before. -/
def finishLast (s : State) (t : Nat) (d : BDst) (v : Nat) : State :=
  let s := writeB s t d { v := BitVec.ofNat 64 v } (s.cyc + 1)
  { retire { s with cyc := s.cyc - 1 } t false none with cyc := s.cyc }

/-- The access of an instruction on registers or on a trace is performed and the banker goes on; one of the own tile takes the
cycle after its issue. -/
def finishAccess (s : State) (t : Nat) (own : Bool) (d : BDst) (v : Nat) : State :=
  if own then finishLast s t d v else unstall s t d v

/-- The cycle in which an access to the tile's own block is performed is still to come. -/
def notYet (s : State) (t : Nat) : Bool := s.sched.any fun p => p.2 == .replyArrival t 0

/-- The acknowledgement of bytes counted in TILE.SBPEND. -/
def ackReply (s : State) (t n : Nat) : State := s.modMem t fun m => { m with sbpend := m.sbpend - n }

/-- A reply of another package: bit 63 says that it is a fault, with the cause and 48 bits of INFO above it; otherwise it is a
status and its payload. A write answered STALE is counted (spec/13_rings.md R308). -/
def farReply (s : State) (t : Nat) (d : BDst) (slot : Option Nat) (v : Word) : State :=
  if bitOf v.toNat 63 then
    preciseFault s t { cause := fld v.toNat 0 8, info := BitVec.ofNat 64 (fld v.toNat 8 48) } (s.tile t).bk.pc
  else
    let s := match slot with
      | some k => if fld v.toNat 0 8 = 0x06 then bumpStale s k else s
      | none => s
    unstall s t d v.toNat

/-- A reply of this package: a value, or the cause and the address of a fault of the instruction (R311, R391). -/
def nearReply (s : State) (t : Nat) (d : BDst) (l : List Nat) : State :=
  let s := s.modBk t fun b => { b with answer := none }
  match l with
  | [v] => unstall s t d v
  | c :: x :: _ => preciseFault s t { cause := c, info := BitVec.ofNat 64 x } (s.tile t).bk.pc
  | [] => s

/-- A reply is a fault. -/
def replyFaults (s : State) (t : Nat) (far : Bool) (remote : Word) : Bool :=
  if far then bitOf remote.toNat 63 else match (s.tile t).bk.answer with
    | some (_ :: _ :: _) => true
    | _ => false

/-- REPLY_ARRIVAL: the stalled banker writes d and resumes, or takes the fault of its instruction (R311). A fault waits until
the registers awaited from outside have landed (log entry 20). -/
def execReplyArrival (t : Nat) (remote : Word) (s : State) : Host.Outcome State Fault Refusal :=
  let b := (s.tile t).bk
  .next (match b.stall with
    | .reply d far pend slot =>
      if replyFaults s t far remote && b.hasPending s.cyc then s
      else if far then farReply (ackReply s t pend) t d slot remote
      else match b.answer with
        | some l => nearReply (ackReply s t pend) t d l
        | none => s
    | .record d => (match b.answer with
      | some l => nearReply (acquirePoint s t .banker) t d l
      | none => s)
    | .sysreg wr off v d =>
      let own := match sysRegAt s off with
        | some r => ownBlock t r
        | none => false
      if own && notYet s t then s
      else
        let (s, x) := performReg s wr off v
        finishAccess s t own d x
    | .traceRead u i d => if u == t && notYet s t then s else finishAccess s t (u == t) d (traceHalf s u i)
    | _ => s)

end Sys2Proof.Machine
end

