-- ==== Sys2Proof/Machine/Dispatch.lean ====
section
/-!
DEFINITION. What each instruction does: one call of its own meaning for every constructor of `Instr`.
-/
namespace Sys2Proof.Machine

def exec (i : Instr) (s : State) : Host.Outcome State Fault Refusal :=
  match i with
  | .regionFire c => Sys2Proof.Machine.execRegionFire c s
  | .bPoisonWord w => Sys2Proof.Machine.execBPoisonWord w s
  | .bNop g => Sys2Proof.Machine.execBNop g s
  | .bMov m f => Sys2Proof.Machine.execBMov m f s
  | .bAdd m f => Sys2Proof.Machine.execBAdd m f s
  | .bSub m f => Sys2Proof.Machine.execBSub m f s
  | .bNeg m f => Sys2Proof.Machine.execBNeg m f s
  | .bAbs m f => Sys2Proof.Machine.execBAbs m f s
  | .bMul m f => Sys2Proof.Machine.execBMul m f s
  | .bMulh m f => Sys2Proof.Machine.execBMulh m f s
  | .bMad m f => Sys2Proof.Machine.execBMad m f s
  | .bMin m f => Sys2Proof.Machine.execBMin m f s
  | .bMax m f => Sys2Proof.Machine.execBMax m f s
  | .div m f => Sys2Proof.Machine.execDiv m f s
  | .rem m f => Sys2Proof.Machine.execRem m f s
  | .bClamp m f => Sys2Proof.Machine.execBClamp m f s
  | .bMovi w => Sys2Proof.Machine.execBMovi w s
  | .bMovhi w => Sys2Proof.Machine.execBMovhi w s
  | .bAnd m f => Sys2Proof.Machine.execBAnd m f s
  | .bOr m f => Sys2Proof.Machine.execBOr m f s
  | .bXor m f => Sys2Proof.Machine.execBXor m f s
  | .bAndn m f => Sys2Proof.Machine.execBAndn m f s
  | .bNot m f => Sys2Proof.Machine.execBNot m f s
  | .bShl m f => Sys2Proof.Machine.execBShl m f s
  | .bShr m f => Sys2Proof.Machine.execBShr m f s
  | .bSar m f => Sys2Proof.Machine.execBSar m f s
  | .bRol m f => Sys2Proof.Machine.execBRol m f s
  | .bCmpeq m f => Sys2Proof.Machine.execBCmpeq m f s
  | .bCmpne m f => Sys2Proof.Machine.execBCmpne m f s
  | .bCmplt m f => Sys2Proof.Machine.execBCmplt m f s
  | .bCmple m f => Sys2Proof.Machine.execBCmple m f s
  | .bSel m f => Sys2Proof.Machine.execBSel m f s
  | .bClz m f => Sys2Proof.Machine.execBClz m f s
  | .bPopc m f => Sys2Proof.Machine.execBPopc m f s
  | .bCtz m f => Sys2Proof.Machine.execBCtz m f s
  | .bAgen m f => Sys2Proof.Machine.execBAgen m f s
  | .bWrap m f => Sys2Proof.Machine.execBWrap m f s
  | .bSext m f => Sys2Proof.Machine.execBSext m f s
  | .bZext m f => Sys2Proof.Machine.execBZext m f s
  | .bBswap m f => Sys2Proof.Machine.execBBswap m f s
  | .br w => Sys2Proof.Machine.execBr w s
  | .brr f => Sys2Proof.Machine.execBrr f s
  | .call w => Sys2Proof.Machine.execCall w s
  | .callr f => Sys2Proof.Machine.execCallr f s
  | .ret f => Sys2Proof.Machine.execRet f s
  | .jtab f => Sys2Proof.Machine.execJtab f s
  | .loop f => Sys2Proof.Machine.execLoop f s
  | .loopi w => Sys2Proof.Machine.execLoopi w s
  | .lbload f => Sys2Proof.Machine.execLbload f s
  | .lbrun f => Sys2Proof.Machine.execLbrun f s
  | .launch f => Sys2Proof.Machine.execLaunch f s
  | .launcht f => Sys2Proof.Machine.execLauncht f s
  | .cfgload f => Sys2Proof.Machine.execCfgload f s
  | .lintel f => Sys2Proof.Machine.execLintel f s
  | .compact f => Sys2Proof.Machine.execCompact f s
  | .lqstat f => Sys2Proof.Machine.execLqstat f s
  | .lcancel f => Sys2Proof.Machine.execLcancel f s
  | .ctxpri f => Sys2Proof.Machine.execCtxpri f s
  | .ctxevict f => Sys2Proof.Machine.execCtxevict f s
  | .orphan f => Sys2Proof.Machine.execOrphan f s
  | .cfgfree f => Sys2Proof.Machine.execCfgfree f s
  | .cfgstat f => Sys2Proof.Machine.execCfgstat f s
  | .bLd uns sz f => Sys2Proof.Machine.execBLd uns sz f s
  | .bSt sz f => Sys2Proof.Machine.execBSt sz f s
  | .bLdg m f => Sys2Proof.Machine.execBLdg m f s
  | .bStg m f => Sys2Proof.Machine.execBStg m f s
  | .bPf lv f => Sys2Proof.Machine.execBPf lv f s
  | .bTlook f => Sys2Proof.Machine.execBTlook f s
  | .bTset f => Sys2Proof.Machine.execBTset f s
  | .bTclr f => Sys2Proof.Machine.execBTclr f s
  | .bStmw m f => Sys2Proof.Machine.execBStmw m f s
  | .flush sc f => Sys2Proof.Machine.execFlush sc f s
  | .inval k sc f => Sys2Proof.Machine.execInval k sc f s
  | .bAadd m f => Sys2Proof.Machine.execBAadd m f s
  | .bAand m f => Sys2Proof.Machine.execBAand m f s
  | .bAor m f => Sys2Proof.Machine.execBAor m f s
  | .bAxor m f => Sys2Proof.Machine.execBAxor m f s
  | .bAmin m f => Sys2Proof.Machine.execBAmin m f s
  | .bAmax m f => Sys2Proof.Machine.execBAmax m f s
  | .bAxchg m f => Sys2Proof.Machine.execBAxchg m f s
  | .bAcas m f => Sys2Proof.Machine.execBAcas m f s
  | .bAfadd m f => Sys2Proof.Machine.execBAfadd m f s
  | .bFence o sc g => Sys2Proof.Machine.execBFence o sc g s
  | .bSig rel sc f => Sys2Proof.Machine.execBSig rel sc f s
  | .wait take acq sc f => Sys2Proof.Machine.execWait take acq sc f s
  | .sbar f => Sys2Proof.Machine.execSbar f s
  | .sigr rel sc f => Sys2Proof.Machine.execSigr rel sc f s
  | .ecmd f => Sys2Proof.Machine.execEcmd f s
  | .ecpy f => Sys2Proof.Machine.execEcpy f s
  | .egath f => Sys2Proof.Machine.execEgath f s
  | .escat f => Sys2Proof.Machine.execEscat f s
  | .efetch f => Sys2Proof.Machine.execEfetch f s
  | .ecoll f => Sys2Proof.Machine.execEcoll f s
  | .esig f => Sys2Proof.Machine.execEsig f s
  | .eexp f => Sys2Proof.Machine.execEexp f s
  | .eseq f => Sys2Proof.Machine.execEseq f s
  | .edrain f => Sys2Proof.Machine.execEdrain f s
  | .echainGo f => Sys2Proof.Machine.execEchainGo f s
  | .echainStop f => Sys2Proof.Machine.execEchainStop f s
  | .echainRetry f => Sys2Proof.Machine.execEchainRetry f s
  | .echainSkip f => Sys2Proof.Machine.execEchainSkip f s
  | .estat f => Sys2Proof.Machine.execEstat f s
  | .qform f => Sys2Proof.Machine.execQform f s
  | .qinj f => Sys2Proof.Machine.execQinj f s
  | .shset f => Sys2Proof.Machine.execShset f s
  | .shget f => Sys2Proof.Machine.execShget f s
  | .kvalloc f => Sys2Proof.Machine.execKvalloc f s
  | .kvfree f => Sys2Proof.Machine.execKvfree f s
  | .kvref f => Sys2Proof.Machine.execKvref f s
  | .kvpin f => Sys2Proof.Machine.execKvpin f s
  | .kvunpin f => Sys2Proof.Machine.execKvunpin f s
  | .kvwr f => Sys2Proof.Machine.execKvwr f s
  | .kvcommit f => Sys2Proof.Machine.execKvcommit f s
  | .ringstRead f => Sys2Proof.Machine.execRingstRead f s
  | .ringstWrite f => Sys2Proof.Machine.execRingstWrite f s
  | .ringstClear f => Sys2Proof.Machine.execRingstClear f s
  | .asld f => Sys2Proof.Machine.execAsld f s
  | .asgo f => Sys2Proof.Machine.execAsgo f s
  | .asstatRead f => Sys2Proof.Machine.execAsstatRead f s
  | .asstatClear f => Sys2Proof.Machine.execAsstatClear f s
  | .asstatStop f => Sys2Proof.Machine.execAsstatStop f s
  | .rqrd f => Sys2Proof.Machine.execRqrd f s
  | .rqwr f => Sys2Proof.Machine.execRqwr f s
  | .rqfault f => Sys2Proof.Machine.execRqfault f s
  | .rqstateRead f => Sys2Proof.Machine.execRqstateRead f s
  | .rqstateCancel f => Sys2Proof.Machine.execRqstateCancel f s
  | .rqstateFaults f => Sys2Proof.Machine.execRqstateFaults f s
  | .mfget f => Sys2Proof.Machine.execMfget f s
  | .mfnext f => Sys2Proof.Machine.execMfnext f s
  | .mfcnt f => Sys2Proof.Machine.execMfcnt f s
  | .rqspill f => Sys2Proof.Machine.execRqspill f s
  | .rqrecall f => Sys2Proof.Machine.execRqrecall f s
  | .rqadmit f => Sys2Proof.Machine.execRqadmit f s
  | .sacpt f => Sys2Proof.Machine.execSacpt f s
  | .scommit f => Sys2Proof.Machine.execScommit f s
  | .rngblk f => Sys2Proof.Machine.execRngblk f s
  | .vocldLoad f => Sys2Proof.Machine.execVocldLoad f s
  | .vocldUnload f => Sys2Proof.Machine.execVocldUnload f s
  | .qrgo f => Sys2Proof.Machine.execQrgo f s
  | .qrstat f => Sys2Proof.Machine.execQrstat f s
  | .qrstop f => Sys2Proof.Machine.execQrstop f s
  | .stgo f => Sys2Proof.Machine.execStgo f s
  | .ststat f => Sys2Proof.Machine.execStstat f s
  | .stclose f => Sys2Proof.Machine.execStclose f s
  | .sysrd f => Sys2Proof.Machine.execSysrd f s
  | .syswr f => Sys2Proof.Machine.execSyswr f s
  | .trap f => Sys2Proof.Machine.execTrap f s
  | .rfe f => Sys2Proof.Machine.execRfe f s
  | .bBrk f => Sys2Proof.Machine.execBBrk f s
  | .bcinv f => Sys2Proof.Machine.execBcinv f s
  | .bTrig f => Sys2Proof.Machine.execBTrig f s
  | .bTmark f => Sys2Proof.Machine.execBTmark f s
  | .emul f => Sys2Proof.Machine.execEmul f s
  | .halt f => Sys2Proof.Machine.execHalt f s
  | .idle f => Sys2Proof.Machine.execIdle f s
  | .sysrdt f => Sys2Proof.Machine.execSysrdt f s
  | .mPoisonWord w => Sys2Proof.Machine.execMPoisonWord w s
  | .mNop => Sys2Proof.Machine.execMNop s
  | .mMov d a => Sys2Proof.Machine.execMMov d a s
  | .mAdd d a b => Sys2Proof.Machine.execMAdd d a b s
  | .mAddImm d a imm => Sys2Proof.Machine.execMAddImm d a imm s
  | .mSub d a b => Sys2Proof.Machine.execMSub d a b s
  | .mSubImm d a imm => Sys2Proof.Machine.execMSubImm d a imm s
  | .mLi d imm => Sys2Proof.Machine.execMLi d imm s
  | .mBz a n => Sys2Proof.Machine.execMBz a n s
  | .mBnz a n => Sys2Proof.Machine.execMBnz a n s
  | .mJmp n => Sys2Proof.Machine.execMJmp n s
  | .mLoop d n => Sys2Proof.Machine.execMLoop d n s
  | .mWait take d a sem => Sys2Proof.Machine.execMWait take d a sem s
  | .mSig a sem => Sys2Proof.Machine.execMSig a sem s
  | .pgnext d => Sys2Proof.Machine.execPgnext d s
  | .pgload d => Sys2Proof.Machine.execPgload d s
  | .score => Sys2Proof.Machine.execScore s
  | .bmax => Sys2Proof.Machine.execBmax s
  | .rescale => Sys2Proof.Machine.execRescale s
  | .expp => Sys2Proof.Machine.execExpp s
  | .accpv => Sys2Proof.Machine.execAccpv s
  | .fold d a => Sys2Proof.Machine.execFold d a s
  | .rubmrg d => Sys2Proof.Machine.execRubmrg d s
  | .fwd => Sys2Proof.Machine.execFwd s
  | .fin a => Sys2Proof.Machine.execFin a s
  | .mHalt => Sys2Proof.Machine.execMHalt s
  | .mwaitPass tile => Sys2Proof.Machine.execMwaitPass tile s
  | .sequencerStart tile => Sys2Proof.Machine.execSequencerStart tile s
  | .cCopy h src dst dpkg desc xpkg eos => Sys2Proof.Machine.execCCopy h src dst dpkg desc xpkg eos s
  | .cGather h src dst dpkg idx count esz => Sys2Proof.Machine.execCGather h src dst dpkg idx count esz s
  | .cScatter h src dst dpkg idx xpkg count esz => Sys2Proof.Machine.execCScatter h src dst dpkg idx xpkg count esz s
  | .cFetch h man dst nent pbase pcount => Sys2Proof.Machine.execCFetch h man dst nent pbase pcount s
  | .cFill h pattern dst dpkg len xpkg => Sys2Proof.Machine.execCFill h pattern dst dpkg len xpkg s
  | .cRsig h saddr inc => Sys2Proof.Machine.execCRsig h saddr inc s
  | .cVexp2 h b => Sys2Proof.Machine.execCVexp2 h b s
  | .cVlog2 h b => Sys2Proof.Machine.execCVlog2 h b s
  | .cVrcp h b => Sys2Proof.Machine.execCVrcp h b s
  | .cVrsqrt h b => Sys2Proof.Machine.execCVrsqrt h b s
  | .cAllred h b => Sys2Proof.Machine.execCAllred h b s
  | .cAllgat h b => Sys2Proof.Machine.execCAllgat h b s
  | .cRedsc h b => Sys2Proof.Machine.execCRedsc h b s
  | .cBcast h b => Sys2Proof.Machine.execCBcast h b s
  | .cQtok h src dst vid res len maxtok => Sys2Proof.Machine.execCQtok h src dst vid res len maxtok s
  | .cSdet h src dst vid res count dmax => Sys2Proof.Machine.execCSdet h src dst vid res count dmax s
  | .cBstep h lane auto => Sys2Proof.Machine.execCBstep h lane auto s
  | .cNull h => Sys2Proof.Machine.execCNull h s
  | .engineCmdComplete tile chain => Sys2Proof.Machine.execEngineCmdComplete tile chain s
  | .collInstanceStart gid remote => Sys2Proof.Machine.execCollInstanceStart gid remote s
  | .placerPass wall => Sys2Proof.Machine.execPlacerPass wall s
  | .copyLoadDone c => Sys2Proof.Machine.execCopyLoadDone c s
  | .copyStart c => Sys2Proof.Machine.execCopyStart c s
  | .wheelEpoch tile => Sys2Proof.Machine.execWheelEpoch tile s
  | .countedEnd c => Sys2Proof.Machine.execCountedEnd c s
  | .launchEnd issuer lid => Sys2Proof.Machine.execLaunchEnd issuer lid s
  | .portTokenArrival src => Sys2Proof.Machine.execPortTokenArrival src s
  | .snapshotCut c => Sys2Proof.Machine.execSnapshotCut c s
  | .cutComplete c => Sys2Proof.Machine.execCutComplete c s
  | .cutWriteFault c => Sys2Proof.Machine.execCutWriteFault c s
  | .lintelSweepStart c => Sys2Proof.Machine.execLintelSweepStart c s
  | .lintelDiagonalSwitch c => Sys2Proof.Machine.execLintelDiagonalSwitch c s
  | .sweepCommit issuer lid => Sys2Proof.Machine.execSweepCommit issuer lid s
  | .sweepReversalDone issuer lid => Sys2Proof.Machine.execSweepReversalDone issuer lid s
  | .expEngineResult tile lane => Sys2Proof.Machine.execExpEngineResult tile lane s
  | .loadDataReturn tile id ecc => Sys2Proof.Machine.execLoadDataReturn tile id ecc s
  | .storeAck src ecc => Sys2Proof.Machine.execStoreAck src ecc s
  | .atomicReply tile id ecc => Sys2Proof.Machine.execAtomicReply tile id ecc s
  | .pageWalkComplete wall page ecc => Sys2Proof.Machine.execPageWalkComplete wall page ecc s
  | .stmwArrival src member => Sys2Proof.Machine.execStmwArrival src member s
  | .sigrArrival src => Sys2Proof.Machine.execSigrArrival src s
  | .waitPass tile => Sys2Proof.Machine.execWaitPass tile s
  | .sbarArrival tile => Sys2Proof.Machine.execSbarArrival tile s
  | .barrierRootArrival bar => Sys2Proof.Machine.execBarrierRootArrival bar s
  | .sbarResume tile => Sys2Proof.Machine.execSbarResume tile s
  | .edrainDone tile => Sys2Proof.Machine.execEdrainDone tile s
  | .replyArrival tile remote => Sys2Proof.Machine.execReplyArrival tile remote s
  | .ringSplice stop dir => Sys2Proof.Machine.execRingSplice stop dir s
  | .matchUnitExamine src => Sys2Proof.Machine.execMatchUnitExamine src s
  | .kvUnitOperation tile remote ecc => Sys2Proof.Machine.execKvUnitOperation tile remote ecc s
  | .recordStoreOperation => Sys2Proof.Machine.execRecordStoreOperation s
  | .setterWakeServe eng => Sys2Proof.Machine.execSetterWakeServe eng s
  | .requestFrame port peer bytes => Sys2Proof.Machine.execRequestFrame port peer bytes s
  | .cancelFrame port peer bytes => Sys2Proof.Machine.execCancelFrame port peer bytes s
  | .objReadReply packet => Sys2Proof.Machine.execObjReadReply packet s
  | .objReadTimeout tag => Sys2Proof.Machine.execObjReadTimeout tag s
  | .trapEntry tile => Sys2Proof.Machine.execTrapEntry tile s
  | .traceFreeze tile => Sys2Proof.Machine.execTraceFreeze tile s
  | .hostMemoryRead pa len cxl ecc => Sys2Proof.Machine.execHostMemoryRead pa len cxl ecc s
  | .hostMemoryWrite pa bytes ecc => Sys2Proof.Machine.execHostMemoryWrite pa bytes ecc s
  | .registerWrite off v => Sys2Proof.Machine.execRegisterWrite off v s
  | .clearOnRead off => Sys2Proof.Machine.execClearOnRead off s
  | .evqRead => Sys2Proof.Machine.execEvqRead s
  | .bkmtWrite tile v => Sys2Proof.Machine.execBkmtWrite tile v s
  | .chainEnable tile chain v => Sys2Proof.Machine.execChainEnable tile chain v s
  | .chainDisable tile chain v => Sys2Proof.Machine.execChainDisable tile chain v s
  | .mwinWrite tile win v => Sys2Proof.Machine.execMwinWrite tile win v s
  | .rscfgWrite tile v => Sys2Proof.Machine.execRscfgWrite tile v s
  | .kvpoolEnable tile v => Sys2Proof.Machine.execKvpoolEnable tile v s
  | .kvpoolDisable tile v => Sys2Proof.Machine.execKvpoolDisable tile v s
  | .ascfgWrite tile v => Sys2Proof.Machine.execAscfgWrite tile v s
  | .asstartGo tile v => Sys2Proof.Machine.execAsstartGo tile v s
  | .resumeCopies tile v => Sys2Proof.Machine.execResumeCopies tile v s
  | .resumeCancel tile v => Sys2Proof.Machine.execResumeCancel tile v s
  | .snapbaseWrite tile v => Sys2Proof.Machine.execSnapbaseWrite tile v s
  | .tracectlWrite tile v => Sys2Proof.Machine.execTracectlWrite tile v s
  | .trigctlWrite tile v => Sys2Proof.Machine.execTrigctlWrite tile v s
  | .bctlRun tile v => Sys2Proof.Machine.execBctlRun tile v s
  | .wayresWrite wall v => Sys2Proof.Machine.execWayresWrite wall v s
  | .ordctlWrite v => Sys2Proof.Machine.execOrdctlWrite v s
  | .orderModeChange => Sys2Proof.Machine.execOrderModeChange s
  | .sbarRegWrite bar v => Sys2Proof.Machine.execSbarRegWrite bar v s
  | .cgrpWrite gid v => Sys2Proof.Machine.execCgrpWrite gid v s
  | .bfcfgWrite off v => Sys2Proof.Machine.execBfcfgWrite off v s
  | .qrbufWrite v => Sys2Proof.Machine.execQrbufWrite v s
  | .sampcfgWrite off v => Sys2Proof.Machine.execSampcfgWrite off v s
  | .arcStart v => Sys2Proof.Machine.execArcStart v s
  | .arcHello nums => Sys2Proof.Machine.execArcHello nums s
  | .coldReset => Sys2Proof.Machine.execColdReset s
  | .warmReset => Sys2Proof.Machine.execWarmReset s
  | .pendingWarmReset => Sys2Proof.Machine.execPendingWarmReset s
  | .pwrReqWrite v => Sys2Proof.Machine.execPwrReqWrite v s
  | .powerStateChange => Sys2Proof.Machine.execPowerStateChange s
  | .droopEpisode cycles => Sys2Proof.Machine.execDroopEpisode cycles s
  | .flashFirmware v => Sys2Proof.Machine.execFlashFirmware v s
  | .flashConfigBlock v => Sys2Proof.Machine.execFlashConfigBlock v s
  | .flashDegradationTable v => Sys2Proof.Machine.execFlashDegradationTable v s
  | .flashDone => Sys2Proof.Machine.execFlashDone s
  | .attestGo v => Sys2Proof.Machine.execAttestGo v s
  | .attestDone => Sys2Proof.Machine.execAttestDone s
  | .cxlEnable port v => Sys2Proof.Machine.execCxlEnable port v s
  | .cxlDisable port v => Sys2Proof.Machine.execCxlDisable port v s
  | .cxlLinkDown port => Sys2Proof.Machine.execCxlLinkDown port s
  | .linkLaneError link dir lane errors => Sys2Proof.Machine.execLinkLaneError link dir lane errors s
  | .freeze => Sys2Proof.Machine.execFreeze s
  | .unfreeze => Sys2Proof.Machine.execUnfreeze s
  | .cxlLinkTrained port => Sys2Proof.Machine.execCxlLinkTrained port s
  | .supplyRecovery => Sys2Proof.Machine.execSupplyRecovery s
  | .frameOnUnimplementedMode port bytes => Sys2Proof.Machine.execFrameOnUnimplementedMode port bytes s
  | .pfFillComplete tile id ecc => Sys2Proof.Machine.execPfFillComplete tile id ecc s

end Sys2Proof.Machine
end

