-- ==== Sys2Proof/Machine/Turns.lean ====
section
/-!
DEFINITION. What happens next: the events whose cycle the spec fixes, the turns of the executors and of the outside world, and
the instruction that an executor's turn runs. The order in which turns come is the model's own choice (log entry 1): it is
`State.agenda`, or free where that is empty.
-/
namespace Sys2Proof.Machine

/-! ## Events whose cycle is fixed -/

/-- A launch that ends now (spec/01_machine.md R37). -/
def endingLaunch (s : State) : Option (Nat × Nat) :=
  s.tiles.findSome? fun t => t.2.launches.findSome? fun l => if launchEnds s t.1 l.1 then some (t.1, l.1) else none

/-- A stopped copy with a sink that still lacks end-of-stream (spec/08_launch.md R194). -/
def endingCopy (s : State) : Option CopyRef :=
  (s.copies.find? fun c => c.phase == .stopped && landed s c && !(s.launch c.ref.issuer c.ref.lid).cancelling &&
    c.kern.sinks.any fun m => !sinkEnded c m).map (·.ref)

/-- A test of a semaphore that is met: a banker's, a sequencer's, or an engine's, which starts its command (spec/10_ordering.md R240). -/
def metTest (s : State) : Option (State × Instr) :=
  s.tiles.findSome? fun (t, x) =>
    let banker := match x.bk.stall with
      | .wait sem thr .. => x.bk.mode == 0 && decide (thr ≤ s.semOf t sem)
      | _ => false
    if banker then some (s, .waitPass t)
    else if x.seq.st == 2 && decide (x.seq.mwThr ≤ s.semOf t x.seq.mwSem) then some (s, .mwaitPass t)
    else x.chains.findSome? fun (c, k) =>
      if k.run == .waiting && decide (k.next ≤ s.cyc) && k.en && !k.flt && decide (fld k.record 24 16 ≤ s.semOf t (fld k.record 16 8)) then
        (decodeC k.record).map fun i => ({ s with actor := t, actorChain := c }, i)
      else none

/-- A tile whose barrier arrival is sent now (spec/10_ordering.md R247). -/
def arrivingTile (s : State) : Option Nat :=
  s.tiles.findSome? fun p => if (unsentBar s p.1).isSome && arrivalReady s p.1 then some p.1 else none

/-- What a ring stop does now: a first slot is examined, or a splice is made (spec/13_rings.md R297, R304). -/
def ringEvent (s : State) : Option Instr :=
  match s.net.exams with
  | t :: _ => some (.matchUnitExamine (.stop t))
  | [] => (nextSplice s).map fun x => .ringSplice x.1 (if x.2 = 0 then .cw else .ccw)

/-- The events of the host, of the management controller and of the links, which go on while the fabric clock is stopped
(spec/18_system.md R415, spec/19_boundary.md R427). -/
def isHostEvent : Instr → Bool
  | .hostMemoryRead .. | .hostMemoryWrite .. | .registerWrite .. | .clearOnRead .. | .evqRead | .bkmtWrite .. | .chainEnable ..
  | .chainDisable .. | .mwinWrite .. | .rscfgWrite .. | .kvpoolEnable .. | .kvpoolDisable .. | .ascfgWrite .. | .asstartGo ..
  | .resumeCopies .. | .resumeCancel .. | .snapbaseWrite .. | .tracectlWrite .. | .trigctlWrite .. | .bctlRun .. | .wayresWrite ..
  | .ordctlWrite .. | .sbarRegWrite .. | .cgrpWrite .. | .bfcfgWrite .. | .qrbufWrite .. | .sampcfgWrite .. | .arcStart ..
  | .coldReset | .warmReset | .pwrReqWrite .. | .powerStateChange | .droopEpisode .. | .flashFirmware .. | .flashConfigBlock ..
  | .flashDegradationTable .. | .flashDone | .attestGo .. | .attestDone | .cxlEnable .. | .cxlDisable .. | .cxlLinkDown ..
  | .linkLaneError .. | .freeze | .unfreeze | .cxlLinkTrained .. | .supplyRecovery | .frameOnUnimplementedMode .. => true
  | _ => false

/-- The first turn or access of a cycle comes after its firings and its slot writes: what it reads through a shared port is what stood at
the start of the cycle, and what it writes stands behind the slot writes (spec/09_memory.md R211). -/
def openTurn (s : State) : State := if s.turnAt ≤ s.cyc then { landStores s with turnAt := s.cyc + 1 } else s

/-- The events of this cycle that may access memory tiles through shared ports: what a ring stop does, and a test that is met, which may
start a command; and barrier arrivals. -/
def portNow (s : State) : Option (State × Instr) :=
  match ringEvent s with
  | some i => some (s, i)
  | none => match metTest s with
    | some r => some r
    | none => (arrivingTile s).map fun t => (s, .sbarArrival t)

/-- The next event of this cycle among those whose cycle is fixed: what is scheduled, a pending reset, and, while the clock runs, a mode
change, launch ends, cuts, sweeps, and the firings of regions; then, behind the slot writes of the cycle, ring stops, tests that are met and
barrier arrivals (spec/01_machine.md R27, spec/09_memory.md R211). -/
def exactNow (s : State) : Option (State × Instr) :=
  let due := match s.sched with
    | (n, i) :: rest => if n ≤ s.cyc ∧ (clockRuns s ∨ isHostEvent i) then some ({ s with sched := rest }, i) else none
    | [] => none
  match due with
  | some r => some r
  | none =>
    if resetReady s then some (s, .pendingWarmReset)
    else if !clockRuns s then none
    else if orderReady s then some (s, .orderModeChange)
    else match endingLaunch s with
      | some (t, lid) => some (s, .launchEnd t lid)
      | none => match endingCopy s with
        | some c => some (s, .countedEnd c)
        | none => match s.copies.find? (cutReady s) with
          | some c => some (s, .snapshotCut c.ref)
          | none => match s.copies.find? (sweepReady s) with
            | some c => some (s, .lintelSweepStart c.ref)
            | none => match (if s.turnAt ≤ s.cyc then nextFiring s else none) with
              | some c => some (s, .regionFire c)
              | none => portNow (openTurn s)

/-! ## Events whose cycle is free -/

/-- Events of the device that come about some time after their cause. -/
def isFreeEvent : Instr → Bool
  | .engineCmdComplete .. | .collInstanceStart .. | .copyLoadDone .. | .portTokenArrival .. | .cutComplete ..
  | .cutWriteFault .. | .loadDataReturn .. | .storeAck .. | .atomicReply .. | .pageWalkComplete .. | .stmwArrival .. | .sigrArrival ..
  | .barrierRootArrival .. | .sbarResume .. | .edrainDone .. | .replyArrival ..
  | .matchUnitExamine (.arcade ..) | .matchUnitExamine (.dropped _) | .kvUnitOperation .. | .recordStoreOperation | .setterWakeServe .. | .requestFrame ..
  | .cancelFrame .. | .objReadReply .. | .objReadTimeout .. | .arcHello .. | .pfFillComplete .. => true
  | i => isHostEvent i

/-- An event may take place in a turn as the clock stands. -/
def eventRuns (s : State) (i : Instr) : Bool := if clockRuns s then isFreeEvent i else isHostEvent i

/-! ## Executors -/

/-- The values of the operands of a word, for the words whose instruction depends on one. -/
def operandVal (s : State) (t : Nat) (x : BSrc) : Nat := (readB s t x).v.toNat

/-- The bits of the frame's double word at `off` that the emulated word changed are written; the others, which it may have stored to,
stay. A memory tile that the word has made free is not written (spec/09_memory.md R208). -/
def frameChange (s : State) (t off old new : Nat) : State :=
  let (mt, base) := s.frameAt t
  if old = new || !(s.roleOf t mt).isBuffer then s
  else
    let m := leNat (readNow s t mt (base + off) 8)
    writeMt (queuePort s t mt 0) t mt (base + off) (leBytes 8 (m ^^^ ((m ^^^ new) &&& (old ^^^ new)))) none

/-- The frame takes what an emulated word left in the registers, and the handler goes on with d = 0x00 (R411). -/
def emulDone (s : State) (t : Nat) (e : Emul) : State :=
  let b := (s.tile t).bk
  let old := frameWords e.frame {} e.epc
  let new := frameWords b.r {} b.pc
  let s := (List.range 48).foldl (fun s i => frameChange s t (8 * i) (old.getD i 0) (new.getD i 0)) s
  s.modBk t fun b => endEmul b s.cyc e 0

/-- The acting banker. -/
def actAs (s : State) (t : Nat) : State := { s with actor := t }

/-- The word a banker runs at its pc: it is decoded with the operand values as they stand. -/
def bankerWord (s : State) (t w : Nat) : State × Option Instr := (actAs s t, some (decodeB (operandVal s t) w))

/-- An instruction of a banker whose traps are on takes a precise fault: traps are off behind it, or the banker has stopped. -/
def faultsNow (s : State) (t : Nat) (i : Instr) : Bool :=
  match exec i s with
  | .next u => !(u.tile t).sys.ten || (u.tile t).bk.mode == 3
  | _ => false

/-- A banker stands at a boundary with a posted trap: it is taken, unless the word at the pc meets a precise fault, which goes first
(R393). -/
def boundaryTurn (s : State) (t : Nat) : State × Option Instr :=
  let b := (s.tile t).bk
  if b.stall ≠ .none then (s, some (.trapEntry t))
  else if fetchWaits s t b.pc then (askArea s t 0 b.pc.toNat 8, none)
  else match fetchWord s t b.pc with
    | .error tr => (fetchFault s t tr b.pc, none)
    | .ok (s', w) => match bankerWord s' t w with
      | (u, some i) => if faultsNow u t i then (u, some i) else (s, some (.trapEntry t))
      | (_, none) => (s, some (.trapEntry t))

/-- A banker issues: its posted trap, or the word at its pc, or the word it emulates (R58, R59, R393, R411). -/
def bankerTurn (s : State) (t : Nat) : State × Option Instr :=
  let b := (s.tile t).bk
  if b.mode ≠ 0 then (s, none)
  else if mayTakeTrap s t then boundaryTurn s t
  else if b.stall ≠ .none ∨ s.cyc < b.nextIssue then (s, none)
  else match b.emul with
    | some e => if e.ran then (if b.hasPending s.cyc then s else emulDone s t e, none) else bankerWord s t e.word
    | none =>
      if fetchWaits s t b.pc then (askArea s t 0 b.pc.toNat 8, none)
      else match fetchWord s t b.pc with
        | .ok (s', w) => bankerWord s' t w
        | .error tr => (if b.hasPending s.cyc then s else fetchFault s t tr b.pc, none)

/-- A sequencer issues the microword at its pc, or obeys a stop (spec/14_attention.md R318, R321). -/
def sequencerTurn (s : State) (t : Nat) : State × Option Instr :=
  let q := (s.tile t).seq
  if !q.mayIssue s.cyc then (s, none)
  else if q.stopReq && q.mid == .none then (seqIdle s t, none)
  else (actAs s t, some (decodeM (Tab.get q.store (q.pc % 1024))))

/-- An engine reads the head record of its chain, in one access of the shared port, or goes on with the command it runs
(spec/12_engines.md R280, spec/02_words.md R71). -/
def engineTurn (s : State) (t : Nat) (c : Fin 4) : State × Option Instr :=
  let x := s.chain t c.val
  let s := { s with actor := t, actorChain := c.val }
  if !x.en || x.flt then (s, none)
  else match x.run with
    | .idle =>
      if x.hold || x.issued == x.done then (s, none)
      else match portRead s t c.val x.mt (x.slotOff x.head) 32 with
        | .error (s, e) => (cmdStop s t c.val e, none)
        | .ok (s, b) => match decodeC (leNat b) with
          | some i =>
            if servedBy c.val i then (s.modChain t c.val fun x => { x with record := leNat b }, some i)
            else (chainFault s t c.val 0x1D 0, none)
          | none => (chainFault s t c.val 0x1D 0, none)
    | _ => (s, decodeC x.record)

/-- The instruction a turn runs, if any. Executors stand still while the clock is stopped. -/
def turnInstr (s : State) (w : Who) : State × Option Instr :=
  match w with
  | .event i => (s, if eventRuns s i then some i else none)
  | .banker t => if clockRuns s && s.tileOk t then bankerTurn (ageAsked s t 0) t else (s, none)
  | .sequencer t => if clockRuns s && s.tileOk t then sequencerTurn (ageAsked s t 5) t else (s, none)
  | .engine t c => if clockRuns s && s.tileOk t then engineTurn (ageAsked s t (1 + c.val)) t c else (s, none)

/-! ## Turns -/

/-- The next turn: the first of the agenda, or a free one. -/
def takeTurn (s : State) : State × Turn :=
  match s.agenda with
  | x :: rest => ({ s with agenda := rest }, x)
  | [] => ({ s with draws := s.draws + 1 }, Config.freeTurn s.draws)

/-- Cycles pass until the turn's time or until an event whose cycle is fixed: what is left of the delay. A stopped clock counts
no cycles. -/
def passCycles : Nat → State → State × Nat
  | 0, s => (s, 0)
  | n + 1, s =>
    if !clockRuns s then (s, 0)
    else if (exactNow s).isSome then (s, n + 1)
    else passCycles n (tickOnce s)

/-- What happens next: an event whose cycle is fixed, with the turn put off, or the turn itself. -/
def pick (s : State) : State × Option Instr :=
  let (s, x) := takeTurn s
  let (s, left) := passCycles x.delay s
  match exactNow s with
  | some (s, i) => ({ s with agenda := { x with delay := left } :: s.agenda, strike := 0, held := [] }, some i)
  | none => turnInstr { openTurn s with strike := x.ecc, held := [] } x.who

/-! ## Placing an instruction for the next step -/

/-- The turn of an executor comes next, at once. -/
def turnOf (s : State) (w : Who) : State := { s with agenda := { delay := 0, who := w } :: s.agenda }

/-- A microword at the pc of tile 0's sequencer, which runs. -/
def withMicroword (s : State) (w : Nat) : State :=
  turnOf (s.modSeq 0 fun q => { q with store := Tab.set q.store (q.pc % 1024) (w % 2 ^ 32), st := 1, nextIssue := min q.nextIssue s.cyc,
                                       engine := 0, stopReq := false }) (.sequencer 0)

/-- The chain that serves a record, by its TYPE (spec/12_engines.md R277). -/
def chainFor (w : Nat) : Fin 4 :=
  let ty := fld w 0 8
  if ty < 0x10 then 0 else if ty < 0x20 then 1 else if ty < 0x30 then 2 else if ty < 0xFF then 3 else 0

/-- A record at the head of an enabled chain of tile 0 that serves it; the chain lies in memory tile 0, which is the banker's. -/
def withRecord (s : State) (w : Nat) : State :=
  let c := chainFor w
  let x : Chain := { en := true, sz := 1, issued := 1 }
  let s := s.modChain 0 c.val fun _ => x
  turnOf { s with mem := writeBytes s.mem (mtAddr 0 0 (x.slotOff x.head)) (leBytes 32 w) } (.engine 0 c)

/-- A word at the pc of tile 0's banker, in its fetch cache; the banker runs. -/
def withBankerWord (s : State) (w : Nat) : State :=
  turnOf (s.modBk 0 fun b =>
    { b with mode := 0, stall := .none, emul := none, lbvalid := false, nextIssue := min b.nextIssue s.cyc,
             pc := b.pc / 8 * 8, fcache := ((b.pc / 8 * 8).toNat, w % 2 ^ 64) :: b.fcache }) (.banker 0)

end Sys2Proof.Machine
end

