-- ==== Sys2Proof/Machine/Step.lean ====
section
/-!
DEFINITION. One step of the machine: the next event or turn (`pick`), and the instruction it runs. `State.withFetchWord` places
an instruction where the very next step fetches it (log entry 70 says how a program comes to run after reset).
-/
namespace Sys2Proof.Machine

/-- One step. -/
def step (s : State) : Host.Outcome State Fault Refusal :=
  match pick s with
  | (s', some i) => exec i s'
  | (s', none) => .next s'

/-- The state in which the very next step fetches and runs the given instruction: a microword stands in the control store of
tile 0, a command record at the head of a chain that serves it, any other word in the fetch cache of tile 0's banker. -/
def State.withFetchWord (s : State) (nbits w : Nat) : State :=
  if nbits = 32 then withMicroword s w else if nbits = 256 then withRecord s w else withBankerWord s w

end Sys2Proof.Machine
end

