-- ==== Sys2Proof/Safety.lean ====
section
/-!
DEFINITION. The words claims are stated in: what a safe state is, when a banker instruction issues, how one leaves the
machine when it has retired, and what one leaves alone. No instruction of this device stops the model, so a safe run is one
through states of the form `Safe`.
-/
namespace Sys2Proof.Machine

/-- A step answers a next state: neither a fault nor a refusal. -/
def goesOn (r : Host.Outcome State Fault Refusal) : Prop := ∃ t, r = .next t

/-- Memory is in its canonical form: addresses rise strictly and no zero byte is listed. -/
def Safe (s : State) : Prop := Memory.wf s.mem = true

/-- The banker whose turn it is. -/
abbrev State.banker (s : State) : Banker := (s.tile s.actor).bk

/-- A banker instruction with guard `g`, destination `d`, registers to be read `need` and source values `srcs` issues in its
turn: its guard flag has landed (spec/04_integer.md R113), is not poisoned (R70, R115) and lets it run (R114); the registers
it reads have landed and its destination awaits nothing from outside the banker (R113); no source is poisoned (R68, R70). -/
structure Issues (s : State) (g : Guard) (d : BDst) (need : List Nat) (srcs : List PReg) : Prop where
  guardLanded : s.banker.readyAt (32 + g.idx.val) ≤ s.cyc
  guardClean : (s.banker.r.flag g.idx.val).poison = false
  guardTrue : (s.banker.r.flag g.idx.val).b = !g.neg
  landed : ∀ i ∈ need, s.banker.readyAt i ≤ s.cyc
  dstLanded : s.banker.readyAt (dstSlot d) ≠ pendingReg
  clean : ∀ p ∈ srcs, p.poison = false

/-- A banker instruction in the layout of R46 issues. -/
def IssuesForm (s : State) (f : BForm) : Prop :=
  Issues s f.guard f.dst (formRegs f) [readB s s.actor f.a, readB s s.actor f.b, readB s s.actor f.c]

/-- A banker instruction in the wide-immediate form of R55 issues. -/
def IssuesWide (s : State) (w : BWide) : Prop := Issues s w.guard w.dst [] []

/-- What source A, B or C of a form reads as, for the acting banker (spec/02_words.md R58). -/
def srcA (s : State) (f : BForm) : Word := (readB s s.actor f.a).v
@[inherit_doc srcA] def srcB (s : State) (f : BForm) : Word := (readB s s.actor f.b).v
@[inherit_doc srcA] def srcC (s : State) (f : BForm) : Word := (readB s s.actor f.c).v

/-- The acting banker's instruction retires out of `u`, having issued in `s` with the value `v` for its destination after
`lat` cycles. -/
def wrote (s u : State) (d : BDst) (v : Word) (lat : Nat) : State :=
  retire (writeB u s.actor d { v := v } (s.cyc + lat)) s.actor false none

/-- The acting banker's instruction retires out of `u` and writes no register. -/
def movedOn (s u : State) : State := retire u s.actor false none

/-- The pc stands at no end word of an active hardware loop (spec/07_control.md R165). -/
def NoLoopEnd (b : Banker) : Prop := ∀ n < 3, Tab.get b.r.active n = true → Tab.get b.r.stop n ≠ b.pc

/-- In `t` an increment by `n` of semaphore `i` of tile `u` is due in the cycle after that of `s`, before any test of that cycle
(spec/10_ordering.md R240, log entry 133). -/
def Raised (s t : State) (u i n : Nat) : Prop :=
  { at' := s.cyc + 1, phase := 1, iss := s.cyc, act := .semAdd u i n } ∈ t.due

/-- The acting banker's access to `n` bytes from `off` in memory tile `mt` is served now: none of its own outstanding accesses
meets those bytes (spec/09_memory.md R218), and the shared port serves it (R210). -/
structure PortFree (s : State) (mt off n : Nat) (load : Bool) : Prop where
  own : localBlocked s s.actor mt off n load = false
  port : (s.port s.actor mt).serves s.cyc 0 = true

/-- Where the home of a physical address is a memory tile, its shared port serves the crossbar now (spec/09_memory.md R210). -/
def HomeServes (s : State) (pa : Nat) : Prop :=
  ∀ k mt off, s.place pa = .tileMem k mt off → (s.port k mt).serves s.cyc 4 = true

/-- Between `s` and `t` a message of `n` slots for a tile of a package joined the injection queue of tile `u`'s stop: a query token waits
for the clockwise ring, another message for the direction with fewer hops (spec/13_rings.md R296). -/
structure Injected (s t : State) (u pkg tile n : Nat) (query : Bool) (load : RingLoad) : Prop where
  msgs : t.net.msgs = s.net.msgs ++ [{ id := s.net.nextMsg, load := load, src := u }]
  queue :
    let r := physOf s.hw u / 16
    let p := physOf s.hw u % 16
    let d := if query then 0 else nearDir 17 p (leaveAt s r { pkg := pkg, tile := tile })
    (t.net.stop r d p).queue = (s.net.stop r d p).queue ++
      (List.range n).map fun k => { msg := s.net.nextMsg, k := k, n := n, query := query, pkg := pkg, tile := tile }

/-- Between `s` and `t` nothing outside tile `a` changed: no byte of memory, no other tile, no wall, nothing of the plinth,
the management block or the flash, no region, no act, signal or event to come, no message inside the package or out of it, and
no cycle passed. -/
structure OutsideKept (s t : State) (a : Nat) : Prop where
  mem : ∀ x, readByte t.mem x = readByte s.mem x
  tiles : ∀ u, u ≠ a → t.tile u = s.tile u
  walls : ∀ w, t.wall w = s.wall w
  plinth : t.plinth = s.plinth
  mgmt : t.mgmt = s.mgmt
  hw : t.hw = s.hw
  copies : t.copies = s.copies
  due : t.due = s.due
  sched : t.sched = s.sched
  out : t.out = s.out
  cyc : t.cyc = s.cyc
  signals : t.signals = s.signals
  xbar : t.xbar = s.xbar
  net : t.net = s.net

/-- Between `s` and `t` nothing of tile `a` changed but its banker's registers and issue state and its trap and debug
registers. -/
structure TileKept (s t : State) (a : Nat) : Prop where
  seq : (t.tile a).seq = (s.tile a).seq
  ring : (t.tile a).ring = (s.tile a).ring
  mem : (t.tile a).mem = (s.tile a).mem
  sem : (t.tile a).sem = (s.tile a).sem
  launches : (t.tile a).launches = (s.tile a).launches
  lidNext : (t.tile a).lidNext = (s.tile a).lidNext
  orphan : (t.tile a).orphan = (s.tile a).orphan
  wheel : (t.tile a).wheel = (s.tile a).wheel
  chains : (t.tile a).chains = (s.tile a).chains
  lanes : (t.tile a).lanes = (s.tile a).lanes
  hist : (t.tile a).hist = (s.tile a).hist

/-- Between `s` and `t` no register of banker `a` changed but the destination `d`: every other general register and flag, and,
where no active loop ends at the pc, every other loop counter; start and end addresses of loops stay. -/
structure RegsKept (s t : State) (a : Nat) (d : BDst) : Prop where
  g : ∀ i : Fin 32, d ≠ .g i → Tab.get (t.tile a).bk.r.g i.val = Tab.get (s.tile a).bk.r.g i.val
  f : ∀ i : Fin 8, d ≠ .f i → (t.tile a).bk.r.flag i.val = (s.tile a).bk.r.flag i.val
  lc : NoLoopEnd (s.tile a).bk → ∀ i : Fin 3, d ≠ .lc i → Tab.get (t.tile a).bk.r.lc i.val = Tab.get (s.tile a).bk.r.lc i.val
  start : ∀ n, Tab.get (t.tile a).bk.r.start n = Tab.get (s.tile a).bk.r.start n
  stop : ∀ n, Tab.get (t.tile a).bk.r.stop n = Tab.get (s.tile a).bk.r.stop n
  active : NoLoopEnd (s.tile a).bk → ∀ n, Tab.get (t.tile a).bk.r.active n = Tab.get (s.tile a).bk.r.active n

/-- The chain whose turn it is. -/
abbrev State.engine (s : State) : Chain := s.chain s.actor s.actorChain

/-- The acting chain's command goes on in its turn (spec/12_engines.md R280, spec/02_words.md R62): its next access is due, and
either it has started and has accesses left, or its wait, where it has one, is over. -/
def CmdRuns (s : State) (h : CHead) : Prop :=
  s.engine.next ≤ s.cyc ∧
    ((s.engine.run = .started ∧ s.engine.fin = false) ∨
      (s.engine.run ≠ .started ∧ (h.waitEn = true → h.wthr.toNat ≤ s.semOf s.actor h.wsem.toNat)))

/-- The state in which the body of the acting chain's command acts: the command has started. -/
def begun (s : State) : State :=
  if s.engine.run = .started then s else s.modChain s.actor s.actorChain fun x => { x with run := .started }

/-! ## Sources -/

/-- The modifiers of banker instructions, one of each. -/
structure Variant where
  mem : MemMods
  size : Size
  uns : Bool
  order : Order
  scope : Scope
  rel : Bool
  take : Bool
  acq : Bool
  kind : InvKind
  level : PfLevel

/-- The forms outside rows 0x0 to 0x2 that read source A alone. -/
def oneSource : List (BForm → Instr) := [.brr, .callr, .ret]

/-- Those that read sources A and B. -/
def twoSources (x : Variant) : List (BForm → Instr) :=
  [.jtab, .loop, .lbload, .lbrun, .launch, .launcht, .cfgload, .lintel, .compact, .lqstat, .lcancel, .ctxpri, .ctxevict, .orphan,
   .cfgfree, .cfgstat, .bLd x.uns x.size, .bSt x.size, .bLdg x.mem, .bStg x.mem, .bTlook, .bTset, .bTclr, .bStmw x.mem, .flush x.scope,
   .inval x.kind x.scope, .bAadd x.mem, .bAand x.mem, .bAor x.mem, .bAxor x.mem, .bAmin x.mem, .bAmax x.mem, .bAxchg x.mem,
   .bAfadd x.mem, .bSig x.rel x.scope, .wait x.take x.acq x.scope, .sbar, .sigr x.rel x.scope, .esig, .eseq, .edrain, .echainGo,
   .echainStop, .echainRetry, .echainSkip, .estat] ++
  [.qform, .qinj, .shset, .shget, .kvalloc, .kvfree, .kvref, .kvpin, .kvunpin, .kvwr, .kvcommit, .ringstRead, .ringstWrite, .ringstClear,
   .asld, .asgo, .asstatRead, .asstatClear, .asstatStop, .rqrd, .rqwr, .rqfault, .rqstateRead, .rqstateCancel, .rqstateFaults, .mfget,
   .mfnext, .mfcnt, .rqspill, .rqrecall, .rqadmit, .sacpt, .scommit, .rngblk, .vocldLoad, .vocldUnload, .qrgo, .qrstat, .qrstop, .stgo,
   .ststat, .stclose, .sysrd, .syswr, .trap, .rfe, .bBrk, .bcinv, .bTrig, .bTmark, .halt, .idle, .sysrdt]

/-- Those that read a record of four registers and B. -/
def recordSource : List (BForm → Instr) := [.ecmd, .ecpy, .egath, .escat, .efetch, .ecoll, .eexp]

/-! ## Microwords -/

/-- The sequencer whose turn it is. -/
abbrev State.sequencer (s : State) : Seq := (s.tile s.actor).seq

/-- The acting sequencer runs, its last microword is over, and no exponent request of it is out (spec/14_attention.md R318,
R325). -/
structure SeqIssues (s : State) : Prop where
  runs : s.sequencer.st = 1
  due : s.sequencer.nextIssue ≤ s.cyc
  engine : s.sequencer.engine = 0

/-- The acting sequencer's microword, issued in `s`, is over out of `u`: it wrote at most one register, takes `n` cycles and
goes on at `pc`. -/
def microDone (s u : State) (d : Option (Fin 16 × Word)) (pc n : Nat) : State :=
  u.modSeq s.actor fun k =>
    { k with a := (match d with
               | some (i, v) => Tab.set k.a i.val { v := v }
               | none => k.a),
             pc := pc, nextIssue := s.cyc + n }

/-- The microword behind the one at the pc. -/
def behind (s : State) : Nat := (s.sequencer.pc + 1) % 1024

/-- The shared ports of the acting sequencer's query FIFO, of its work tile and of some other memory tiles have served it. -/
def onPorts (s : State) (more : List Nat) : State :=
  (s.qmt s.actor :: s.wmt s.actor :: more).foldl (fun u m => usePort u s.actor m 3 1) s

/-- The acting sequencer has its three memory tiles (spec/14_attention.md R319), `k` is its current token, whole in its query FIFO
(R327), and the shared ports of the memory tiles it reaches serve it, without an error of storage. -/
structure AtToken (s : State) (k : QTok) (more : List Nat) : Prop where
  cfg : seqCfgOk s s.actor = true
  head : (s.tile s.actor).ring.fifo.head? = some k
  whole : k.msg = 0
  ports : ∀ m ∈ s.qmt s.actor :: s.wmt s.actor :: more, (s.port s.actor m).serves s.cyc 3 = true
  clean : s.strike = 0

/-- The bytes of a token in the acting tile's query FIFO. -/
def tokenAt (s : State) (k : QTok) : List Byte := fifoBytes s s.actor k

/-- No access fault stops a KV operation on a set of the acting tile: the set is none of its pool, or its status entry can be reached. -/
def EntryReached (s : State) (set : Nat) : Prop :=
  let x := (s.tile s.actor).ring
  x.nset ≤ set ∨ areaFault s (x.entAddr set) 32 = none

/-- The acting sequencer has no current page, or no access fault stops its unpin (spec/14_attention.md R328). -/
def PageReleasable (s : State) : Prop :=
  curPage s s.actor = true → EntryReached s (workNat s s.actor 0x4400 8 % 2 ^ 20)

/-- The acting sequencer has a current page whose rows it can reach, and KVFMT suits the head dimension of its token (R324, R328). -/
structure PageReady (s : State) (k : QTok) : Prop where
  cur : curPage s s.actor = true
  fmt : (kvFormat s s.actor (tokDim (hdrOf (tokenAt s k)))).isSome = true
  page : ∀ i < 128, ∃ b, pageRow s s.actor i = .ok b

/-! ## Reads of row 0xB and 0xC -/

/-- The acting banker's package-scope load of `n` bytes of a manifest buffer is performed now: they have a home, and none of its own
outstanding accesses meets them (spec/09_memory.md R218). -/
structure ReadsNow (s : State) (pa n : Nat) : Prop where
  home : homeFault s pa = none
  free : blockedBy s s.actor .banker (s.tile s.actor).mem.nextId [(pa, n)] (some .package) = false

/-- The acting banker's shared port reads the head of a verdict block at a local address. -/
structure VerdictHead (s : State) (x : Word) (mt off : Nat) : Prop where
  block : localCheck s s.actor x.toNat 32 8 = .ok (mt, off)
  port : PortFree s mt off 32 true

/-- Word `i` of `w` bytes each, from byte `o` of a verdict block. -/
def verdictWord (s : State) (mt off o w i : Nat) : Nat := leNat (readMt s s.actor mt (off + o + w * i) w)

/-- A verdict block at a local address is well formed and holds `v` (spec/16_sampling.md R370). -/
structure VerdictAt (s : State) (x : Word) (v : Verdict) : Prop extends VerdictHead s x v.mt v.off where
  whole : ∃ p, localCheck s s.actor x.toNat (32 + 8 * v.n) 8 = .ok p
  free : localBlocked s s.actor v.mt v.off (32 + 8 * v.n) true = false
  small : v.slot < 2 ^ 12 ∧ v.inc < 2 ^ 12 ∧ v.first < 2 ^ 40 ∧ v.nacc < 2 ^ 16 ∧ 32 + 8 * v.n ≤ 2 ^ 16
  shape : (v.kind = 0 ∧ 0 < v.n) ∨ (v.kind = 1 ∧ v.n = 1) ∨ (v.kind = 2 ∧ 2 ≤ v.n ∧ v.n ≤ 17)
  d0 : verdictWord s v.mt v.off 0 8 0 = v.slot + v.inc * 2 ^ 12 + v.kind * 2 ^ 24
  d1 : verdictWord s v.mt v.off 0 8 1 = v.first + v.n * 2 ^ 40
  d2 : verdictWord s v.mt v.off 0 8 2 = v.nacc
  d3 : verdictWord s v.mt v.off 0 8 3 = 0
  ts : v.t = (List.range v.n).map fun i => verdictWord s v.mt v.off 0x20 4 i
  ys : v.y = (List.range v.n).map fun i => verdictWord s v.mt v.off (0x20 + 4 * v.n) 4 i

/-- The head of a verdict block breaks R370: Reserved bits are set, or KIND and N do not go together. -/
def BadVerdict (s : State) (mt off : Nat) : Prop :=
  let d (i : Nat) : Nat := verdictWord s mt off 0 8 i
  let kind := d 0 / 2 ^ 24 % 4
  let n := d 1 / 2 ^ 40 % 2 ^ 15
  d 0 / 2 ^ 26 % 2 ^ 6 ≠ 0 ∨ 2 ^ 55 ≤ d 1 ∨ 2 ^ 16 ≤ d 2 ∨ d 3 ≠ 0 ∨ kind = 3 ∨ (kind = 0 ∧ n = 0) ∨ (kind = 1 ∧ n ≠ 1) ∨
    (kind = 2 ∧ (n < 2 ∨ 17 < n)) ∨ 2 ^ 16 < 32 + 8 * n

/-! ## Words -/

/-- Where one word stands for several rows of the opcode table, the operand that selects among them names this row, as read by
`rd` (spec/12_engines.md R284, spec/13_rings.md R317, spec/14_attention.md R321, spec/15_requests.md R354, spec/17_text.md
R388). -/
def Selected (rd : BSrc → Nat) : Instr → Prop
  | .echainGo f => rd f.b % 4 = 0
  | .echainStop f => rd f.b % 4 = 1
  | .echainRetry f => rd f.b % 4 = 2
  | .echainSkip f => rd f.b % 4 = 3
  | .ringstWrite f => rd f.a / 256 % 4 = 1
  | .ringstClear f => rd f.a / 256 % 4 = 2
  | .ringstRead f => rd f.a / 256 % 4 = 0 ∨ rd f.a / 256 % 4 = 3
  | .asstatClear f => rd f.a % 4 = 1
  | .asstatStop f => rd f.a % 4 = 2
  | .asstatRead f => rd f.a % 4 = 0 ∨ rd f.a % 4 = 3
  | .rqstateCancel f => rd f.b % 4 = 1
  | .rqstateFaults f => rd f.b % 4 = 2
  | .rqstateRead f => rd f.b % 4 = 0 ∨ rd f.b % 4 = 3
  | .vocldUnload f => rd f.b % 4 = 1
  | .vocldLoad f => rd f.b % 4 ≠ 1
  | _ => True

/-! ## Slots -/

/-- The tokens a slot reads are there and their headers are good, and its destination has room (spec/01_machine.md R27,
spec/04_integer.md R114). -/
structure SlotFed (c : Copy) (x : Nat) (e : EInstr) : Prop where
  present : ∀ ch ∈ readChans c x e, (c.head x ch).isSome = true
  good : ∀ ch ∈ readChans c x e, c.badHead x ch = false
  known : ∀ ch ∈ readChans c x e, c.headWaits x ch = false
  room : hasRoom c x e = true

/-- The guard predicate of a slot. -/
def slotGuard (c : Copy) (x : Nat) (e : EInstr) : PBit := predOf c x (slotForm e).guard.idx.val

/-- A slot acts: it is fed, its guard is clean and true, no register it names is leased, and no decider is poisoned. -/
structure SlotActs (c : Copy) (x : Nat) (e : EInstr) : Prop where
  fed : SlotFed c x e
  guardClean : (slotGuard c x e).poison = false
  guardTrue : (slotGuard c x e).b ≠ (slotForm e).guard.neg
  free : leased c x (slotForm e) = false
  decider : badDecider c x e = none

/-! ## Integers as spec/04_integer.md R109 reads and delivers them -/

/-- Bits w−1:0 of a source, read as two's complement when U = 0 and as unsigned when U = 1. -/
def intOf (m : AluMods) (x : Word) : Int :=
  if m.uns then ((x.setWidth m.size.bits).toNat : Int) else (x.setWidth m.size.bits).toInt

/-- A `w`-bit pattern extended to 64 bits as U says. -/
def extended (m : AluMods) {w : Nat} (x : BitVec w) : Word := if m.uns then x.setWidth 64 else x.signExtend 64

/-- An exact result delivered: clamped to the type's range when SAT = 1, taken modulo 2^w, extended to 64 bits. -/
def delivered (m : AluMods) (v : Int) : Word :=
  let w := m.size.bits
  let lo : Int := if m.uns then 0 else -(2 : Int) ^ (w - 1)
  let hi : Int := if m.uns then (2 : Int) ^ w - 1 else (2 : Int) ^ (w - 1) - 1
  extended m (BitVec.ofInt w (if m.sat then min (max v lo) hi else v))

end Sys2Proof.Machine
end

