-- ==== Sys2Proof/Certificates/Slice0/Obligations.lean ====
section
/-!
DEFINITION. The statements about the machine, for the provers. Each docstring names the rules of spec/ it formalises, or says
that it states the model's own choice.
-/
open Sys2Proof Sys2Proof.Machine

/-! ## The integer instructions (rows 0x0 to 0x2) -/

/-- R116, R109: the arithmetic instructions deliver their exact result, in bankers and CEs alike, after 1 cycle or 3; SAT = 1
is unassigned where the table says no; `nop` changes nothing but the pc, whatever its guard, and the word of every guard is a
`nop`. -/
def Obligations.IntegerArithmeticIsExact : Prop :=
  (∀ (m : AluMods) (A B C : Word),
    let a := intOf m A
    let b := intOf m B
    let c := intOf m C
    aluResult .mov m A B C = delivered m a ∧ aluResult .add m A B C = delivered m (a + b) ∧
    aluResult .sub m A B C = delivered m (a - b) ∧ aluResult .neg m A B C = delivered m (-a) ∧
    aluResult .abs m A B C = delivered m (a.natAbs : Int) ∧ aluResult .mul m A B C = delivered m (a * b) ∧
    aluResult .mulh m A B C = delivered m (a * b / 2 ^ m.size.bits) ∧ aluResult .mad m A B C = delivered m (a * b + c) ∧
    aluResult .min m A B C = delivered m (min a b) ∧ aluResult .max m A B C = delivered m (max a b) ∧
    aluResult .absd m A B C = delivered m ((a - b).natAbs : Int) ∧
    aluResult .addsh m A B C = delivered m (a + b * 2 ^ (C.setWidth 6).toNat) ∧
    aluResult .clamp m A B C = delivered m (min (max a b) c)) ∧
  (∀ (m : AluMods) (f : BForm) (s : State), IssuesForm s f →
    let v (op : AluOp) : Word := aluResult op m (srcA s f) (srcB s f) (srcC s f)
    exec (.bMov m f) s = .next (wrote s s f.dst (v .mov) 1) ∧ exec (.bAdd m f) s = .next (wrote s s f.dst (v .add) 1) ∧
    exec (.bSub m f) s = .next (wrote s s f.dst (v .sub) 1) ∧ exec (.bNeg m f) s = .next (wrote s s f.dst (v .neg) 1) ∧
    exec (.bAbs m f) s = .next (wrote s s f.dst (v .abs) 1) ∧ exec (.bMul m f) s = .next (wrote s s f.dst (v .mul) 3) ∧
    exec (.bMulh m f) s = .next (wrote s s f.dst (v .mulh) 3) ∧ exec (.bMad m f) s = .next (wrote s s f.dst (v .mad) 3) ∧
    exec (.bMin m f) s = .next (wrote s s f.dst (v .min) 1) ∧ exec (.bMax m f) s = .next (wrote s s f.dst (v .max) 1) ∧
    exec (.bClamp m f) s = .next (wrote s s f.dst (v .clamp) 1)) ∧
  (∀ (c : Copy) (x : Nat) (m : AluMods) (f : EForm),
    (∀ op ∈ [AluOp.mov, .add, .sub, .neg, .abs, .min, .max, .absd, .addsh, .clamp],
      computeOf c x (.alu op m f) = some ⟨f, 1, false, fun a b d _ => .ok (aluResult op m a b d)⟩) ∧
    ∀ op ∈ [AluOp.mul, .mulh, .mad],
      computeOf c x (.alu op m f) = some ⟨f, 3, false, fun a b d _ => .ok (aluResult op m a b d)⟩) ∧
  (∀ op ∈ [AluOp.mov, .mulh, .min, .max, .clamp], ∀ m : AluMods, m.sat = true →
    (∀ f, bAluOk op m f = false) ∧ ∀ f, eAluOk op m f = false) ∧
  (∀ (g : Guard) (s : State) (rd : BSrc → Nat),
    exec (.bNop g) s = .next (movedOn s s) ∧ decodeB rd (b2n g.neg * 32 + g.idx.val * 4) = .bNop g ∧
      decodeE (b2n g.neg * 32 + g.idx.val * 4) = some (.nop g))

/-- R118, R120: the logic instructions, shifts, counts, extensions and byte swaps work on the low w bits, in bankers and CEs
alike, after 1 cycle; SAT is legal on `shl` only; `sext` and `zext` ask for their U, and `bswap` for more than a byte. -/
def Obligations.LogicShiftsAndCounts : Prop :=
  (∀ (m : AluMods) (A B C : Word),
    let x := A.setWidth m.size.bits
    let y := B.setWidth m.size.bits
    let n := (B.setWidth 7).toNat
    (m.sat = false →
      aluResult .and m A B C = extended m (x &&& y) ∧ aluResult .or m A B C = extended m (x ||| y) ∧
      aluResult .xor m A B C = extended m (x ^^^ y) ∧ aluResult .andn m A B C = extended m (x &&& ~~~y) ∧
      aluResult .not m A B C = extended m (~~~x) ∧ aluResult .shr m A B C = extended m (x >>> y.toNat) ∧
      aluResult .sar m A B C = extended m (x.sshiftRight y.toNat) ∧
      aluResult .rol m A B C = extended m (x.rotateLeft y.toNat) ∧ aluResult .clz m A B C = extended m x.clz ∧
      aluResult .popc m A B C = extended m x.cpop ∧ aluResult .ctz m A B C = extended m x.ctz ∧
      aluResult .sext m A B C = delivered m (if 64 ≤ n then A.toInt else (A.setWidth n).toInt) ∧
      aluResult .zext m A B C = delivered m (if 64 ≤ n then (A.toNat : Int) else ((A.setWidth n).toNat : Int)) ∧
      ∃ r : BitVec m.size.bits, aluResult .bswap m A B C = extended m r ∧
        ∀ i < m.size.bytes, r.extractLsb' (8 * i) 8 = x.extractLsb' (8 * (m.size.bytes - 1 - i)) 8) ∧
    aluResult .shl m A B C = delivered m (intOf m A * 2 ^ y.toNat)) ∧
  (∀ (m : AluMods) (f : BForm) (s : State), IssuesForm s f →
    let t (op : AluOp) : Host.Outcome State Fault Refusal :=
      .next (wrote s s f.dst (aluResult op m (srcA s f) (srcB s f) (srcC s f)) 1)
    exec (.bAnd m f) s = t .and ∧ exec (.bOr m f) s = t .or ∧ exec (.bXor m f) s = t .xor ∧ exec (.bAndn m f) s = t .andn ∧
    exec (.bNot m f) s = t .not ∧ exec (.bShl m f) s = t .shl ∧ exec (.bShr m f) s = t .shr ∧ exec (.bSar m f) s = t .sar ∧
    exec (.bRol m f) s = t .rol ∧ exec (.bClz m f) s = t .clz ∧ exec (.bPopc m f) s = t .popc ∧ exec (.bCtz m f) s = t .ctz ∧
    exec (.bSext m f) s = t .sext ∧ exec (.bZext m f) s = t .zext ∧ exec (.bBswap m f) s = t .bswap) ∧
  (∀ op ∈ [AluOp.and, .or, .xor, .andn, .not, .shl, .shr, .sar, .rol, .clz, .popc, .ctz, .sext, .zext, .bswap],
    (∀ (c : Copy) (x : Nat) (m : AluMods) (f : EForm),
      computeOf c x (.alu op m f) = some ⟨f, 1, false, fun a b d _ => .ok (aluResult op m a b d)⟩) ∧
    ∀ m : AluMods,
      (m.sat = true ∧ op ≠ .shl) ∨ (op = .sext ∧ m.uns = true) ∨ (op = .zext ∧ m.uns = false) ∨ (op = .bswap ∧ m.size = .b8) →
        (∀ f, bAluOk op m f = false) ∧ ∀ f, eAluOk op m f = false)

/-- R119: compares deliver 1 or 0 by the signedness of U, and `sel` chooses by C, in bankers and CEs alike, after 1 cycle;
`div` and `rem` never fault: they wait for the divider, take 2 + w/2 cycles of it (R113) and have the two borderline cases of
the rule's table; SAT is legal on `div` only; a compare written to f7 or p7 is discarded. -/
def Obligations.ComparesSelectAndDivision : Prop :=
  (∀ (m : AluMods) (A B C : Word),
    let a := intOf m A
    let b := intOf m B
    aluResult .cmpeq m A B C = (if a = b then 1 else 0) ∧ aluResult .cmpne m A B C = (if a ≠ b then 1 else 0) ∧
    aluResult .cmplt m A B C = (if a < b then 1 else 0) ∧ aluResult .cmple m A B C = (if a ≤ b then 1 else 0) ∧
    aluResult .sel m A B C = delivered m (if C.setWidth m.size.bits ≠ 0 then a else b)) ∧
  (∀ (m : AluMods) (f : BForm) (s : State), IssuesForm s f →
    let a := intOf m (srcA s f)
    let b := intOf m (srcB s f)
    let w := m.size.bits
    let v (op : AluOp) : Word := aluResult op m (srcA s f) (srcB s f) (srcC s f)
    let busy := s.modBk s.actor fun k => { k with divBusy := s.cyc + (2 + w / 2) }
    exec (.bCmpeq m f) s = .next (wrote s s f.dst (v .cmpeq) 1) ∧ exec (.bCmpne m f) s = .next (wrote s s f.dst (v .cmpne) 1) ∧
    exec (.bCmplt m f) s = .next (wrote s s f.dst (v .cmplt) 1) ∧ exec (.bCmple m f) s = .next (wrote s s f.dst (v .cmple) 1) ∧
    exec (.bSel m f) s = .next (wrote s s f.dst (v .sel) 1) ∧
    (s.banker.divBusy ≤ s.cyc →
      exec (.div m f) s = .next (wrote s busy f.dst
        (if b = 0 then (if m.uns then extended m (BitVec.allOnes w) else -1) else delivered m (a.tdiv b)) (2 + w / 2)) ∧
      (m.sat = false → exec (.rem m f) s = .next (wrote s busy f.dst
        (if b = 0 then extended m ((srcA s f).setWidth w) else delivered m (a - b * a.tdiv b)) (2 + w / 2)))) ∧
    (s.cyc < s.banker.divBusy → exec (.div m f) s = .next s ∧ exec (.rem m f) s = .next s)) ∧
  (∀ op ∈ [AluOp.cmpeq, .cmpne, .cmplt, .cmple, .sel],
    (∀ (c : Copy) (x : Nat) (m : AluMods) (f : EForm),
      computeOf c x (.alu op m f) = some ⟨f, 1, false, fun a b d _ => .ok (aluResult op m a b d)⟩) ∧
    ∀ m : AluMods, m.sat = true → (∀ f, bAluOk op m f = false) ∧ ∀ f, eAluOk op m f = false) ∧
  (∀ (m : AluMods) (f : BForm), m.sat = true → bAluOk .rem m f = false) ∧
  (∀ (s : State) (v : Word), ((((wrote s s (.f 7) v 1).tile s.actor).bk.r).flag 7).b = true) ∧
  ∀ (c : Copy) (x : Nat), predOf c x 7 = { b := true }

/-- R117, R121, R122, R123: `movi` extends its immediate by sign and `movhi` puts it below bits 39:0 of the old value of its
destination; `agen` and, in CEs, `agen2` form an address modulo 2^64, and `wrap` advances a circular index with one
correction; each in bankers and CEs alike, with its latency and its conditions on SAT and U. -/
def Obligations.ConstantsAddressesAndIndexes : Prop :=
  (∀ (w : BWide) (s : State),
    (IssuesWide s w → exec (.bMovi w) s = .next (wrote s s w.dst (w.imm.signExtend 64) 1)) ∧
    ∀ i : Fin 32, w.dst = .g i →
      let old := Tab.get s.banker.r.g i.val
      Issues s w.guard (.g i) [i.val] [old] →
      exec (.bMovhi w) s = .next (wrote s s (.g i) (old.v.extractLsb' 0 40 ++ w.imm) 1)) ∧
  (∀ (c : Copy) (x : Nat) (g : Guard) (d : EDst) (imm : BitVec 24),
    (∃ k, computeOf c x (.movi g d imm) = some k ∧ k.lat = 1 ∧ k.old = false ∧ k.form.dst = d ∧
      ∀ a b e o, k.fn a b e o = .ok (imm.signExtend 64)) ∧
    ∃ k, computeOf c x (.movhi g d imm) = some k ∧ k.lat = 1 ∧ k.old = true ∧ k.form.dst = d ∧
      ∀ a b e o, k.fn a b e o = .ok (o.extractLsb' 0 40 ++ imm)) ∧
  (∀ (m : AluMods) (A B C : Word),
    let a := intOf m A
    let b := intOf m B
    let c := intOf m C
    let rows : Nat := if C.extractLsb' 0 16 = 0 then 65536 else (C.extractLsb' 0 16).toNat
    let i := (B.setWidth m.size.bits).toNat
    aluResult .agen m A B C = A + BitVec.ofInt 64 (b * ((C.setWidth 32).toInt)) ∧
    aluResult .agen2 m A B C = A + BitVec.ofNat 64
      (i / rows * (C.extractLsb' 32 32).toNat + i % rows * 2 ^ min (C.extractLsb' 16 4).toNat 6) ∧
    aluResult .wrap m A B C = delivered m
      (if c ≤ 0 then a + b else if c ≤ a + b then a + b - c else if a + b < 0 then a + b + c else a + b)) ∧
  (∀ (m : AluMods) (f : BForm) (s : State), IssuesForm s f →
    let v (op : AluOp) : Word := aluResult op m (srcA s f) (srcB s f) (srcC s f)
    exec (.bAgen m f) s = .next (wrote s s f.dst (v .agen) 1) ∧ exec (.bWrap m f) s = .next (wrote s s f.dst (v .wrap) 1)) ∧
  (∀ (c : Copy) (x : Nat) (m : AluMods) (f : EForm),
    (∀ op ∈ [AluOp.agen, .wrap], computeOf c x (.alu op m f) = some ⟨f, 1, false, fun a b d _ => .ok (aluResult op m a b d)⟩) ∧
    computeOf c x (.alu .agen2 m f) = some ⟨f, 2, false, fun a b d _ => .ok (aluResult .agen2 m a b d)⟩) ∧
  ∀ op ∈ [AluOp.agen, .agen2, .wrap], ∀ m : AluMods, m.sat = true ∨ (op = .agen2 ∧ m.uns = false) →
    (∀ f, bAluOk op m f = false) ∧ ∀ f, eAluOk op m f = false

/-- R110, R57, R165: an instruction that writes a destination and retires changes that destination (all of a general register,
a flag's bit unless it is f7, bits 31:0 of a loop counter), moves the pc on by one word where no active loop ends there, and
leaves every other register, flag, special register and byte of memory alone. The frame of the banker's integer instructions,
and R114 and R115 (with R68): whatever the guard and the sources, such an instruction changes its destination, the pc, the
banker's poison latch and the end of a loop, and nothing else; one whose guard is false writes nothing and waits on no source;
one with a poisoned guard or source writes a poisoned value with that origin, for a guard what the latch holds (log entry 158); a
loop counter takes no poisoned value (R110), so those cases ask for another destination. R68: a word that no instruction uses
writes a poisoned value with its own origin to a register or flag, whatever its guard field holds (log entry 156), and only
advances the pc where it has no legal destination. -/
def Obligations.RetiringWritesOnlyItsDestination : Prop :=
  (∀ (s : State) (d : BDst) (v : Word) (lat : Nat),
     let t := wrote s s d v lat
     let r := (t.tile s.actor).bk.r
     (∀ i : Fin 32, d = .g i → Tab.get r.g i.val = { v := v }) ∧
     (∀ i : Fin 8, d = .f i → r.flag i.val = { b := i.val == 7 || v.getLsbD 0 }) ∧
     (∀ i : Fin 3, d = .lc i → NoLoopEnd s.banker → Tab.get r.lc i.val = (v.setWidth 32).toNat) ∧
     (NoLoopEnd s.banker → (t.tile s.actor).bk.pc = s.banker.pc + 8) ∧
     (d ≠ .none → (t.tile s.actor).bk.readyAt (dstSlot d) = s.cyc + lat) ∧
     OutsideKept s t s.actor ∧ TileKept s t s.actor ∧ RegsKept s t s.actor d ∧ (t.tile s.actor).sys = (s.tile s.actor).sys) ∧
  (let ops := [Instr.bMov, .bAdd, .bSub, .bNeg, .bAbs, .bMul, .bMulh, .bMad, .bMin, .bMax, .bClamp, .bAnd, .bOr, .bXor,
       .bAndn, .bNot, .bShl, .bShr, .bSar, .bRol, .bCmpeq, .bCmpne, .bCmplt, .bCmple, .bSel, .bClz, .bPopc, .bCtz, .bAgen, .bWrap,
       .bSext, .bZext, .bBswap]
   ∀ op ∈ ops ++ [.div, .rem], ∀ (m : AluMods) (f : BForm) (s : State),
     (∀ t, exec (op m f) s = .next t → (IssuesForm s f ∨ ∀ i, f.dst ≠ .lc i) →
       OutsideKept s t s.actor ∧ TileKept s t s.actor ∧ RegsKept s t s.actor f.dst ∧
       (t.tile s.actor).sys = { (s.tile s.actor).sys with platchB := (t.tile s.actor).sys.platchB }) ∧
     let flag := s.banker.r.flag f.guard.idx.val
     let a := readB s s.actor f.a
     let b := readB s s.actor f.b
     let c := readB s s.actor f.c
     let divided := s.modBk s.actor fun k => { k with divBusy := s.cyc + (2 + m.size.bits / 2) }
     s.banker.readyAt (32 + f.guard.idx.val) ≤ s.cyc →
       (flag.poison = false → flag.b = f.guard.neg → exec (op m f) s = .next (movedOn s s)) ∧
       ∀ u : State, (op ∈ ops ∧ u = s) ∨ (op ∈ [Instr.div, .rem] ∧ s.banker.divBusy ≤ s.cyc ∧ u = divided) →
         (∀ i, f.dst ≠ .lc i) → s.banker.readyAt (dstSlot f.dst) ≠ pendingReg →
         let poisoned (o : Word) : Prop := ∃ lat, exec (op m f) s =
           .next (retire (writeB u s.actor f.dst { v := o, poison := true } (s.cyc + lat)) s.actor false none)
         (flag.poison = true → poisoned (latchOrigin (s.tile s.actor).sys.platchB)) ∧
         (flag.poison = false → flag.b = !f.guard.neg → (∀ i ∈ formRegs f, s.banker.readyAt i ≤ s.cyc) → c.poison = false →
           (a.poison = true → poisoned a.v) ∧ (a.poison = false → b.poison = true → poisoned b.v))) ∧
  (∀ (s : State) (w : BitVec 64),
     let d := (bDstOf (wDk w.toNat) (wDi w.toNat)).getD .none
     (∀ i, d ≠ .lc i) → s.banker.readyAt (dstSlot d) ≠ pendingReg →
     exec (.bPoisonWord w) s =
       .next (retire (writeB s s.actor d { v := originB s.actor s.banker.pc, poison := true } (s.cyc + 1)) s.actor false none))

/-! ## The banker's control instructions (row 0x4) -/

/-- R161, R166: a taken transfer makes the target the next pc; a call writes the address of the next word to its destination;
every loop level whose body does not hold the target is left, and its counter stays (R165: no end test). Other general
registers and flags, and every byte of memory, are as before. R161, R59, R393: a transfer whose target is no multiple of 8
takes BAD_TARGET, and has no effect; that INFO holds the target is log entry 114. -/
def Obligations.TransfersReachTheirTarget : Prop :=
  (∀ s : State,
     let a := s.actor
     let pc := s.banker.pc
     let reached (t : State) (target : Word) (d : BDst) : Prop :=
       (t.tile a).bk.pc = target ∧
       (∀ i : Fin 32, Tab.get (t.tile a).bk.r.g i.val = if d = .g i then { v := pc + 8 } else Tab.get s.banker.r.g i.val) ∧
       (∀ i : Fin 8, (t.tile a).bk.r.flag i.val = s.banker.r.flag i.val) ∧
       (∀ n < 3, Tab.get (t.tile a).bk.r.lc n = Tab.get s.banker.r.lc n ∧
         (Tab.get (t.tile a).bk.r.active n = true ↔ Tab.get s.banker.r.active n = true ∧
           Tab.get s.banker.r.start n ≤ target ∧ target ≤ Tab.get s.banker.r.stop n)) ∧
       (t.tile a).bk.r.start = s.banker.r.start ∧ (t.tile a).bk.r.stop = s.banker.r.stop ∧
       OutsideKept s t a ∧ TileKept s t a ∧
       (t.tile a).sys = { (s.tile a).sys with traceBuf := (t.tile a).sys.traceBuf }
     (∀ w : BWide, IssuesWide s w → (pc + w.imm.signExtend 64 * 8).toNat % 8 = 0 →
       (w.dst = .none → ∃ t, exec (.br w) s = .next t ∧ reached t (pc + w.imm.signExtend 64 * 8) .none) ∧
       ∀ i, w.dst = .g i → ∃ t, exec (.call w) s = .next t ∧ reached t (pc + w.imm.signExtend 64 * 8) (.g i)) ∧
     (∀ f : BForm, IssuesForm s f → (srcA s f).toNat % 8 = 0 →
       (f.dst = .none →
         (∃ t, exec (.brr f) s = .next t ∧ reached t (srcA s f) .none) ∧
         (∃ t, exec (.ret f) s = .next t ∧ reached t (srcA s f) .none)) ∧
       ∀ i, f.dst = .g i → ∃ t, exec (.callr f) s = .next t ∧ reached t (srcA s f) (.g i)) ∧
     (∀ f : BForm, IssuesForm s f → f.dst = .none → pc.toNat % 8 = 0 →
       let k := if (srcA s f).toNat < (srcB s f).toNat then srcA s f else srcB s f
       ∃ t, exec (.jtab f) s = .next t ∧ reached t (pc + 8 + k * 8) .none)) ∧
  (∀ (f : BForm) (s : State), IssuesForm s f → (srcA s f).toNat % 8 ≠ 0 → s.banker.hasPending s.cyc = false → s.banker.emul = none →
     let t := enterTrap s s.actor { cause := 0x18, info := srcA s f } s.banker.pc
     exec (.brr f) s = .next t ∧ exec (.callr f) s = .next t ∧ exec (.ret f) s = .next t)

/-- R164: `loop` and `loopi` open a level over the `len` words that follow; a count of 0 skips the body; a length outside 1 to
256 takes BAD_LOOP, with that length in INFO (log entry 114). Every general register and flag and every byte of memory are as before. R165: after an instruction outside
row 0x4 the levels whose end word it is are tested innermost first: one with a count above 1 counts down and loops back, and
stops the test; every other level tested before it, or all of them, end. R165, R161, R164: an instruction of row 0x4 whose
guard is false goes on at the next word, and no loop level changes, even at an end word. R167, R166, R162: `lbload` and
`lbrun` empty the loop buffer, copy min(B, 256) words that translated reads give from A on and make it valid unless it is
empty; `lbrun` goes on at A and leaves the loops that do not hold it. Every general register and flag is as before; memory is
as the reads left it. They begin once the banker's own accesses are over (log entry 22) and neither a walk nor a port is to be waited
for (log entry 137). -/
def Obligations.HardwareLoopsRunTheirBodies : Prop :=
  (∀ (s : State) (n : Fin 3),
     let a := s.actor
     let pc := s.banker.pc
     let opened (t : State) (cnt len : Nat) : Prop :=
       (t.tile a).bk.pc = (if cnt = 0 then pc + BitVec.ofNat 64 (8 * len) + 8 else pc + 8) ∧
       Tab.get (t.tile a).bk.r.lc n.val = cnt ∧ Tab.get (t.tile a).bk.r.start n.val = pc + 8 ∧
       Tab.get (t.tile a).bk.r.stop n.val = pc + BitVec.ofNat 64 (8 * len) ∧
       Tab.get (t.tile a).bk.r.active n.val = decide (cnt ≠ 0) ∧ (t.tile a).bk.readyAt (40 + n.val) = s.cyc + 1 ∧
       (∀ k, k ≠ n.val → Tab.get (t.tile a).bk.r.lc k = Tab.get s.banker.r.lc k ∧
         Tab.get (t.tile a).bk.r.start k = Tab.get s.banker.r.start k ∧
         Tab.get (t.tile a).bk.r.stop k = Tab.get s.banker.r.stop k ∧
         Tab.get (t.tile a).bk.r.active k = Tab.get s.banker.r.active k) ∧
       (∀ i : Fin 32, Tab.get (t.tile a).bk.r.g i.val = Tab.get s.banker.r.g i.val) ∧
       (∀ i : Fin 8, (t.tile a).bk.r.flag i.val = s.banker.r.flag i.val) ∧
       OutsideKept s t a ∧ TileKept s t a ∧ (t.tile a).sys = (s.tile a).sys
     (∀ w : BWide, IssuesWide s w → w.dst = .lc n →
       ∃ t, exec (.loopi w) s = .next t ∧
         opened t (w.imm.extractLsb' 8 16).toNat ((w.imm.extractLsb' 0 8).toNat + 1)) ∧
     ∀ f : BForm, IssuesForm s f → f.dst = .lc n →
       (1 ≤ (srcB s f).toNat → (srcB s f).toNat ≤ 256 →
         ∃ t, exec (.loop f) s = .next t ∧ opened t ((srcA s f).setWidth 32).toNat (srcB s f).toNat) ∧
       ((srcB s f).toNat = 0 ∨ 256 < (srcB s f).toNat → s.banker.hasPending s.cyc = false → s.banker.emul = none →
         exec (.loop f) s = .next (enterTrap s a { cause := 0x19, info := srcB s f } pc))) ∧
  (∀ s : State,
     let b := s.banker
     let t := (movedOn s s).tile s.actor
     let ends (n : Nat) : Prop := Tab.get b.r.active n = true ∧ Tab.get b.r.stop n = b.pc
     let again (n : Nat) : Prop := ends n ∧ 1 < Tab.get b.r.lc n
     (∀ l < 3, again l → (∀ n < 3, l < n → ¬ again n) →
       t.bk.pc = Tab.get b.r.start l ∧ Tab.get t.bk.r.lc l = Tab.get b.r.lc l - 1 ∧ Tab.get t.bk.r.active l = true ∧
       (∀ n < l, Tab.get t.bk.r.lc n = Tab.get b.r.lc n ∧ Tab.get t.bk.r.active n = Tab.get b.r.active n) ∧
       ∀ n < 3, l < n → ends n → Tab.get t.bk.r.lc n = 0 ∧ Tab.get t.bk.r.active n = false) ∧
     ((∀ n < 3, ¬ again n) →
       t.bk.pc = b.pc + 8 ∧ ∀ n < 3, ends n → Tab.get t.bk.r.lc n = 0 ∧ Tab.get t.bk.r.active n = false) ∧
     ∀ n < 3, ¬ ends n → Tab.get t.bk.r.lc n = Tab.get b.r.lc n ∧ Tab.get t.bk.r.active n = Tab.get b.r.active n) ∧
  (∀ (s : State) (w : BWide) (f : BForm),
     let a := s.actor
     let off (g : Guard) : Prop := s.banker.readyAt (32 + g.idx.val) ≤ s.cyc ∧ (s.banker.r.flag g.idx.val).poison = false ∧
       (s.banker.r.flag g.idx.val).b = g.neg
     let past := retire s a true none
     (past.tile a).bk.pc = s.banker.pc + 8 ∧ (past.tile a).bk.r = s.banker.r ∧ OutsideKept s past a ∧ TileKept s past a ∧
     (off w.guard → exec (.br w) s = .next past ∧ exec (.call w) s = .next past ∧ exec (.loopi w) s = .next past) ∧
     (off f.guard → exec (.brr f) s = .next past ∧ exec (.callr f) s = .next past ∧ exec (.ret f) s = .next past ∧
       exec (.jtab f) s = .next past ∧ exec (.loop f) s = .next past ∧ exec (.lbload f) s = .next past ∧
       exec (.lbrun f) s = .next past)) ∧
  (∀ (f : BForm) (s u : State) (ws : List Word), IssuesForm s f → (srcA s f).toNat % 8 = 0 → bankerBusy s s.actor = false →
     f.dst = .none →
     let a := s.actor
     let n := min (srcB s f).toNat 256
     (n ≠ 0 → areaFree s a 0 (srcA s f).toNat (8 * n) = true) →
     copyWords a n (s.modBk a fun k => { k with lbvalid := false }) (srcA s f).toNat = .ok (u, ws) →
     let filled (t : State) : Prop :=
       (t.tile a).bk.lbbase = srcA s f ∧ (t.tile a).bk.lblen = n ∧ (t.tile a).bk.lbvalid = decide (0 < n) ∧
       (∀ i < n, Tab.get (t.tile a).bk.lb i = ws.getD i 0) ∧ s.cyc + 2 + n ≤ (t.tile a).bk.nextIssue ∧
       (t.tile a).bk.r.g = (u.tile a).bk.r.g ∧ (t.tile a).bk.r.f = (u.tile a).bk.r.f ∧
       (t.tile a).bk.r.lc = (u.tile a).bk.r.lc ∧ ∀ x, readByte t.mem x = readByte u.mem x
     (∃ t, exec (.lbload f) s = .next t ∧ filled t ∧ (t.tile a).bk.pc = (u.tile a).bk.pc + 8 ∧
       (t.tile a).bk.r = (u.tile a).bk.r) ∧
     ∃ t, exec (.lbrun f) s = .next t ∧ filled t ∧ (t.tile a).bk.pc = srcA s f ∧
       ∀ k < 3, Tab.get (t.tile a).bk.r.active k = true ↔ Tab.get (u.tile a).bk.r.active k = true ∧
         Tab.get (u.tile a).bk.r.start k ≤ srcA s f ∧ srcA s f ≤ Tab.get (u.tile a).bk.r.stop k)

/-! ## Traps and the system instructions (row 0xF) -/

/-- R392, R393, R394: where traps are on and the frame's memory tile is the banker's, a trap writes the 48 double words of the
frame and no other byte, clears the active bits of the loops, turns traps off and sets the pc to the cause's vector; the other
registers of the banker stay. -/
def Obligations.TrapEntryWritesTheFrame : Prop :=
  ∀ (s : State) (a : Nat) (tr : TrapInfo) (epc : Word),
    (s.tile a).sys.ten = true → s.reserved a (s.frameAt a).1 = true →
    let t := enterTrap s a tr epc
    let r := (s.tile a).bk.r
    let base := s.frameBase a
    let at' (off : Nat) : Nat := readNat t.mem (base + off) 8
    (t.tile a).bk.pc = BitVec.ofNat 64 (fld (s.tile a).sys.tvec.toNat 9 47 * 512 + 8 * tr.cause) ∧
    (t.tile a).sys.ten = false ∧ (∀ n, Tab.get (t.tile a).bk.r.active n = false) ∧
    (t.tile a).bk.r.g = r.g ∧ (t.tile a).bk.r.f = r.f ∧ (t.tile a).bk.r.lc = r.lc ∧
    (t.tile a).bk.r.start = r.start ∧ (t.tile a).bk.r.stop = r.stop ∧
    at' 0x00 = (tr.cause + tr.acause * 2 ^ 8 + b2n tr.posted * 2 ^ 16 + b2n tr.noroll * 2 ^ 17 + tr.lid * 2 ^ 32 +
      tr.copy * 2 ^ 48) % 2 ^ 64 ∧
    at' 0x08 = epc.toNat ∧ at' 0x10 = tr.info.toNat ∧ at' 0x18 = tr.info2.toNat ∧
    (∀ i < 8, (at' 0x20).testBit i = (r.flag i).b) ∧ (∀ n < 3, (at' 0x20).testBit (8 + n) = Tab.get r.active n) ∧
    (∀ n < 3, at' (0x28 + 8 * n) = Tab.get r.lc n % 2 ^ 64 ∧ at' (0x40 + 8 * n) = (Tab.get r.start n).toNat ∧
      at' (0x58 + 8 * n) = (Tab.get r.stop n).toNat) ∧
    (∀ i < 32, (at' 0x70).testBit i = (Tab.get r.g i).poison) ∧
    (∀ i < 8, (at' 0x70).testBit (32 + i) = (r.flag i).poison) ∧
    (∀ i < 32, at' (0x80 + 8 * i) = (Tab.get r.g i).v.toNat) ∧
    (∀ x, (x < base ∨ base + 0x180 ≤ x) → readByte t.mem x = readByte s.mem x) ∧
    ∀ u, u ≠ a → t.tile u = s.tile u

/-- R393, R394, R397: returning from a trap that was just taken gives the banker back every register it had (g0 to g31, f0 to
f6, poison bits, loop counters of 32 bits, start, end and active of the loops), goes on at the saved pc and turns traps on. -/
def Obligations.ReturnRestoresWhatEntrySaved : Prop :=
  ∀ (s : State) (a : Nat) (tr : TrapInfo) (epc : Word),
    (s.tile a).sys.ten = true → s.reserved a (s.frameAt a).1 = true →
    (∀ n < 3, Tab.get (s.tile a).bk.r.lc n < 2 ^ 32) →
    let r := (s.tile a).bk.r
    let t := leaveTrap (enterTrap s a tr epc) a
    let q := (t.tile a).bk.r
    (t.tile a).bk.pc = epc ∧ (t.tile a).sys.ten = true ∧
    (∀ i < 32, Tab.get q.g i = Tab.get r.g i) ∧ (∀ i < 7, q.flag i = r.flag i) ∧
    ∀ n < 3, Tab.get q.lc n = Tab.get r.lc n ∧ Tab.get q.start n = Tab.get r.start n ∧
      Tab.get q.stop n = Tab.get r.stop n ∧ Tab.get q.active n = Tab.get r.active n

/-- R398: a trap while traps are off, or with a frame outside the banker's memory tiles, is a double fault: the banker stops
in state 3, its pc and registers and every byte of memory stay, no other tile changes, and the host is told in an event (code
0x04 with the tile, or the count of lost events where the queue is full). R70, R115, R395, R391: every instruction outside rows
0x0 to 0x2 takes POISON, with the origin in INFO and its own location in INFO2, where its guard is poisoned or, the guard letting it
run, a source that it reads is, the first in the order A, B, C (the old d of `acas` comes last), and nothing else of its effect
happens; a poisoned source of `pf` (R219) and `emul` (R411) is no fault. The origin that a guard gives is what the latch holds (log
entry 158). R391, R396: a posted trap is taken at an instruction boundary, oldest first: where the banker may take one, TRAP_ENTRY
removes the first of the queue, lets the oldest waiting poster queue its own, and enters the trap with the pc of the next
instruction; otherwise nothing changes. R414: TRACE_FREEZE stops recording once the entries after the trigger are written. -/
def Obligations.DoubleFaultsPoisonAndPostedTraps : Prop :=
  (∀ (s : State) (a : Nat) (tr : TrapInfo) (epc : Word),
     (s.tile a).sys.ten = false ∨ s.reserved a (s.frameAt a).1 = false →
     let t := enterTrap s a tr epc
     (t.tile a).bk.mode = 3 ∧ (t.tile a).bk.pc = (s.tile a).bk.pc ∧ (t.tile a).bk.r = (s.tile a).bk.r ∧
     (t.tile a).sys = (s.tile a).sys ∧ (∀ x, readByte t.mem x = readByte s.mem x) ∧ (∀ u, u ≠ a → t.tile u = s.tile u) ∧
     (s.mgmt.evq.length < 1024 → t.mgmt.evq = s.mgmt.evq ++ [(0x04, a)] ∧ t.mgmt.evlost = s.mgmt.evlost) ∧
     (1024 ≤ s.mgmt.evq.length → t.mgmt.evq = s.mgmt.evq ∧ t.mgmt.evlost = min (s.mgmt.evlost + 1) (2 ^ 32 - 1))) ∧
  (∀ (s : State) (g : Guard) (x : Variant), s.banker.readyAt (32 + g.idx.val) ≤ s.cyc → s.banker.hasPending s.cyc = false → s.banker.emul = none →
     let a := s.actor
     let b := s.banker
     let flag := b.r.flag g.idx.val
     let runs := flag.poison = false ∧ flag.b = !g.neg
     let faults (o : Word) (i : Instr) : Prop :=
       exec i s = .next (enterTrap s a { cause := 0x01, info := o, info2 := originB a b.pc } b.pc)
     let landed (l : List Nat) : Prop := ∀ i ∈ l, b.readyAt i ≤ s.cyc
     let first (l : List PReg) (o : Word) : Prop := ∃ p, l.find? (·.poison) = some p ∧ o = p.v
     (∀ o, flag.poison = true → o = latchOrigin (s.tile a).sys.platchB →
       (∀ w : BWide, w.guard = g → ∀ i ∈ [Instr.br, .call, .loopi], faults o (i w)) ∧ faults o (.bFence x.order x.scope g) ∧
       ∀ f : BForm, f.guard = g →
         ∀ i ∈ oneSource ++ twoSources x ++ recordSource ++ [Instr.bAcas x.mem, .bPf x.level, .emul], faults o (i f)) ∧
     ∀ f : BForm, f.guard = g → runs → ∀ o,
       (landed (formRegs f) → (first [readB s a f.a] o → ∀ i ∈ oneSource, faults o (i f)) ∧
         (first [readB s a f.a, readB s a f.b] o → ∀ i ∈ twoSources x, faults o (i f))) ∧
       (landed (recordRegs f.a ++ srcRegs f.b) → first (recordVals s a f.a ++ [readB s a f.b]) o →
         ∀ i ∈ recordSource, faults o (i f)) ∧
       ∀ d : Fin 32, landed (d.val :: formRegs f) → f.dst = .g d →
         first [readB s a f.a, readB s a f.b, Tab.get b.r.g d.val] o → faults o (.bAcas x.mem f)) ∧
  (∀ (s : State) (a : Nat),
     (mayTakeTrap s a = false → exec (.trapEntry a) s = .next s) ∧
     (∀ p rest, mayTakeTrap s a = true → (s.tile a).sys.posted = p :: rest →
       let enters (posted posters : List Posted) : Prop := exec (.trapEntry a) s =
         .next (enterTrap (s.modSys a fun x => { x with posted := posted, posters := posters }) a p.trap (s.tile a).bk.pc)
       ((s.tile a).sys.posters = [] → enters rest []) ∧
       ∀ q qs, (s.tile a).sys.posters = q :: qs → enters (insertPosted q rest) qs) ∧
     ∃ t, exec (.traceFreeze a) s = .next t ∧
       (t.tile a).sys.frozen = ((s.tile a).sys.frozen || (s.tile a).sys.post == 1) ∧
       ((s.tile a).sys.post ≠ 1 → (t.tile a).sys = (s.tile a).sys) ∧ OutsideKept s t a ∧ TileKept s t a ∧
       (t.tile a).bk = (s.tile a).bk)

/-- R419, R391, R409, R397: `trap` retires and traps with A in INFO and the next word as saved pc; `brk` traps with its own
address; `rfe`, whether traps are on or off and whether a loop ends at its word or not, restores the registers and the pc that
the frame holds, turns traps on and leaves the loop buffer and memory alone, in 50 cycles, 48 of them on the shared port of the frame's
memory tile; it asks again while that port serves another, and takes MEM_ROLE where that memory tile is no buffer (R208, R210; which
address INFO holds and that the frame may lie in a copy's buffer is log entry 123). A misaligned pc faults BAD_TARGET at the fetch, with
the pc in INFO (log entry 114). -/
def Obligations.TrapBreakAndReturn : Prop :=
  ∀ (f : BForm) (s : State), IssuesForm s f → s.banker.hasPending s.cyc = false → s.banker.emul = none →
    let a := s.actor
    let at' (off : Nat) : Nat := readNat s.mem (s.frameBase a + off) 8
    exec (.trap f) s =
      .next (enterTrap (movedOn s s) a { cause := 0x20, info := srcA s f } ((movedOn s s).tile a).bk.pc) ∧
    exec (.bBrk f) s = .next (enterTrap s a { cause := 0x21 } s.banker.pc) ∧
    let mt := (s.frameAt a).1
    ((s.roleOf a mt).isBuffer = false → exec (.rfe f) s = .next (enterTrap s a
      { cause := 0x0C, info := BitVec.ofNat 64 (mt * 65536 + (s.frameAt a).2) } s.banker.pc)) ∧
    ((s.roleOf a mt).isBuffer = true → (s.port a mt).serves s.cyc 0 = false → exec (.rfe f) s = .next (askPort s a mt 0)) ∧
    ((s.roleOf a mt).isBuffer = true → (s.port a mt).serves s.cyc 0 = true → ∃ t, exec (.rfe f) s = .next t ∧
      (t.tile a).bk.pc = BitVec.ofNat 64 (at' 0x08) ∧ (t.tile a).sys = { (s.tile a).sys with ten := true } ∧
      (t.tile a).bk.nextIssue = s.cyc + 50 ∧ (t.tile a).bk.lbvalid = s.banker.lbvalid ∧
      (t.tile a).bk.lbbase = s.banker.lbbase ∧ (t.tile a).bk.lblen = s.banker.lblen ∧ (t.tile a).bk.lb = s.banker.lb ∧
      ((at' 0x08) % 8 ≠ 0 → fetchWord t a (t.tile a).bk.pc = .error { cause := 0x18, info := (t.tile a).bk.pc }) ∧
      (∀ i < 32, Tab.get (t.tile a).bk.r.g i = { v := BitVec.ofNat 64 (at' (0x80 + 8 * i)), poison := (at' 0x70).testBit i }) ∧
      (∀ i < 7, (t.tile a).bk.r.flag i = { b := (at' 0x20).testBit i, poison := (at' 0x70).testBit (32 + i) }) ∧
      (∀ n < 3, Tab.get (t.tile a).bk.r.lc n = at' (0x28 + 8 * n) % 2 ^ 32 ∧
        Tab.get (t.tile a).bk.r.start n = BitVec.ofNat 64 (at' (0x40 + 8 * n)) ∧
        Tab.get (t.tile a).bk.r.stop n = BitVec.ofNat 64 (at' (0x58 + 8 * n)) ∧
        Tab.get (t.tile a).bk.r.active n = (at' 0x20).testBit (8 + n)) ∧
      OutsideKept s t a ∧ TileKept (usePort s a mt 0 48) t a)

/-- R419, R410: `halt` and `idle` stop the banker in states 1 and 2 behind themselves (`idle` not where a trap can be taken at
once); `bcinv` empties the fetch cache and the loop buffer of every tile in its scope, once the banker's stores are
acknowledged, and of no other; an operand outside 1 to 3 takes SYS_ARG. R412, R413, R419: `trig` and `tmark` record one entry,
with the cycle, the type, the banker's bit and A (16 bits of it for `trig`), while the tile records; `trig` meets the trigger:
one that is armed for its ID fires and is disarmed, and that is noted with the event whether it is recorded or not. That neither `trig` nor `tmark` has a class bit that masks it is the
model's choice (log entry 103). -/
def Obligations.HaltIdleInvalidationAndTraceMarks : Prop :=
  (∀ (f : BForm) (s : State), IssuesForm s f →
     let a := s.actor
     let x := srcA s f
     exec (.halt f) s = .next ((movedOn s s).modBk a fun b => { b with mode := 1 }) ∧
     ((s.tile a).sys.ten = false ∨ (s.tile a).sys.posted = [] →
       exec (.idle f) s = .next ((movedOn s s).modBk a fun b => { b with mode := 2 })) ∧
     ((s.tile a).sys.ten = true → (s.tile a).sys.posted ≠ [] →
       ∃ t, exec (.idle f) s = .next t ∧ (t.tile a).bk = { ((movedOn s s).tile a).bk with mode := 0 } ∧ OutsideKept s t a) ∧
     (1 ≤ x.toNat → x.toNat ≤ 3 → outstandingStores (s.tile a).mem .banker = [] →
       ∃ t, exec (.bcinv f) s = .next t ∧
         (∀ u, u = a ∨ x.toNat = 3 ∨ (x.toNat = 2 ∧ s.wallOf u = s.wallOf a) →
           (t.tile u).bk.fcache = [] ∧ (t.tile u).bk.lbvalid = false) ∧
         (∀ u, u ≠ a → (x.toNat = 1 ∨ (x.toNat = 2 ∧ s.wallOf u ≠ s.wallOf a)) → t.tile u = s.tile u) ∧
         (∀ y, readByte t.mem y = readByte s.mem y) ∧ RegsKept s t a .none) ∧
     (x.toNat = 0 ∨ 3 < x.toNat → s.banker.hasPending s.cyc = false → s.banker.emul = none →
       exec (.bcinv f) s = .next (enterTrap s a { cause := 0x24, info := x } s.banker.pc))) ∧
  (∀ (f : BForm) (s : State), IssuesForm s f →
     let a := s.actor
     let x := (s.tile a).sys
     let entry (typ data : Nat) : Nat := (s.cyc % 2 ^ 48) * 2 ^ 80 + typ * 2 ^ 76 + 2 ^ 75 + data
     let item (e : Nat) (fire : Option (Bool × Nat)) : TraceItem := { entry := e, kept := x.recording, fire := fire }
     let put (e : Nat) : State :=
       if x.recording then s.modSys a fun y => { y with traceBuf := y.traceBuf ++ [item e none] } else s
     let id := ((srcA s f).setWidth 16).toNat
     let fires := x.trigctl.getLsbD 63 = true ∧ (x.trigctl.extractLsb' 59 2).toNat = 0 ∧ (x.trigctl.setWidth 16).toNat = id
     exec (.bTmark f) s = .next (movedOn s (put (entry 4 (srcA s f).toNat))) ∧
     (¬ fires → exec (.bTrig f) s = .next (movedOn s (put (entry 5 id)))) ∧
     (fires → ∃ t, exec (.bTrig f) s = .next t ∧ (t.tile a).sys.fired = true ∧ (t.tile a).sys.trigctl.getLsbD 63 = false ∧
       (t.tile a).sys.traceBuf =
         x.traceBuf ++ [item (entry 5 id) (some (x.trigctl.getLsbD 62, (x.trigctl.setWidth 56).toNat))] ∧
       (∀ y, readByte t.mem y = readByte s.mem y) ∧ RegsKept s t a .none))

/-- R418, R419, R311: `sysrd`, `syswr` and `sysrdt` stall the banker until the register or the trace entry has been reached
(at t+1 in the own tile's block); the reply of such an access performs it, writes what a read returns and lets the banker go
on. An offset that is unassigned, misaligned, too wide, host-only or of an unassigned tile takes SYS_REG. -/
def Obligations.SystemRegisterAccessIsPerformedByTheReply : Prop :=
  ∀ (f : BForm) (s : State),
    let a := s.actor
    let x := srcA s f
    let stalled (w : Stall) : State := s.modBk a fun b => { b with stall := w, answer := none }
    let sent (own : Bool) (w : Stall) : State :=
      if own then schedule (stalled w) (s.cyc + 1) (.replyArrival a 0) else stalled w
    (IssuesForm s f →
      (∀ r, x.toNat < 2 ^ 32 → x.toNat % 8 = 0 → sysRegAt s (ownOffset s a x.toNat) = some r → r.hostOnly = false →
        exec (.sysrd f) s = .next (sent (ownBlock a r) (.sysreg false (ownOffset s a x.toNat) 0 f.dst)) ∧
        exec (.syswr f) s = .next (sent (ownBlock a r) (.sysreg true (ownOffset s a x.toNat) (srcB s f) .none))) ∧
      ((2 ^ 32 ≤ x.toNat ∨ x.toNat % 8 ≠ 0 ∨ sysRegAt s (ownOffset s a x.toNat) = none ∨
          ∃ r, sysRegAt s (ownOffset s a x.toNat) = some r ∧ r.hostOnly = true) →
        s.banker.hasPending s.cyc = false → s.banker.emul = none →
        exec (.sysrd f) s = .next (enterTrap s a { cause := 0x23, info := x } s.banker.pc) ∧
        exec (.syswr f) s = .next (enterTrap s a { cause := 0x23, info := x } s.banker.pc)) ∧
      (x.toNat < 2 ^ 11 → (srcB s f).toNat < 2 ^ 15 →
        let u := if x.getLsbD 10 then a else (x.setWidth 10).toNat
        s.tileOk u = true →
        exec (.sysrdt f) s = .next (sent (u == a) (.traceRead u (srcB s f).toNat f.dst)))) ∧
    (∀ wr off v d r, (s.tile a).bk.stall = .sysreg wr off v d → sysRegAt s off = some r →
      let p := if wr then (writeReg s r v, 0) else readReg s r
      (ownBlock a r = false → exec (.replyArrival a 0) s = .next (unstall p.1 a d p.2)) ∧
      (ownBlock a r = true → notYet s a = false → exec (.replyArrival a 0) s = .next (finishLast p.1 a d p.2))) ∧
    (∀ u i d, (s.tile a).bk.stall = .traceRead u i d → u ≠ a →
      let e := Tab.get (s.tile u).sys.trace (i % 2 ^ 14)
      exec (.replyArrival a 0) s = .next (unstall s a d (if i.testBit 14 then e / 2 ^ 64 else e % 2 ^ 64)))

/-- R411: `emul` refuses a word of row 0xF, `lbload`, `lbrun` or one of more than 48 bits with status 1; any other word it
takes up: the banker works on the frame's registers and pc, its own are kept for the end, and the guard of the word is then
read there; the frame is read through its shared port, and one that is no buffer takes MEM_ROLE (R208, R210; log entry 123). A
poisoned A is data, which R419 says of this instruction. When the word has run, d receives 0x00, the frame takes each bit of its
registers and of EPC that the word changed, and the handler goes on behind its `emul`; a fault of the word gives d 0x02 with the cause
and leaves the frame as it was. -/
def Obligations.EmulationTakesUpTheFrame : Prop :=
  (∀ (f : BForm) (s : State), Issues s f.guard f.dst (formRegs f) [] →
    let a := s.actor
    let x := srcA s f
    let op := (x.toNat / 2 ^ 40) % 256
    let mt := (s.frameAt a).1
    (2 ^ 48 ≤ x.toNat ∨ 0xF0 ≤ op ∨ op = 0x48 ∨ op = 0x49 → exec (.emul f) s = .next (wrote s s f.dst 1 8)) ∧
    (x.toNat < 2 ^ 48 → op < 0xF0 → op ≠ 0x48 → op ≠ 0x49 → s.banker.hasPending s.cyc = false →
      ((s.roleOf a mt).isBuffer = true → (s.port a mt).serves s.cyc 0 = true →
        exec (.emul f) s = .next ((usePort s a mt 0 1).modBk a fun b =>
          { b with emul := some { regs := b.r, pc := b.pc, frame := frameRegs s.mem (s.frameBase a),
                                  epc := frameEpc s.mem (s.frameBase a), d := f.dst, word := x.toNat },
                   r := frameRegs s.mem (s.frameBase a), pc := frameEpc s.mem (s.frameBase a), ready := [] })) ∧
      ((s.roleOf a mt).isBuffer = true → (s.port a mt).serves s.cyc 0 = false → exec (.emul f) s = .next (askPort s a mt 0)) ∧
      ((s.roleOf a mt).isBuffer = false → s.banker.emul = none → exec (.emul f) s = .next (enterTrap s a
        { cause := 0x0C, info := BitVec.ofNat 64 (mt * 65536 + (s.frameAt a).2) } s.banker.pc)))) ∧
  ∀ (s : State) (a : Nat) (e : Emul),
    let b := (s.tile a).bk
    let base := s.frameBase a
    let behind (u : State) (v : Nat) : Prop :=
      (u.tile a).bk.emul = none ∧ (u.tile a).bk.stall = .none ∧ (u.tile a).bk.nextIssue = s.cyc + 8 ∧
      (∀ i : Fin 32, Tab.get (u.tile a).bk.r.g i.val = if e.d = .g i then { v := BitVec.ofNat 64 v } else Tab.get e.regs.g i.val) ∧
      (∀ i : Fin 7, (u.tile a).bk.r.flag i.val = if e.d = .f (i.castSucc) then { b := v.testBit 0 } else e.regs.flag i.val) ∧
      ((∀ n < 3, Tab.get e.regs.active n = true → Tab.get e.regs.stop n ≠ e.pc) → (u.tile a).bk.pc = e.pc + 8) ∧
      (u.tile a).sys = (s.tile a).sys ∧ ∀ k, k ≠ a → u.tile k = s.tile k
    let old (i : Nat) : Nat := (frameWords e.frame {} e.epc).getD i 0
    let new (i : Nat) : Nat := (frameWords b.r {} b.pc).getD i 0
    (behind (emulDone s a e) 0 ∧
      (∀ x, (x < base ∨ base + 0x180 ≤ x) → readByte (emulDone s a e).mem x = readByte s.mem x) ∧
      ((s.roleOf a (s.frameAt a).1).isBuffer = true → ∀ i < 48, ∀ n < 64,
        (readNat (emulDone s a e).mem (base + 8 * i) 8).testBit n =
          if (old i).testBit n = (new i).testBit n then (readNat s.mem (base + 8 * i) 8).testBit n else (new i).testBit n)) ∧
    (b.emul = some e → ∀ tr epc, behind (preciseFault s a tr epc) (2 + tr.cause * 2 ^ 8) ∧ (preciseFault s a tr epc).mem = s.mem)

/-! ## Launches and placement (row 0x5) -/

/-- R186, R188, R189: an accepted launch gets an entry of the tile's table, in the queue, under the next identifier that is
not in the table, and its identifier in bits 31:16 of d, and the wall's placer is to run; a launch word with B = 0 whose handle is live and checked, whose
reserved bits are zero, that could be held by the wall and has a sink or a TRIP is accepted, with O_c = c × TRIP. R187, R188:
the first condition that a launch word breaks gives its status; `launch` writes the status and changes nothing else; `launcht`
writes nothing and takes LAUNCH_REJECT with the status. -/
def Obligations.LaunchEntersTheQueueOrChangesNothing : Prop :=
  (∀ (f : BForm) (s : State), IssuesForm s f →
     let a := s.actor
     let w := srcA s f
     let h := (w.setWidth 12).toNat
     let trip := (w.extractLsb' 32 32).toNat
     let n := (w.extractLsb' 12 5).toNat + 1
     (∀ u l ls, checkLaunch s a w.toNat (srcB s f).toNat = .ok (u, l) → (queuedLids (u.tile a)).length < 16 →
       tableRoom (u.tile a).launches = some ls →
       let k := nextLid ls 65 (u.tile a).lidNext
       let t := askPlacer (u.modTile a fun x => { x with launches := Tab.set ls (k % 65536) l, lidNext := k + 1 }) (u.wallOf a)
       let time := if w.getLsbD 27 = true ∨ (srcB s f).toNat = 0 then 2 else 2 + n
       l.handle = h ∧ l.trip = trip ∧ l.csem = (w.extractLsb' 19 8).toNat ∧ l.pri = (w.extractLsb' 17 2).toNat ∧ l.ncopies = n ∧
       l.state = .queued ∧ l.accepted = u.cyc ∧
       exec (.launch f) s = .next (wrote s t f.dst (BitVec.ofNat 64 (k % 65536 * 2 ^ 16)) time) ∧
       exec (.launcht f) s = .next (wrote s t f.dst (BitVec.ofNat 64 (k % 65536 * 2 ^ 16)) time)) ∧
     (h ≠ 0 → (Tab.get s.plinth.cfg h).live = true → (Tab.get s.plinth.cfg h).check = 0 → (w.extractLsb' 28 4).toNat = 0 →
       (findRegions (fun _ => 0) (wallTiles s (s.wallOf a)) (s.kernel h) n []).isSome = true →
       (trip ≠ 0 ∨ (s.kernel h).sinks ≠ []) → w.getLsbD 27 = false → srcB s f = 0 →
       ∃ l, checkLaunch s a w.toNat (srcB s f).toNat = .ok (s, l) ∧ l.staged = false ∧
         l.offs = (List.range n).map fun c => (c * trip % 2 ^ 32, 0))) ∧
  (∀ (f : BForm) (s : State), IssuesForm s f → s.banker.hasPending s.cyc = false → s.banker.emul = none →
     let a := s.actor
     let w := srcA s f
     let h := (w.setWidth 12).toNat
     let e := Tab.get s.plinth.cfg h
     let n := (w.extractLsb' 12 5).toNat + 1
     let time := if w.getLsbD 27 = true ∨ (srcB s f).toNat = 0 then 2 else 2 + n
     let rejected (c : Nat) : Prop :=
       exec (.launch f) s = .next (wrote s s f.dst (BitVec.ofNat 64 c) time) ∧
       exec (.launcht f) s = .next (enterTrap s a { cause := 0x1B, info := BitVec.ofNat 64 c } s.banker.pc)
     (h = 0 ∨ e.live = false → rejected 0x01) ∧
     (h ≠ 0 → e.live = true → e.check ≠ 0 → rejected (if e.check = 0x03 then 0x03 else 0x02)) ∧
     (h ≠ 0 → e.live = true → e.check = 0 →
       ((w.extractLsb' 28 4).toNat ≠ 0 → rejected 0x04) ∧
       ((w.extractLsb' 28 4).toNat = 0 → srcB s f = 0 ∨ w.getLsbD 27 = true →
         let fits := findRegions (fun _ => 0) (wallTiles s (s.wallOf a)) (s.kernel h) n []
         (fits = none → rejected 0x03) ∧
         (fits ≠ none → (w.extractLsb' 32 32).toNat = 0 → (s.kernel h).sinks = [] → rejected 0x06))) ∧
     ∀ u l, checkLaunch s a w.toNat (srcB s f).toNat = .ok (u, l) →
       16 ≤ (queuedLids (u.tile a)).length ∨ tableRoom (u.tile a).launches = none → rejected 0x05)

/-- R181, R184, R185, R206: `cfgload` stores an image under a free handle, the lowest (log entry 150), with its check code, `cfgfree` gives back a
handle no live launch uses, `cfgstat` reports it; a handle that is not live answers BAD_HANDLE, one in use IN_USE. -/
def Obligations.ConfigurationStore : Prop :=
  ∀ (f : BForm) (s : State), IssuesForm s f →
    let w := srcA s f
    let h := w.toNat
    let known := h < 4096 ∧ h ≠ 0 ∧ (Tab.get s.plinth.cfg h).live = true
    let e := Tab.get s.plinth.cfg h
    let hdr := imgHeader e.bytes
    let unused := { s with plinth := { s.plinth with cfg := Tab.set s.plinth.cfg h {} } }
    (∀ u bytes k, readImage s s.actor h = some (u, bytes) → freeHandle u = some k → storeUsed u + bytes.length ≤ 2 ^ 26 →
      exec (.cfgload f) s =
        .next (wrote s { u with plinth := { u.plinth with
            cfg := Tab.set u.plinth.cfg k { live := true, bytes := bytes, check := checkImage bytes } } }
          f.dst (BitVec.ofNat 64 (k * 2 ^ 8)) (16 + (imgLen (imgHeader bytes) + 63) / 64))) ∧
    (h % 8 ≠ 0 → exec (.cfgload f) s = .next (wrote s s f.dst 0x0D 16)) ∧
    (known → usersOf s h = 0 → exec (.cfgfree f) s = .next (wrote s unused f.dst 0 2)) ∧
    (known → usersOf s h ≠ 0 → exec (.cfgfree f) s = .next (wrote s s f.dst 0x0A 2)) ∧
    (known → exec (.cfgstat f) s = .next (wrote s s f.dst
      (BitVec.ofNat 64 (e.check * 2 ^ 8 + hdr / 2 ^ 40 % 4 * 2 ^ 16 + hdr / 2 ^ 42 % 64 * 2 ^ 18 + usersOf s h % 65536 * 2 ^ 24)) 2)) ∧
    (¬ known → exec (.cfgfree f) s = .next (wrote s s f.dst 1 2) ∧ exec (.cfgstat f) s = .next (wrote s s f.dst 1 2))

/-- R196, R197, R199, R203, R204: outside a sweep, `lqstat` reports state, resident copies and priority, `ctxpri` sets the
priority, `orphan` reads the orphan counter and clears it on demand, `lcancel` cancels (at once, with +1 on the semaphore, a
queued or evicted launch; a running one stops firing), and `ctxevict` asks for the eviction of a running launch whose copies
can be cut; a launch that is unknown or in the wrong state answers NO_LAUNCH and nothing changes, which `ctxpri` and `lintel` test before
their other operands and MISMATCH (log entries 113 and 115). R201, R203, R205: `lintel`
starts the sweep from a running launch to its staged partner (MISMATCH, BUSY or NO_LAUNCH otherwise); `compact` answers BUSY
while a compaction of the wall is under way, answers the number of moves it plans otherwise, and with no copy to move signals the
semaphore where asked, behind the banker's own accesses (R254). -/
def Obligations.LaunchControl : Prop :=
  (∀ (f : BForm) (s : State), IssuesForm s f →
     let a := s.actor
     let w := srcA s f
     let lid := w.toNat
     let l := s.launch a lid
     let known := lid < 65536 ∧ l.used = true
     let ended := l.state = .ended ∨ l.state = .cancelled
     (known →
       exec (.lqstat f) s = .next (wrote s s f.dst
         (BitVec.ofNat 64 (l.state.code * 2 ^ 8 + (copiesOf s a lid).length * 2 ^ 16 + l.pri * 2 ^ 22)) 2) ∧
       exec (.orphan f) s = .next (wrote s
         (if (srcB s f).getLsbD 0 then s.modLaunch a lid fun l => { l with orphans := 0 } else s) f.dst
         (BitVec.ofNat 64 (l.orphans * 2 ^ 8)) 2)) ∧
     (known → ¬ ended → sweepOf s a lid = none →
       ((srcB s f).toNat ≤ 3 →
         exec (.ctxpri f) s = .next (wrote s (s.modLaunch a lid fun l => { l with pri := (srcB s f).toNat }) f.dst 0 2)) ∧
       (3 < (srcB s f).toNat → exec (.ctxpri f) s = .next (wrote s s f.dst 0x04 2)) ∧
       (l.state = .running → canCut s a lid = true →
         exec (.ctxevict f) s = .next (wrote s (s.modLaunch a lid fun l => { l with evicting := true }) f.dst 0 2)) ∧
       (l.state = .running → canCut s a lid = false → exec (.ctxevict f) s = .next (wrote s s f.dst 0x0E 2)) ∧
       (l.state ≠ .running → exec (.ctxevict f) s = .next (wrote s s f.dst 0x09 2)) ∧
       ∃ u, exec (.lcancel f) s = .next (wrote s u f.dst 0 2) ∧ (u.launch a lid).state = .cancelled ∧
         (l.state = .queued ∨ l.state = .evicted → accessesOf s (copiesOf s a lid) = [] → Raised s u a l.csem 1) ∧
         (l.state = .running → (u.launch a lid).cancelling = true ∧
           ∀ c ∈ copiesOf u a lid, c.phase = .stopped)) ∧
     (known → ended → sweepOf s a lid = none → exec (.ctxevict f) s = .next (wrote s s f.dst 0x09 2)) ∧
     (known → ended → exec (.lcancel f) s = .next (wrote s s f.dst 0x09 2) ∧
       exec (.ctxpri f) s = .next (wrote s s f.dst 0x09 2)) ∧
     (¬ known → exec (.lqstat f) s = .next (wrote s s f.dst 0x09 2) ∧ exec (.lcancel f) s = .next (wrote s s f.dst 0x09 2) ∧
       exec (.ctxpri f) s = .next (wrote s s f.dst 0x09 2) ∧ exec (.ctxevict f) s = .next (wrote s s f.dst 0x09 2) ∧
       exec (.orphan f) s = .next (wrote s s f.dst 0x09 2))) ∧
  (∀ (f : BForm) (s : State), IssuesForm s f →
     let a := s.actor
     let x := (srcA s f).toNat
     let y := (srcB s f).toNat
     let lx := s.launch a x
     let ly := s.launch a y
     let known := x < 65536 ∧ lx.used = true ∧ y < 65536 ∧ ly.used = true
     let own := (outstanding (s.tile a).mem .banker).map fun i => (a, i)
     let plan (ms : List CopyRef) : Compaction :=
       { moves := ms, tile := a, sem := ((srcA s f).setWidth 8).toNat, sigEn := (srcA s f).getLsbD 8, waits := own }
     let partners := ly.staged = true ∧ ly.partner = x ∧ (ly.state = .staged ∨ ly.state = .sweeping)
     (known → partners → ly.state = .staged → lx.state = .running → x ≠ y →
       ∃ u, exec (.lintel f) s = .next (wrote s u f.dst 0 2) ∧ (u.launch a x).state = .sweeping ∧ (u.launch a y).state = .sweeping ∧
         (u.launch a x).sweep = some { newLid := y } ∧ OutsideKept s u a) ∧
     (known → ¬ partners → exec (.lintel f) s = .next (wrote s s f.dst 0x0B 2)) ∧
     (known → partners → lx.state = .sweeping ∨ ly.state = .sweeping → exec (.lintel f) s = .next (wrote s s f.dst 0x08 2)) ∧
     (known → partners → ly.state = .staged → lx.state ≠ .running → lx.state ≠ .sweeping →
       exec (.lintel f) s = .next (wrote s s f.dst 0x09 2)) ∧
     (¬ known → exec (.lintel f) s = .next (wrote s s f.dst 0x09 2)) ∧
     ((s.wall (s.wallOf a)).compaction ≠ none → exec (.compact f) s = .next (wrote s s f.dst 0x08 2)) ∧
     ((s.wall (s.wallOf a)).compaction = none → s.copies.filter (movable s (s.wallOf a)) = [] →
       exec (.compact f) s = .next (wrote s
         (if (srcA s f).getLsbD 8 then raiseAfter s a ((srcA s f).setWidth 8).toNat own else s) f.dst 0 2)) ∧
     (∀ u m ms, (s.wall (s.wallOf a)).compaction = none →
       ((s.copies.filter (movable s (s.wallOf a))).foldl (fun acc c => insertBy moveBefore c acc) []).foldl
         (planMove (s.wallOf a)) (s, []) = (u, m :: ms) →
       exec (.compact f) s = .next (wrote s
         (u.modWall (s.wallOf a) fun z => { z with compaction := some (plan (m :: ms)) }) f.dst
         (BitVec.ofNat 64 ((m :: ms).length % 65536 * 2 ^ 8)) 2)))

/-- R190, R191, R193, R30: a placer pass over the one launch that is queued, and fits, puts every copy into the regions found,
in the loading phase, and the launch into loading; nothing happens where the queue is empty. A load that is over gives the
copy its tables, its initial registers and zeroed memory tiles, and its II counter starts D_c cycles later; when it starts,
the copy runs. R37, R189, R194, R197: when a launch's end conditions hold, its copies leave, its semaphore gets +1, as a release behind its
copies' accesses (R254), and its entry holds the final state; otherwise nothing happens. When the last instance of a counted copy is over, every sink that has
none receives end-of-stream. -/
def Obligations.PlacingLoadingAndEnding : Prop :=
  (∀ s : State,
     (∀ w, wallQueue s w = [] → exec (.placerPass w) s = .next s) ∧
     (∀ w t lid xs, wallQueue s w = [(t, lid)] → regionsFor s (claims s) t lid = some xs →
       let l := s.launch t lid
       ∃ u, exec (.placerPass w) s = .next u ∧ (u.launch t lid).state = .loading ∧ (∀ x, readByte u.mem x = readByte s.mem x) ∧
         ∃ new, u.copies = s.copies ++ new ∧ new.length = min l.ncopies xs.length ∧
           ∀ c ∈ new, c.phase = .loading ∧ c.ref.issuer = t ∧ c.ref.lid = lid ∧ c.kern = s.kernel l.handle ∧
             ∃ x, xs[c.ref.copy]? = some x ∧ c.tile = x.tile ∧ c.slot = x.slot ∧ c.pages = x.pages ∧
               (l.staged = false → (c.oc, c.dc) = l.offs.getD c.ref.copy (0, 0))) ∧
     (∀ ref c, s.copy? ref = some c → c.phase = .loading → c.loadAt ≤ s.cyc → c.restore = none → c.kern.mtCache = 0 →
       c.kern.data = [] → (s.launch ref.issuer ref.lid).staged = false →
       ∃ u n, exec (.copyLoadDone ref) s = .next u ∧ u.copy? ref = some n ∧ n.phase = .waiting ∧
         n.table = kernelTables c.kern ∧ (∀ x ∈ ceList c.kern.shape, Tab.get n.ces x = initCe c.kern x) ∧
         (s.cyc + 1 + c.dc, Instr.copyStart ref) ∈ u.sched ∧
         ∀ m < 16, bitOf c.kern.mtUse m = true → ∀ off < 65536, readByte u.mem (mtAddr c.tile (physMt c m) off) = 0) ∧
     ∀ ref c, s.copy? ref = some c → c.phase = .waiting →
       ∃ u, exec (.copyStart ref) s = .next u ∧ u.copy? ref = some { c with phase := .running } ∧
         (∀ x, readByte u.mem x = readByte s.mem x) ∧ u.tiles = s.tiles) ∧
  (∀ s : State,
     (∀ t lid, launchEnds s t lid = true →
       let l := s.launch t lid
       ∃ u, exec (.launchEnd t lid) s = .next u ∧ (u.launch t lid).state = (if l.cancelling then .cancelled else .ended) ∧
         copiesOf u t lid = [] ∧
         (Raised s u t l.csem 1 ∨ ∃ g ∈ u.signals, g.tile = t ∧ g.sem = l.csem ∧ ∀ p ∈ g.waits, accessOpen u p = true) ∧
         (accessesOf s (copiesOf s t lid) = [] → Raised s u t l.csem 1) ∧
         ∀ c ∈ s.copies, ¬ (c.ref.issuer = t ∧ c.ref.lid = lid) → c ∈ u.copies) ∧
     (∀ t lid, launchEnds s t lid = false → exec (.launchEnd t lid) s = .next s) ∧
     ∀ ref c, s.copy? ref = some c → c.phase = .stopped → landed s c = true →
       (s.launch ref.issuer ref.lid).cancelling = false →
       ∃ u n, exec (.countedEnd ref) s = .next u ∧ u.copy? ref = some n ∧ (∀ m ∈ c.kern.sinks, sinkEnded n m = true) ∧
         (∀ m ∈ c.kern.sinks, sinkEnded c m = true → Tab.get n.fifos m = Tab.get c.fifos m) ∧
         (∀ x, readByte u.mem x = readByte s.mem x) ∧ u.tiles = s.tiles)

/-- R198, R32: at an epoch a tile with an active slot gets a wheel of 16 positions on which every active slot holds at least
one; a tile with none gets an empty wheel; nothing but the wheel and the samples changes. -/
def Obligations.WheelGivesEveryActiveSlotAPosition : Prop :=
  ∀ (s : State) (t : Nat),
    ∃ u, exec (.wheelEpoch t) s = .next u ∧
      ((∃ i < 4, slotPri s t i ≠ none) → (u.tile t).wheel.length = 16) ∧
      (∀ i < 4, slotPri s t i ≠ none → i ∈ (u.tile t).wheel) ∧
      ((∀ i < 4, slotPri s t i = none) → (u.tile t).wheel = []) ∧
      OutsideKept s u t ∧ u.tile t = { s.tile t with wheel := (u.tile t).wheel, occ := [] }

/-- R201, R202, R203: the old context of a sweep stops at its token's start; each diagonal in turn takes its new tables (which
fetch faults is `Config`'s, log entry 11), and a fault reverses the sweep; at the commit the old launch has ended and the new
one runs from 2 cycles on; a reversal leaves the old launch running and the new one staged, and posts CFG_FETCH. -/
def Obligations.SweepSwitchesDiagonalByDiagonal : Prop :=
  ∀ s : State,
    (∀ ref c, s.copy? ref = some c → sweepReady s c = true →
      ∃ u, exec (.lintelSweepStart ref) s = .next u ∧ u.copy? ref = some { c with phase := .sweeping } ∧
        (s.cyc + ((newKernel s ref).ii + 7) / 8, Instr.lintelDiagonalSwitch ref) ∈ u.sched) ∧
    (∀ ref c w n, s.copy? ref = some c → (s.launch ref.issuer ref.lid).sweep = some w →
      let x := Tab.get w.copies ref.copy
      let k := newKernel s ref
      let young := { ref with lid := w.newLid }
      w.reversing = false → x.started = true → x.complete = false → s.copy? young = some n →
      (Config.cfgFetchFault (s.draws + 1) = none →
        ∃ u m, exec (.lintelDiagonalSwitch ref) s = .next u ∧ u.copy? young = some m ∧
          (∀ ce ∈ diagonal k.shape x.diag, Tab.get m.table ce = Tab.get (kernelTables k) ce) ∧
          (x.diag ≠ lastDiagonal k.shape → (s.cyc + (k.ii + 7) / 8, Instr.lintelDiagonalSwitch ref) ∈ u.sched)) ∧
      (∀ ce, Config.cfgFetchFault (s.draws + 1) = some ce → ce ∈ diagonal k.shape x.diag →
        ∃ u v, exec (.lintelDiagonalSwitch ref) s = .next u ∧ (u.launch ref.issuer ref.lid).sweep = some v ∧
          v.reversing = true ∧ v.loc = copyLoc c ce 0)) ∧
    (∀ t lid w, (s.launch t lid).sweep = some w → sweepDone s t lid = true → w.deferred = [] → w.newLid ≠ lid →
      ∃ u, exec (.sweepCommit t lid) s = .next u ∧ (u.launch t lid).state = .ended ∧ (u.launch t lid).sweep = none ∧
        (accessesOf s (copiesOf s t lid) = [] → Raised s u t (s.launch t lid).csem 1) ∧
        (u.launch t w.newLid).state = .running ∧ copiesOf u t lid = [] ∧
        ∀ c ∈ copiesOf u t w.newLid, c.phase = .waiting ∧ (s.cyc + 2, Instr.copyStart c.ref) ∈ u.sched) ∧
    ∀ t lid w, (s.launch t lid).sweep = some w → w.reversing = true → w.deferred = [] → w.newLid ≠ lid →
      (s.tile t).sys.posted.length < 32 →
      ∃ u, exec (.sweepReversalDone t lid) s = .next u ∧ (u.launch t lid).state = .running ∧ (u.launch t lid).sweep = none ∧
        (u.launch t w.newLid).state = .staged ∧
        ∃ p ∈ (u.tile t).sys.posted, p.trap.cause = 0x1C ∧ p.trap.lid = lid ∧ p.trap.info = w.loc ∧
          p.trap.info2 = BitVec.ofNat 64 w.newLid ∧ p.trap.posted = true

/-! ## Regions and slots (E-space) -/

/-- R27, R29, R32, R194, R403: a copy fires only when it is ready and every page of its region grants it the cycle, and
otherwise nothing changes; when it fires without a fault the II counter moves on, the rotating base and the instance number
with it at II, and a counted copy stops after its last instance; a fault of a slot holds the copy. -/
def Obligations.RegionsFireWhenReadyAndGranted : Prop :=
  ∀ (s : State) (ref : CopyRef) (c : Copy), s.copy? ref = some c →
    let fires := s.ready c && (granted s (contenders s)).any fun x => x.ref == ref
    (s.ready c = true → c.phase = .running ∧ c.fired ≤ s.cyc ∧ fireAll s c ≠ .hold) ∧
    (fires = false → exec (.regionFire ref) s = .next s) ∧
    (∀ loc, fires = true → fireAll (passFence s c).1 (passFence s c).2 = .bad loc →
      exec (.regionFire ref) s = .next (regionFault s ref 0x03 loc 0)) ∧
    ∀ (f : Firing) (m : Copy), fires = true →
      fireAll (passFence s c).1 (passFence s c).2 = .ok f → f.s.copy? ref = some m →
      (f.faults = [] → f.brk = none →
        ∃ (t : State) (n : Copy), exec (.regionFire ref) s = .next t ∧ t.copy? ref = some n ∧ n.fired = f.s.cyc + 1 ∧
          n.ces = m.ces ∧ n.fifos = m.fifos ∧ t.mem = f.s.mem ∧ t.tiles = f.s.tiles ∧ t.due = f.s.due ∧
          (m.v + 1 < m.kern.ii → n.v = m.v + 1 ∧ n.base = m.base ∧ n.j = m.j ∧ n.phase = m.phase) ∧
          (m.kern.ii ≤ m.v + 1 → n.v = 0 ∧ n.base = (m.base + 1) % 64 ∧ n.j = m.j + 1 ∧
            n.phase = if (f.s.launchOf m).trip ≠ 0 ∧ (f.s.launchOf m).trip ≤ m.j + 1 then .stopped else m.phase)) ∧
      (f.faults ≠ [] → m.phase = .running →
        ∃ (t : State) (n : Copy) (b : Bool), exec (.regionFire ref) s = .next t ∧ t.copy? ref = some n ∧ n.phase = .held b)

/-- R27, R50, R68, R69, R70, R111, R112, R114, R145, R131 to R146, R153 to R157: when a slot holds, also for the header of a head that is
still to come; faults; consumes its tokens without effect; what a slot of rows 0x0 to 0x5 delivers, and when, and where that value lands; and
what a poison word writes to the destination that its fields name, which waits, faults and lands as a slot's does. That a poison word's guard
field counts for nothing is the model's choice (log entry 156), and so is it that the old value that `npack` keeps part of is a source for
poison and void, that a channel whose format is not narrow faults `nunpk` whatever LANE is, and that a poisoned `cvtnf` leaves the scale latch
(log entry 147). -/
def Obligations.SlotsIssueAndCompute : Prop :=
  (∀ (c : Copy) (x entry : Nat) (e : EInstr) (s : State), decodeE (slotWord c x entry) = some e → (∀ g, e ≠ .nop g) →
    let r := runSlot c x entry s
    let f := slotForm e
    let u := takeTokens c x e true s
    ((∃ ch ∈ readChans c x e, c.head x ch = none) → r = .hold) ∧
    ((∀ ch ∈ readChans c x e, (c.head x ch).isSome = true) → (∃ ch ∈ readChans c x e, c.badHead x ch = true) → r = .bad) ∧
    ((∀ ch ∈ readChans c x e, (c.head x ch).isSome = true ∧ c.badHead x ch = false) →
      (∃ ch ∈ readChans c x e, c.headWaits x ch = true) ∨ hasRoom c x e = false → r = .hold) ∧
    (SlotFed c x e → (slotGuard c x e).poison = true →
      r = .fault 0x01 (latchOrigin (Tab.get (s.tile c.tile).sys.platch c.slot))) ∧
    (SlotFed c x e → (slotGuard c x e).poison = false → leased c x f = true → r = .fault 0x02 0) ∧
    (SlotFed c x e → (slotGuard c x e).poison = false → leased c x f = false → badDecider c x e = none →
      (slotGuard c x e).b = f.guard.neg → r = .go (takeTokens c x e false s)) ∧
    (SlotActs c x e → ∀ k, computeOf c x e = some k →
      let a := srcVal c x k.form.a
      let b := srcVal c x k.form.b
      let d := srcVal c x k.form.c
      let o := dstVal c x (bindDst c k.form.dst)
      let read := [a, b, d] ++ if k.old then [o] else []
      (∀ p ∈ read, p.poison = true → ∃ q ∈ read, q.poison = true ∧
        r = .go (emit c x (bindDst c k.form.dst) { v := q.v, poison := true } k.lat false u)) ∧
      ((∀ p ∈ read, p.poison = false) → (∃ p ∈ read, p.void = true) →
        r = .go (emit c x (bindDst c k.form.dst) { void := true } k.lat false u)) ∧
      ((∀ p ∈ read, p.poison = false ∧ p.void = false) → ∀ v, k.fn a.v b.v d.v o.v = .ok v →
        r = .go (emit c x (bindDst c k.form.dst) { v := v } k.lat false u))) ∧
    (∀ op m f, e = .alu op m f → SlotActs c x e →
      (∀ p ∈ [srcVal c x f.a, srcVal c x f.b, srcVal c x f.c], p.poison = false ∧ p.void = false) →
      r = .go (emit c x (bindDst c f.dst) { v := aluResult op m (srcVal c x f.a).v (srcVal c x f.b).v (srcVal c x f.c).v }
        (aluLatency op) false u)) ∧
    (SlotActs c x e → (∀ p ∈ [srcVal c x f.a, srcVal c x f.b, srcVal c x f.c], p.poison = false ∧ p.void = false) →
      let a := (srcVal c x f.a).v
      let b := (srcVal c x f.b).v
      let d := (srcVal c x f.c).v
      let dst := bindDst c f.dst
      let o := dstVal c x dst
      let gives (lat : Nat) (v : Word) : Prop := r = .go (emit c x dst { v := v } lat false u)
      let code (lat : Nat) (g : Fmt) (rm : Rounding) (v : FVal) : Prop := gives lat (BitVec.ofNat 64 (g.round rm v))
      (∀ op fm rm g, e = .float op fm rm g →
        let F := floatFmt c x fm (formSrcs f)
        let val (w : Word) : FVal := F.decode (w.toNat % 2 ^ F.width)
        let va := val a
        let vb := val b
        let vd := val d
        let test (t : Bool) : Prop := gives 1 (if va.isNan = false ∧ vb.isNan = false ∧ t = true then 1 else 0)
        match op with
        | .fadd => code 3 F rm (FVal.add rm va vb)
        | .fsub => code 3 F rm (FVal.add rm va vb.negate)
        | .fmul => code 3 F rm (va.mul vb)
        | .fma => code 4 F rm (FVal.add rm (va.mul vb) vd)
        | .fms => code 4 F rm (FVal.add rm (va.mul vb) vd.negate)
        | .fnma => code 4 F rm (FVal.add rm (va.mul vb).negate vd)
        | .fmin => (va.isNan = true → code 1 F rm vb) ∧ (va.isNan = false → vb.isNan = true → code 1 F rm va) ∧
            (va.isNan = false → vb.isNan = false → va.isZero = false ∨ vb.isZero = false →
              code 1 F rm (if FVal.cmp va vb ≤ 0 then va else vb)) ∧
            (va.isZero = true → vb.isZero = true → code 1 F rm (.zero (va.neg? || vb.neg?)))
        | .fmax => (va.isNan = true → code 1 F rm vb) ∧ (va.isNan = false → vb.isNan = true → code 1 F rm va) ∧
            (va.isNan = false → vb.isNan = false → va.isZero = false ∨ vb.isZero = false →
              code 1 F rm (if 0 ≤ FVal.cmp va vb then va else vb)) ∧
            (va.isZero = true → vb.isZero = true → code 1 F rm (.zero (va.neg? && vb.neg?)))
        | .fabs => code 1 F rm va.mag
        | .fneg => code 1 F rm va.negate
        | .fsgn => code 1 F rm (if b.toNat.testBit (F.width - 1) then va.mag.negate else va.mag)
        | .frint => (∀ neg num den ex, va = .fin neg num den ex → code 2 F rm (.fin neg (quantise rm neg num den ex 0) 1 0)) ∧
            ((∀ neg num den ex, va ≠ .fin neg num den ex) → code 2 F rm va)
        | .fcmpeq => test (FVal.cmp va vb == 0)
        | .fcmplt => test (FVal.cmp va vb == -1)
        | .fcmple => test (decide (FVal.cmp va vb ≤ 0))
        | .fclass => (va = .nan → gives 1 0x100) ∧ (va = .inf true → gives 1 0x1) ∧ (va = .inf false → gives 1 0x80) ∧
            ∀ neg num den ex, va = .fin neg num den ex →
              gives 1 (if num = 0 then (if neg then 0x8 else 0x10) else if num < 2 ^ F.m then (if neg then 0x4 else 0x20)
                else if neg then 0x2 else 0x40)) ∧
      (∀ g rm sf h, e = .cvt g rm sf h → code 2 (destFmt c x g f.dst) rm ((mxFmt c x sf f.a).value a.toNat)) ∧
      (∀ g rm sf h, e = .cvti g rm sf h →
        let v := (EdgeFmt.wide (floatFmt c x sf [f.a])).value a.toNat
        gives 2 (BitVec.ofInt 64 (match g with
          | .s32 => toIntType true 32 rm v
          | .s64 => toIntType true 64 rm v
          | .z32 => toIntType false 32 rm v
          | .z64 => toIntType false 64 rm v))) ∧
      (∀ rm sf h, e = .cvtn rm sf h → (descFmt b = none → r = .fault 0x04 0) ∧
        ∀ g, descFmt b = some g → code 2 g rm (FVal.div ((mxFmt c x sf f.a).value a.toNat) (s20Val (b.toNat / 2 ^ 16 % 2 ^ 20)))) ∧
      (∀ sf h, e = .cvtnf sf h → (descFmt b = none → r = .fault 0x04 0) ∧
        ∀ g, descFmt b = some g →
          let n := s20Fmt.round .ru (FVal.div ((mxFmt c x sf f.a).value a.toNat).mag g.maxFin)
          let sc := if n = 0 then scaleOne else n
          ∃ v : Word, (∀ i < 64, v.getLsbD i = if 16 ≤ i ∧ i < 36 then sc.testBit (i - 16) else b.getLsbD i) ∧
            ((∀ i, dst ≠ .ch i) → gives 2 v) ∧
            ∀ i, dst = .ch i → r = .go (addDue (emit c x .none { v := v } 2 false u)
              { at' := s.cyc + 3, phase := 3, key := x, iss := s.cyc, act := .latch c.ref x i sc })) ∧
      (∀ h hd, e = .scext h → srcHdr c x f.a = some hd →
        gives 1 (BitVec.ofNat 64 (hdrNval hd * 2 ^ 36 + hdrScale hd * 2 ^ 16 + hdrFmt hd))) ∧
      (∀ h, e = .npack h → o.poison = false → o.void = false →
        let lane := b.toNat / 2 ^ 36 % 2 ^ 6
        (descFmt b = none → r = .fault 0x04 0) ∧
        ∀ g, descFmt b = some g → (lanesOf g ≤ lane → r = .fault 0x04 0) ∧
          (lane < lanesOf g →
            let w := containerBits g.width
            ∃ v : Word, gives 1 v ∧ ∀ i < 64, v.getLsbD i = if lane * w ≤ i ∧ i < (lane + 1) * w
              then decide (i - lane * w < g.width) && a.getLsbD (i - lane * w) else o.v.getLsbD i)) ∧
      (∀ g rm h, e = .nunpk g rm h →
        let lane := b.toNat / 2 ^ 36 % 2 ^ 6
        let src : Option (Option EdgeFmt × Nat) := (srcHdr c x f.a).map fun hd => (fmtOfReg (hdrFmt hd), hdrScale hd)
        let (fmt, sc) := src.getD (fmtOfReg (b.toNat % 2 ^ 16), b.toNat / 2 ^ 16 % 2 ^ 20)
        ((∀ n, fmt ≠ some (.narrow n)) → r = .fault 0x04 0) ∧
        ∀ n, fmt = some (.narrow n) → (lanesOf n ≤ lane → r = .fault 0x04 0) ∧
          (lane < lanesOf n → code 2 (wideFmt g) rm (((EdgeFmt.narrow n).value (tokenElem (.narrow n) a.toNat lane)).mul (s20Val sc)))) ∧
      (∀ g rm sf h, e = .fdiv g rm sf h →
        let S := floatFmt c x sf [f.a]
        let D := destFmt c x g f.dst
        code (if D.width = 32 then 12 else 8) D rm (FVal.div (S.decode (a.toNat % 2 ^ S.width)) (S.decode (b.toNat % 2 ^ S.width)))) ∧
      (∀ g rm sf h, e = .fsqrt g rm sf h →
        let S := floatFmt c x sf [f.a]
        let D := destFmt c x g f.dst
        code (if D.width = 32 then 12 else 8) D rm (sqrtVal (S.decode (a.toNat % 2 ^ S.width)))) ∧
      (∀ fn g rm sf h, e = .expfn fn g rm sf h →
        let S := floatFmt c x sf [f.a]
        let l := cePage c x
        let v := BitVec.ofNat 64 ((wideFmt g).round rm (expFnVal fn (S.decode (a.toNat % 2 ^ S.width))))
        (32 ≤ (s.lane c.tile l).slots.length → r = .hold) ∧
        ((s.lane c.tile l).slots.length < 32 → ∃ t, r = .go t ∧
          (t.lane c.tile l).slots = (s.lane c.tile l).slots ++ [.slot c.ref x dst v s.cyc] ∧ t.due = s.due ∧ t.mem = s.mem ∧
          ∀ k, u.copy? c.ref = some k → t.copy? c.ref = some (match leaseOf dst with
            | some n => k.modCe x fun y => { y with lease := y.lease ++ [n] }
            | none => k))) ∧
      ∀ op sz h, e = .bits op sz h →
        let w := sz.bits
        let p := b.toNat % 2 ^ 6
        let len := b.toNat / 2 ^ 6 % 2 ^ 6
        let tab (j : Nat) : Nat := lutTable c x ((b.toNat % 2 ^ 8 + b.toNat / 2 ^ 8 % 2 * j) % 256)
        ∃ v : Word, gives (if op = .lut ∨ op = .lut2 then 2 else 1) v ∧ ∀ i < 64, v.getLsbD i = (decide (i < w) && match op with
          | .bext => decide (i < len ∧ p + i < w) && a.getLsbD (p + i)
          | .bins => if p ≤ i ∧ i < p + len then a.getLsbD (i - p) else d.getLsbD i
          | .brev => a.getLsbD (w - 1 - i)
          | .bperm => let k := b.toNat / 2 ^ (4 * (i / 8)) % 2 ^ 4
              decide (8 * k < w) && a.getLsbD (8 * k + i % 8)
          | .bdec => decide (i = a.toNat % 2 ^ 6)
          | .bsplit => a.getLsbD (i % 4 * (w / 4) + i / 4)
          | .bjoin => a.getLsbD (4 * (i % (w / 4)) + i / (w / 4))
          | .lut => decide (4 * i < w) && (tab i).testBit (a.toNat / 2 ^ (4 * i) % 2 ^ 4)
          | .lut2 => (lutTable c x ((b.toNat % 2 ^ 8 + b.toNat / 2 ^ 8 % 2 * 4 * (i / 4) + i % 4) % 256)).testBit
              (a.toNat / 2 ^ (4 * (i / 4)) % 2 ^ 4)
          | .bsel => if d.getLsbD i then a.getLsbD i else b.getLsbD i))) ∧
  (∀ (c : Copy) (x entry : Nat) (s : State) (fn : ExpFn) (g : FloatFmt) (rm : Rounding) (sf : FloatFmt) (f : EForm),
    decodeE (slotWord c x entry) = some (.expfn fn g rm sf f) → SlotActs c x (.expfn fn g rm sf f) →
    let u := takeTokens c x (.expfn fn g rm sf f) true s
    ((srcVal c x f.a).poison = true → runSlot c x entry s = .go (emit c x (bindDst c f.dst) { v := (srcVal c x f.a).v, poison := true }
      1 true u)) ∧
    ((srcVal c x f.a).poison = false → (srcVal c x f.a).void = true → runSlot c x entry s = .go (emit c x (bindDst c f.dst) { void := true } 1 true u))) ∧
  (∀ (c : Copy) (x entry : Nat) (s : State) (g : Guard), decodeE (slotWord c x entry) = some (.nop g) → runSlot c x entry s = .go s) ∧
  (∀ (c : Copy) (x entry : Nat) (s : State), decodeE (slotWord c x entry) = none →
    let dst := bindDst c (poisonDstE (slotWord c x entry))
    let r := runSlot c x entry s
    let v : Val := { v := copyLoc c x entry, poison := true }
    (∀ i, dst = .ch i →
      (c.outEdge x i = none → r = .go (emit c x .none v 1 false s)) ∧
      ((c.outEdge x i).isSome = true → c.room x i = false → r = .hold) ∧
      ((c.outEdge x i).isSome = true → c.room x i = true → r = .go (emit c x dst v 1 false s))) ∧
    (∀ n, leaseOf dst = some n → n ∈ (c.ce x).lease → r = .fault 0x02 0) ∧
    ((∀ i, dst ≠ .ch i) → (∀ n, leaseOf dst = some n → n ∉ (c.ce x).lease) → r = .go (emit c x dst v 1 false s))) ∧
  (∀ (c : Copy) (x : Nat) (dst : PDst) (v : Val) (lat : Nat) (keep : Bool) (s : State),
    let t := emit c x dst v lat keep s
    t.due = s.due ++ [{ at' := s.cyc + lat, phase := 0, key := x, iss := s.cyc, act := .write c.ref x dst v keep }] ∧
    t.mem = s.mem ∧ t.tiles = s.tiles ∧ ((∀ i, dst ≠ .ch i) → t.copies = s.copies) ∧
    ∀ i k, dst = .ch i → s.copy? c.ref = some k → t.copy? c.ref = some (k.sending x i)) ∧
  (∀ (s : State) (iss : Nat) (ref : CopyRef) (c : Copy) (x : Nat) (d : PDst) (v : Val), s.copy? ref = some c →
    ∃ n, (applyAct s iss (.write ref x d v false)).copy? ref = some n ∧ (n.ce x).result = v ∧
      (applyAct s iss (.write ref x d v false)).mem = s.mem ∧
      (∀ i, d = .k i → (i ∈ (c.ce x).lease → (n.ce x).k = (c.ce x).k) ∧ (i ∉ (c.ce x).lease → Tab.get (n.ce x).k i = v)) ∧
      (∀ i, d = .s i → (64 + i ∈ (c.ce x).lease → (n.ce x).s = (c.ce x).s) ∧ (64 + i ∉ (c.ce x).lease → Tab.get (n.ce x).s i = v)) ∧
      (∀ i, d = .p i → i ≠ 7 →
        Tab.get (n.ce x).p i = { b := !v.poison && !v.void && v.v.getLsbD 0, poison := v.poison }) ∧
      ((∀ i, i ≠ 7 → d ≠ .p i) → (n.ce x).p = (c.ce x).p) ∧
      (∀ y, y ≠ x → (n.ce y).k = (c.ce y).k ∧ (n.ce y).s = (c.ce y).s ∧ (n.ce y).p = (c.ce y).p ∧ (n.ce y).result = (c.ce y).result))

/-- R173 to R177, R211, R215, R216, R219 to R221, R223: what a token-stream slot sends on, `prime`, `eos` and `iseos` among them; what slot
loads and stores do at issue and in the cycle of their performance: a global one makes an entry in its tile's table, counts its bytes and
leases its destination, holds while the table is full and faults on a bad address; prefetches, tag updates and mirrored stores at issue. A
slot's write is not seen by shared-port accesses of its own cycle, and by those of later cycles it is. That `prime` pushes under a void B and
`iseos` gives 0 for a void token is the model's choice (log entry 153). -/
def Obligations.SlotsMoveTokensAndReachMemory : Prop :=
  (∀ (c : Copy) (x entry : Nat) (e : EInstr) (s : State), decodeE (slotWord c x entry) = some e → SlotActs c x e →
    let r := runSlot c x entry s
    let u := takeTokens c x e true s
    let dst := bindDst c (slotForm e).dst
    let a := srcVal c x (slotForm e).a
    let b := srcVal c x (slotForm e).b
    let clean := a.poison = false ∧ b.poison = false ∧ a.void = false ∧ b.void = false
    (∀ f, e = .stream .pop f ∨ e = .stream .drop f → r = .go u) ∧
    (∀ f, e = .stream .peek f → r = .go (emit c x dst a 1 false u)) ∧
    (∀ f, e = .stream .void f → r = .go (emit c x dst { void := true } 1 false u)) ∧
    (∀ f, e = .stream .push f → clean →
      r = .go (emit c x .none a 1 false (emit c x dst (if b.v = 0 then { void := true } else a) 1 true u))) ∧
    (∀ f, e = .stream .steer f → b.poison = false →
      r = .go (emit c x (if b.void = false ∧ b.v ≠ 0 then dst else .none) a 1 false u)) ∧
    (∀ f, e = .stream .merge f → (srcVal c x f.c).void = false →
      r = .go (emit c x dst (if (srcVal c x f.c).v = 0 then b else a) 1 false u)) ∧
    (∀ f, e = .stream .merge f → (srcVal c x f.c).poison = false → (srcVal c x f.c).void = true →
      r = .go (emit c x dst { void := true } 1 false u)) ∧
    (∀ f, e = .stream .prime f → b.poison = false → b.void = false → min (b.v.toNat % 2 ^ 7) 64 ≤ c.j →
      r = .go (emit c x .none a 1 false u)) ∧
    (∀ f, e = .stream .prime f → a.poison = false → a.void = false → b.poison = false →
      b.void = true ∨ c.j < min (b.v.toNat % 2 ^ 7) 64 →
      r = .go (emit c x .none a 1 false (emit c x dst (if b.void then { void := true } else a) 1 true u))) ∧
    (∀ f, e = .stream .prime f → (b.poison = true ∨ b.void = true ∨ c.j < min (b.v.toNat % 2 ^ 7) 64) →
      (∀ p ∈ [a, b], p.poison = true → ∃ q ∈ [a, b], q.poison = true ∧ r = .go (emit c x dst { v := q.v, poison := true } 1 false u))) ∧
    (∀ f i, e = .stream .eos f → dst = .ch i →
      r = .go (addDue ((emit c x .none {} 1 false u).modCopy c.ref fun k => k.sending x i)
        { at' := s.cyc + 1, phase := 0, key := x, iss := s.cyc, act := .eos c.ref x i })) ∧
    (∀ f ch, e = .stream .iseos f → f.a = .ch ch → a.poison = false →
      r = .go (emit c x dst { v := if ((c.head x ch.val).map (·.kind)) = some .eos then 1 else 0 } 1 false u)) ∧
    (∀ f, e = .stream .iseos f → a.poison = true → r = .go (emit c x dst a 1 false u)) ∧
    (∀ uns sz f, e = .ld uns sz f → clean → u.plinth.unord = false →
      (∀ mt off, slotCheck c (a.v + b.v).toNat sz.bytes sz.bytes = .ok (mt, off) →
        ∃ t, r = .go t ∧ t.mem = s.mem ∧
          { at' := s.cyc + 3, phase := 0, key := x, iss := s.cyc,
            act := .write c.ref x dst { v := extendLoad sz uns (leNat (startMt s c.tile mt off sz.bytes)) } false } ∈ t.due) ∧
      (∀ k, slotCheck c (a.v + b.v).toNat sz.bytes sz.bytes = .error k → r = .fault k (a.v + b.v))) ∧
    (∀ sz f, e = .st sz f → clean →
      (∀ mt off, slotCheck c a.v.toNat sz.bytes sz.bytes = .ok (mt, off) →
        ∃ t, r = .go t ∧ t.mem = s.mem ∧
          t.due = s.due ++ [{ at' := s.cyc + 1, phase := 2, key := x, iss := s.cyc,
                              act := .store (some (c.ref, x)) c.tile mt off (leBytes sz.bytes b.v.toNat) }]) ∧
      (∀ k, slotCheck c a.v.toNat sz.bytes sz.bytes = .error k → r = .fault k a.v)) ∧
    (∀ m f, e = .ldg m f → clean → 64 ≤ (u.tile c.tile).mem.loads.length → globalCheck (a.v + b.v).toNat m.size.bytes = none →
      r = .hold) ∧
    (∀ m f, e = .stg m f → clean → 64 ≤ storesUsed (u.tile c.tile).mem → globalCheck a.v.toNat m.size.bytes = none →
      r = .hold) ∧
    (∀ m f, e = .ldg m f → clean →
      let va := (a.v + b.v).toNat
      (2 ^ 56 ≤ va → r = .fault 0x0E (a.v + b.v)) ∧
      (va < 2 ^ 56 → va % m.size.bytes ≠ 0 → r = .fault 0x0D (a.v + b.v)) ∧
      (globalCheck va m.size.bytes = none → (s.tile c.tile).mem.loads.length < 64 → (s.tile c.tile).mem.sbpend < 2 ^ 32 →
        (xlatIssue u c.tile va = none → r = .hold) ∧
        (∀ w k, xlatIssue u c.tile va = some (w, .failed k) → r = .fault k (a.v + b.v)) ∧
        ∀ w y, xlatIssue u c.tile va = some (w, y) → (∀ k, y ≠ .failed k) →
          let z := w.tile c.tile
          let n : LoadEnt := { id := z.mem.nextId, who := .region c.ref, ce := x, dst := dst, va := va, size := m.size, uns := m.uns,
                               order := m.order, scope := m.scope, xlat := y, loc := copyLoc c x entry,
                               after := comesAfter z.mem (.region c.ref) m.order, cycle := s.cyc }
          ∃ t, r = .go t ∧ (t.tile c.tile).mem = { z.mem with loads := z.mem.loads ++ [n], nextId := z.mem.nextId + 1 } ∧
            t.mem = s.mem ∧ t.due = s.due ∧
            ∀ k, u.copy? c.ref = some k → t.copy? c.ref = some (match leaseOf dst with
              | some n => k.modCe x fun y => { y with lease := y.lease ++ [n] }
              | none => k))) ∧
    (∀ m f, e = .stg m f → clean →
      let va := a.v.toNat
      let k := if wideScope m.scope then m.size.bytes else 0
      (2 ^ 56 ≤ va → r = .fault 0x0E a.v) ∧ (va < 2 ^ 56 → va % m.size.bytes ≠ 0 → r = .fault 0x0D a.v) ∧
      (globalCheck va m.size.bytes = none → 2 ^ 32 ≤ (s.tile c.tile).mem.sbpend + k → r = .hold) ∧
      (globalCheck va m.size.bytes = none → storesUsed (s.tile c.tile).mem < 64 → (s.tile c.tile).mem.sbpend + k < 2 ^ 32 →
        (xlatIssue u c.tile va = none → r = .hold) ∧
        (∀ w k, xlatIssue u c.tile va = some (w, .failed k) → r = .fault k a.v) ∧
        (∀ w pa nc, xlatIssue u c.tile va = some (w, .done pa nc false) → r = .fault 0x11 a.v) ∧
        ∀ w y, xlatIssue u c.tile va = some (w, y) → (∀ k, y ≠ .failed k) → (∀ pa nc, y ≠ .done pa nc false) →
          let z := w.tile c.tile
          let n : StoreEnt := { id := z.mem.nextId, seq := z.mem.nextId, who := .region c.ref, va := va, order := m.order,
                                scope := m.scope, xlat := y, kind := .store (leBytes m.size.bytes b.v.toNat), pend := k,
                                loc := copyLoc c x entry, after := comesAfter z.mem (.region c.ref) m.order, cycle := s.cyc }
          ∃ t, r = .go t ∧ t.mem = s.mem ∧ t.due = s.due ∧ t.copies = u.copies ∧ (t.tile c.tile).mem =
            { z.mem with stores := z.mem.stores ++ [n], nextId := z.mem.nextId + 1, sbpend := z.mem.sbpend + k })) ∧
    (∀ m f, e = .ldg m f → a.poison = false → b.poison = false → a.void = true ∨ b.void = true →
      r = .go (emit c x dst { void := true } 1 true u)) ∧
    (∀ p ∈ [a, b], p.poison = true →
      (∀ m f, e = .ldg m f → ∃ q ∈ [a, b], q.poison = true ∧ r = .go (emit c x dst { v := q.v, poison := true } 1 true u)) ∧
      (∀ f, (∃ sz, e = .st sz f) ∨ (∃ m, e = .stg m f) ∨ e = .tset f ∨ (∃ m, e = .stmw m f) →
        ∃ q ∈ [a, b], q.poison = true ∧ r = .fault 0x01 q.v)) ∧
    (∀ f, a.poison = false → b.poison = false → a.void = true ∨ b.void = true →
      (∃ sz, e = .st sz f) ∨ (∃ m, e = .stg m f) ∨ (∃ l, e = .pf l f) ∨ e = .tset f ∨ (∃ m, e = .stmw m f) → r = .go u) ∧
    (∀ l f, e = .pf l f → clean → r = .go (u.modMem c.tile fun m =>
      { m with pfs := m.pfs ++ [{ id := m.nextId, level := l, va := (a.v + b.v).toNat }], nextId := m.nextId + 1 })) ∧
    (∀ f, e = .tset f ∨ e = .tclr f → clean →
      (∀ k, slotTagCheck c a.v true = .error k → r = .fault k a.v) ∧
      ∀ mt i, slotTagCheck c a.v true = .ok (mt, i) → r = .go (addDue u
        { at' := s.cyc + 1, phase := 2, key := x, iss := s.cyc,
          act := if e = .tset f then .tset (some c.ref) c.tile mt i (b.v.toNat % 2 ^ 48) else .tclr (some c.ref) c.tile mt i })) ∧
    (∀ m f, e = .stmw m f → clean →
      let n := m.size.bytes
      (∀ k, slotCheck c a.v.toNat n n = .error k → r = .fault k a.v) ∧
      ∀ mt off, slotCheck c a.v.toNat n n = .ok (mt, off) → (windowAt s c.tile mt off n = none → r = .fault 0x15 a.v) ∧
        ∀ w t, windowAt s c.tile mt off n = some w →
          issueMirror u c.tile (.region c.ref) m w off (leBytes n b.v.toNat) (copyLoc c x entry) = .ok t →
          ∃ v, r = .go v ∧ v.mem = s.mem ∧ (v.tile c.tile).mem = (t.tile c.tile).mem ∧
            { at' := s.cyc + 1, phase := 2, key := x, iss := s.cyc,
              act := .store (some (c.ref, x)) c.tile mt off (leBytes n b.v.toNat) } ∈ v.due)) ∧
  (∀ (s : State) (who : Option (CopyRef × Nat)) (iss tile mt off : Nat) (bytes : List Byte),
    let t := applyAct s iss (.store who tile mt off bytes)
    readNow t tile mt off bytes.length = bytes ∧ startMt t tile mt off bytes.length = startMt s tile mt off bytes.length ∧
    (who ≠ none → (∀ h ∈ (s.tile tile).hist, h.1 < s.cyc) → readMt t tile mt off bytes.length = readMt s tile mt off bytes.length) ∧
    ∀ y, (y < mtAddr tile mt off ∨ mtAddr tile mt off + bytes.length ≤ y) → readByte t.mem y = readByte s.mem y) ∧
  (∀ (s : State) (tile mt off n : Nat), (∀ h ∈ (s.tile tile).hist, h.1 < s.cyc) →
    readMt s tile mt off n = readNow s tile mt off n ∧ startMt s tile mt off n = readNow s tile mt off n)

/-- R237 to R239, R241, R244, and spec/11_systolic.md R258 to R276, spec/16_sampling.md R357 to R366, spec/18_system.md R409 and R413: the
slots of rows 0x8, 0x9, 0xA and 0xF. An atomic of tile scope is performed in the next cycle and its d follows two cycles later, a release
among them holds while stores are outstanding and an acquire holds the region until d is there; one of a wider scope makes a load entry,
counts its bytes and leases its destination; `fence` holds the region, `sig` raises a semaphore in the next cycle or, as a release, queues.
A cell operation holds while its cell is taken, checks its address at issue and works on the record in the next cycle, checking panel,
descriptor and sequence in this order; what it makes of the record follows. A sampling slot draws from the descriptor it reads. `brk` that
acts breaks its copy, and `trig` and `tmark` record. Which operations check the panel's address is the model's choice (log entry 165), and so
are the limit of 16 entries in a sort record (log entry 60), and the sign of a zero that a negative N makes under a zero scale (log entry
152). -/
def Obligations.SlotsSynchroniseFeedCellsSampleAndMark : Prop :=
  (∀ (c : Copy) (x entry : Nat) (e : EInstr) (s : State), decodeE (slotWord c x entry) = some e → SlotActs c x e →
    let r := runSlot c x entry s
    let u := takeTokens c x e true s
    let f := slotForm e
    let dst := bindDst c f.dst
    let a := srcVal c x f.a
    let b := srcVal c x f.b
    let d := srcVal c x f.c
    let clean := ∀ p ∈ [a, b, d], p.poison = false ∧ p.void = false
    let loc := copyLoc c x entry
    let mem := (s.tile c.tile).mem
    let leased (t : State) : Prop := ∀ k, u.copy? c.ref = some k → t.copy? c.ref = some (match leaseOf dst with
      | some n => k.modCe x fun y => { y with lease := y.lease ++ [n] }
      | none => k)
    -- row 0x8
    (∀ op m h, e = .atomic op m h →
      let old := dstVal c x dst
      let srcs := [a, b] ++ if op = .acas then [old] else []
      let n := m.size.bytes
      let rmw : Rmw := { op := op, uns := m.uns, b := b.v, e := old.v }
      let plain := ∀ p ∈ srcs, p.poison = false ∧ p.void = false
      ((∃ p ∈ srcs, p.poison = true) → ∃ q ∈ srcs, q.poison = true ∧ r = .fault 0x01 q.v) ∧
      ((∀ p ∈ srcs, p.poison = false) → (∃ p ∈ srcs, p.void = true) →
        (wideScope m.scope = false → r = .go (emit c x dst { void := true } 3 false u)) ∧
        (wideScope m.scope = true → r = .go (emit c x dst { void := true } 1 (dst != .none) u))) ∧
      (plain → wideScope m.scope = false →
        (∀ k, slotCheck c a.v.toNat n n = .error k → r = .fault k a.v) ∧
        ∀ mt off, slotCheck c a.v.toNat n n = .ok (mt, off) →
          let waits := isRelease m.order = true ∧ outstandingStores mem (.region c.ref) ≠ []
          (waits → r = .hold) ∧
          (¬ waits → ∃ t, r = .go t ∧ t.mem = (if isAcquire m.order then (acquirePoint s c.tile (.region c.ref)).mem else s.mem) ∧
            t.due = s.due ++ [{ at' := s.cyc + 1, phase := 2, key := x, iss := s.cyc,
                                act := .atomic c.ref x c.tile mt off m.size rmw dst }] ∧
            ∀ k, u.copy? c.ref = some k → ∃ y, t.copy? c.ref = some y ∧ y.ces = k.ces ∧ y.phase = k.phase ∧
              y.resumeAt = if isAcquire m.order then max k.resumeAt (s.cyc + 3) else k.resumeAt)) ∧
      (plain → wideScope m.scope = true →
        (2 ^ 56 ≤ a.v.toNat → r = .fault 0x0E a.v) ∧ (a.v.toNat < 2 ^ 56 → a.v.toNat % n ≠ 0 → r = .fault 0x0D a.v) ∧
        (globalCheck a.v.toNat n = none → 64 ≤ mem.loads.length ∨ 2 ^ 32 ≤ mem.sbpend + n → r = .hold) ∧
        (globalCheck a.v.toNat n = none → mem.loads.length < 64 → mem.sbpend + n < 2 ^ 32 →
          (xlatIssue u c.tile a.v.toNat = none → r = .hold) ∧
          (∀ w k, xlatIssue u c.tile a.v.toNat = some (w, .failed k) → r = .fault k a.v) ∧
          (∀ w pa nc, xlatIssue u c.tile a.v.toNat = some (w, .done pa nc false) → r = .fault 0x11 a.v) ∧
          ∀ w y, xlatIssue u c.tile a.v.toNat = some (w, y) → (∀ k, y ≠ .failed k) → (∀ pa nc, y ≠ .done pa nc false) →
            let z := (w.tile c.tile).mem
            let l : LoadEnt := { id := z.nextId, who := .region c.ref, ce := x, dst := dst, va := a.v.toNat, size := m.size, uns := m.uns,
                                 order := m.order, scope := m.scope, xlat := y, rmw := some rmw, loc := loc,
                                 after := comesAfter z (.region c.ref) m.order, cycle := s.cyc }
            ∃ t, r = .go t ∧ t.mem = s.mem ∧ t.due = s.due ∧ leased t ∧
              (t.tile c.tile).mem = { z with loads := z.loads ++ [l], nextId := z.nextId + 1, sbpend := z.sbpend + n }))) ∧
    (∀ o sc g, e = .fence o sc g → ∃ t, r = .go t ∧ t.mem = s.mem ∧ t.due = s.due ∧ t.tiles = s.tiles ∧
      ∀ k, u.copy? c.ref = some k → t.copy? c.ref = some { k with fenceLd := true, fenceSt := k.fenceSt || o != .acquire,
                                                                   fenceAcq := k.fenceAcq || isAcquire o }) ∧
    (∀ rel sc h, e = .sig rel sc h →
      (∀ p ∈ [a, b], p.poison = true → ∃ q ∈ [a, b], q.poison = true ∧ r = .fault 0x01 q.v) ∧
      (a.poison = false → b.poison = false → a.void = true ∨ b.void = true → r = .go u) ∧
      (clean → 256 ≤ a.v.toNat → r = .fault 0x16 a.v) ∧
      (clean → a.v.toNat < 256 →
        (rel = false → r = .go (addDue u { at' := s.cyc + 1, phase := 1, iss := s.cyc,
                                           act := .semAdd c.tile a.v.toNat (b.v.toNat % 2 ^ 32) })) ∧
        (rel = true → 64 ≤ storesUsed mem → r = .hold) ∧
        (rel = true → storesUsed mem < 64 → mem.sbpend < 2 ^ 32 →
          r = .go (u.modMem c.tile fun z => { z with
            stores := z.stores ++ [{ id := z.nextId, seq := z.nextId, who := .region c.ref, va := a.v.toNat, order := .release, scope := sc,
                                     kind := .sem a.v.toNat (b.v.toNat % 2 ^ 32), loc := loc,
                                     after := outstanding z (.region c.ref), cycle := s.cyc }],
            nextId := z.nextId + 1 })))) ∧
    -- row 0x9, and `stopk`
    (∀ op h, e = .cell op h ∨ (e = .sample .stopk h ∧ op = .skey) →
      let topk := decide (e = .sample .stopk h)
      let srcs := if topk then [a, b] else [a, b, d]
      let takes := if topk then 1 else cellTime c x op h
      let ix := cellIx c x
      let busy := s.cyc < Tab.get (s.tile c.tile).cellFree ix
      let del := topk || cellDelivers op
      let put (t : State) : Prop := t.mem = s.mem ∧ Tab.get (t.tile c.tile).cellFree ix = s.cyc + takes
      let brings (t : State) (v : Val) : Prop :=
        { at' := s.cyc + 3, phase := 0, key := x, iss := s.cyc, act := .write c.ref x dst v false } ∈ t.due
      (busy → r = .hold) ∧
      (¬ busy → (∃ p ∈ srcs, p.poison = true) → ∃ t, ∃ q ∈ srcs, q.poison = true ∧ r = .go t ∧ put t ∧
        { at' := s.cyc + 1, phase := 0, key := x, iss := s.cyc, act := .origin c.ref q.v } ∈ t.due ∧
        (del = true → brings t { v := q.v, poison := true })) ∧
      (¬ busy → (∀ p ∈ srcs, p.poison = false) → (∃ p ∈ srcs, p.void = true) → ∃ t, r = .go t ∧ put t ∧
        (del = true → brings t { void := true }) ∧ (del = false → t.due = s.due)) ∧
      (¬ busy → (∀ p ∈ srcs, p.poison = false ∧ p.void = false) →
        (topk = true ∨ op ≠ .sload →
          (∀ k, slotCheck c a.v.toNat 1 256 = .error k → r = .fault k a.v) ∧
          ∀ mt off, slotCheck c a.v.toNat 1 256 = .ok (mt, off) →
            (∀ k i, topk = false → op = .scfg → configCheck c b.v = some (k, i) → r = .fault k i) ∧
            (topk = true ∨ op ≠ .scfg ∨ configCheck c b.v = none → ∃ t, ∃ n : CellAct, r = .go t ∧ put t ∧
              t.due = s.due ++ [{ at' := s.cyc + 1, phase := 2, key := x, iss := s.cyc, act := .cell n }] ∧
              n.ref = c.ref ∧ n.ce = x ∧ n.entry = entry ∧ n.topk = topk ∧ n.mt = mt ∧ n.off = off ∧ n.b = b.v ∧ n.dst = dst ∧
              (topk = false → n.op = op ∧ n.c = d.v) ∧
              ∀ ch k, topk = false → srcChans [h.b] = [ch] → c.head x ch = some k → n.tok = { k with hdr := c.heldHdr x ch k })) ∧
        (topk = false → op = .sload →
          (∀ k, slotCheck c a.v.toNat 1 64 = .error k → r = .fault k a.v) ∧
          ∀ mt off, slotCheck c a.v.toNat 1 64 = .ok (mt, off) →
            let o := b.v.toNat
            let bad := 2 ^ 15 ≤ o ∨ o % 8 ≠ 0
            let quarter := readBytes s.mem (weightAddr c.tile (cePage c x) o) (32768 - o)
            (bad → r = .fault 0x08 a.v) ∧
            (¬ bad → c.kern.wbuf = false → r = .fault 0x0C a.v) ∧
            (¬ bad → c.kern.wbuf = true → decompress quarter = none → r = .fault 0x08 a.v) ∧
            ∀ bytes len, ¬ bad → c.kern.wbuf = true → decompress quarter = some (bytes, len) →
              (65536 < off + bytes.length → r = .fault 0x0B a.v) ∧
              (off + bytes.length ≤ 65536 →
                let q := (len + 255) / 256
                ∃ t, r = .go t ∧ t.mem = s.mem ∧ Tab.get (t.tile c.tile).cellFree ix = s.cyc + 1 + q ∧
                  t.due = s.due ++ [{ at' := s.cyc + 1 + q, phase := 2, key := x, iss := s.cyc,
                                      act := .panel c.ref x c.tile mt off bytes }])))) ∧
    -- row 0xA
    (∀ op h, e = .sample op h → op ≠ .stopk →
      let lat := match op with
        | .rngu => 20
        | .gumb => 40
        | .smax => 1
        | .stopk => 3
        | .slse _ => 24
        | .swin => 48
      let gives (t : State) (v : Word) : Prop := r = .go t ∧ t.mem = s.mem ∧
        t.due = s.due ++ [{ at' := s.cyc + lat, phase := 0, key := x, iss := s.cyc, act := .write c.ref x dst { v := v } false }]
      (∀ p ∈ [a, b, d], p.poison = true → ∃ q ∈ [a, b, d], q.poison = true ∧ r = .go (emit c x dst { v := q.v, poison := true } lat false u)) ∧
      ((∀ p ∈ [a, b, d], p.poison = false) → (∃ p ∈ [a, b, d], p.void = true) → r = .go (emit c x dst { void := true } lat false u)) ∧
      (clean → op = .smax → ∃ t, gives t
        (if ranksBefore (f32Fmt.decode (b.v.toNat % 2 ^ 32)) (b.v.toNat / 2 ^ 32) (f32Fmt.decode (a.v.toNat % 2 ^ 32)) (a.v.toNat / 2 ^ 32)
         then b.v else a.v)) ∧
      (∀ m, clean → op = .slse m → ∃ t, gives t (slseResult m a.v b.v)) ∧
      (clean → op = .rngu ∨ op = .gumb ∨ op = .swin →
        let la := if op = .swin then b.v else a.v
        (∀ k, slotCheck c la.toNat 64 64 = .error k → r = .fault k la) ∧
        ∀ mt off, slotCheck c la.toNat 64 64 = .ok (mt, off) → s.plinth.unord = false →
          let n := leNat (startMt s c.tile mt off 64)
          let i := (if op = .swin then d.v.toNat else b.v.toNat) % 2 ^ 32
          let bad := sdBad n = true ∨ (if op = .rngu then sdDres n = false ∨ 2 ^ 8 ≤ b.v.toNat else sdVsm1 n < i)
          (bad → r = .fault 0x09 0) ∧
          (¬ bad → ∃ t, gives t (BitVec.ofNat 64 (match op with
            | .rngu => drawWord n (16384 + sdDbase n + b.v.toNat % 2 ^ 4) (b.v.toNat / 2 ^ 4 % 2 ^ 4)
            | .gumb => f32Fmt.round .rne (gumbelVal n i)
            | _ => i * 2 ^ 32 + scoreOf n i (a.v.toNat % 2 ^ 32)))))) ∧
    -- row 0xF
    (∀ g, e = .brk g → r = .go u ∧ (brkActs s c x entry = (s.tile c.tile).sys.ebrk)) ∧
    (∀ h, e = .trig h ∨ e = .tmark h →
      let y := (s.tile c.tile).sys
      let trig := decide (e = .trig h)
      let n := a.v.toNat
      let at' := c.slot * 64 + ceY c x * 8 + ceX c x
      let entry' := s.cyc % 2 ^ 48 * 2 ^ 80 + (if trig then 5 else 4) * 2 ^ 76 + c.slot * 2 ^ 73 + (ceY c x * 8 + ceX c x) * 2 ^ 67 +
        (if trig then n % 2 ^ 16 else n)
      let fires := trig = true ∧ y.trigctl.getLsbD 63 = true ∧ (y.trigctl.extractLsb' 59 2).toNat = 0 ∧ y.trigctl.toNat % 2 ^ 16 = n % 2 ^ 16
      (a.poison = true ∨ a.void = true → r = .go u) ∧
      (a.poison = false → a.void = false →
        (¬ fires → y.recording = false → r = .go u) ∧
        (¬ fires → y.recording = true → r = .go (u.modSys c.tile fun z =>
          { z with traceBuf := z.traceBuf ++ [{ key := 1 + at', entry := entry', kept := true, fire := none }] })) ∧
        (fires → ∃ t, r = .go t ∧ t.mem = s.mem ∧ t.due = s.due ∧ t.copies = u.copies ∧ (t.tile c.tile).sys.fired = true ∧
          (t.tile c.tile).sys.trigctl.getLsbD 63 = false ∧
          (t.tile c.tile).sys.traceBuf = y.traceBuf ++
            [{ key := 1 + at', entry := entry', kept := y.recording,
               fire := some (y.trigctl.getLsbD 62, (y.trigctl.setWidth 56).toNat) }])))) ∧
  (∀ (s : State) (c : Copy) (l : List LoadEnt), (s.tile c.tile).mem.loads = l → c.fenceLd = true →
    (∃ n ∈ l, n.who = .region c.ref) → s.ready c = false) ∧
  (∀ (s : State) (c : Copy), c.fenceSt = true → outstanding (s.tile c.tile).mem (.region c.ref) ≠ [] → s.ready c = false) ∧
  (∀ (s : State) (iss : Nat) (ref : CopyRef) (x t mt off : Nat) (sz : Size) (m : Rmw) (dst : PDst),
    let old := leNat (readNow s t mt off sz.bytes)
    let (new, d) := rmwResult m sz old
    let z := applyAct s iss (.atomic ref x t mt off sz m dst)
    readNow z t mt off sz.bytes = leBytes sz.bytes (new.getD old) ∧
    (∀ y, (y < mtAddr t mt off ∨ mtAddr t mt off + sz.bytes ≤ y) → readByte z.mem y = readByte s.mem y) ∧
    z.due = s.due ++ [{ at' := s.cyc + 2, phase := 0, key := x, iss := s.cyc - 1, act := .write ref x dst { v := d } false }]) ∧
  (∀ (s : State) (iss : Nat) (a : CellAct) (c : Copy), s.copy? a.ref = some c →
    let z := applyAct s iss (.cell a)
    let rd := readNow s c.tile a.mt a.off 256
    let d := recDesc rd
    let fails (k : Nat) (i : Word) : Prop := z = regionFault s a.ref k (copyLoc c a.ce a.entry) i
    let panel := if a.topk = false ∧ readsPanel a.op = true ∧ cdSort d = false then panelOf s c d else .ok []
    (∀ k, panel = .error k → fails k (BitVec.ofNat 64 (cdPanel d))) ∧
    ∀ p, panel = .ok p →
      let fits := descFits (if a.topk then .sort else cellNeed a.op) d
      (fits = false → fails 0x06 0) ∧
      (∀ k, fits = true → cellRun a rd p = .error k → fails k 0) ∧
      ∀ r' v, fits = true → cellRun a rd p = .ok (r', v) →
        readNow z c.tile a.mt a.off r'.length = r' ∧
        (∀ y, (y < mtAddr c.tile a.mt a.off ∨ mtAddr c.tile a.mt a.off + r'.length ≤ y) → readByte z.mem y = readByte s.mem y) ∧
        z.due = s.due ++ v.toList.map fun v =>
          { at' := s.cyc + 2, phase := 0, key := a.ce, iss := s.cyc - 1, act := .write a.ref a.ce a.dst v false }) ∧
  (∀ (a : CellAct) (rd panel : List Byte), rd.length = 256 →
    let d := recDesc rd
    let b := a.b.toNat
    let len := cdLen d
    let codes := panelCodes panel
    let closed (r' : List Byte) : Prop := recPos r' = 0 ∧ recStat r' / 2 ^ 32 = (recStat rd / 2 ^ 32 + 1) % 2 ^ 32 ∧ recDesc r' = d
    let leaves (r' : List Byte) (v : Option Val) : Prop := cellRun a rd panel = .ok (r', v) ∧ r'.length = 256
    (a.topk = false →
      (∀ pair clr, a.op = .sdrain pair clr →
        let cols := if pair then [2 * (b % 2 ^ 3), 2 * (b % 2 ^ 3) + 1] else [b % 2 ^ 4]
        ∃ r', leaves r' (some { v := BitVec.ofNat 64 (if pair then
            recAcc rd (2 * (b % 2 ^ 3)) + recAcc rd (2 * (b % 2 ^ 3) + 1) * 2 ^ 32 else recAcc rd (b % 2 ^ 4)) }) ∧
          (∀ j < 16, recAcc r' j = if clr = true ∧ j ∈ cols then 0 else recAcc rd j) ∧ r'.drop 0x40 = rd.drop 0x40) ∧
      (a.op = .sclr → ∃ r', leaves r' none ∧ recDesc r' = d ∧ recPos r' = 0 ∧ recStat r' / 2 ^ 32 = 0 ∧
        (cdSort d = true → ∀ j < 24, recEntry r' j = 0) ∧
        (cdSort d = false → recAhdr r' = 0 ∧
          ∀ j < 16, recAcc r' j = f32Fmt.round .rne (f32Fmt.decode (b % 2 ^ 32)) ∧ recBlk r' j = 0)) ∧
      (a.op = .scfg →
        (cdSort d = false → recPos rd ≠ 0 → cellRun a rd panel = .error 0x07) ∧
        (cdSort d = true ∨ recPos rd = 0 → ∃ r', leaves r' none ∧ recDesc r' = b ∧ recPos r' = 0 ∧ recAhdr r' = 0 ∧
          (cdSort b = true → ∀ j < 24, recEntry r' j = 0) ∧
          (cdSort b = false → ∀ j < 16, recAcc r' j = recAcc rd j ∧ recBlk r' j = 0))) ∧
      (∀ fb w kmax fa, a.op = .sfeed → panelFmt (d % 2 ^ 16) = some (fb, w, kmax) → fmtOfReg (hdrFmt a.tok.hdr) = some fa →
        let n := fa.perToken
        let k := a.tok.pos * n
        let top := hdrNval a.tok.hdr + 1
        let ordered := (a.tok.pos = 0 → recPos rd = 0) ∧ (a.tok.pos ≠ 0 → recPos rd = k)
        (pairable fa fb = false → cellRun a rd panel = .error 0x05) ∧
        (pairable fa fb = true → ¬ ordered → cellRun a rd panel = .error 0x07) ∧
        (pairable fa fb = true → ordered → ∃ r', leaves r' none ∧ recPos r' = min (k + n) top ∧ recDesc r' = d ∧
          recAhdr r' = (if a.tok.pos = 0 then
            hdrNval a.tok.hdr * 2 ^ 36 + hdrFmt a.tok.hdr * 2 ^ 20 + hdrScale a.tok.hdr else recAhdr rd) ∧
          ∀ j < 16, recAcc r' j = recAcc rd j ∧
            recBlk r' j = ((tokenValues fa a.tok.val.v.toNat n).zip (List.range n)).foldl (fun y p =>
              if k + p.2 < min top len then feedProduct fa fb p.1 (panelCode fb w codes (k + p.2) j) y else y) (recBlk rd j))) ∧
      (∀ fb w kmax fm, a.op = .sfeedw fm → panelFmt (d % 2 ^ 16) = some (fb, w, kmax) →
        let F := match fmtOfReg a.fmt with
          | some (.wide g) => g
          | _ => f32Fmt
        let p := recPos rd
        let one (j k : Nat) (v : Word) (acc : Nat) : Nat := if k < len then f32Fmt.round .rne (FVal.add .rne (f32Fmt.decode acc)
          ((F.decode (v.toNat % 2 ^ F.width)).mul (panelCode fb w codes k j))) else acc
        ∃ r', leaves r' none ∧ recPos r' = min (p + 2) 64 ∧ recDesc r' = d ∧
          ∀ j < 16, recAcc r' j = one j (p + 1) a.c (one j p a.b (recAcc rd j)) ∧ recBlk r' j = recBlk rd j) ∧
      (∀ fb w kmax, a.op = .sacc → panelFmt (d % 2 ^ 16) = some (fb, w, kmax) →
        let h := recAhdr rd
        (recPos rd = 0 → leaves rd none) ∧
        (∀ g, recPos rd ≠ 0 → fb = .wide g → ∃ r', leaves r' none ∧ closed r' ∧ r'.take 0xC0 = rd.take 0xC0) ∧
        (recPos rd ≠ 0 → (∀ g, fb ≠ .wide g) →
          (recPos rd ≠ h / 2 ^ 36 % 2 ^ 6 + 1 → cellRun a rd panel = .error 0x07) ∧
          ∀ fa, recPos rd = h / 2 ^ 36 % 2 ^ 6 + 1 → fmtOfReg (h / 2 ^ 20 % 2 ^ 16) = some fa →
            let sa := scaleVal fa (h % 2 ^ 20)
            ∃ r', leaves r' none ∧ closed r' ∧ recAhdr r' = 0 ∧ ∀ j < 16, recBlk r' j = 0 ∧
              recAcc r' j = f32Add .rne (recAcc rd j) (closeVal fa fb sa (scaleVal fb (panelScale panel j)) (recBlk rd j)))) ∧
      (a.op = .skey ∨ a.op = .sidx → b % 2 ^ 4 ≥ recCnt rd → leaves rd (some { void := true })) ∧
      (a.op = .sidx → b % 2 ^ 4 < recCnt rd →
        leaves rd (some { v := BitVec.ofNat 64 (recEntry rd (b % 2 ^ 4) / 2 ^ 32) })) ∧
      (∀ g, a.op = .skey → b % 2 ^ 4 < recCnt rd → keyFmt (d % 2 ^ 16) = some g →
        let y := BitVec.ofNat 32 (recEntry rd (b % 2 ^ 4))
        leaves rd (some { v := if g = .int true .b32 then y.signExtend 64 else y.setWidth 64 }))) ∧
    (∀ g, (a.topk = false ∧ a.op = .scmpx) ∨ (a.topk = true ∧ d % 2 ^ 16 = 0x0003) → keyFmt (d % 2 ^ 16) = some g →
      recPos rd ≤ cdList d →
      let key := keyBits g (b % 2 ^ 32)
      let idx := if a.topk then b / 2 ^ 32 else a.c.toNat % 2 ^ 32
      let rank (y : Nat) : Bool := ranksBefore (g.value key) idx (g.value (y % 2 ^ 32)) (y / 2 ^ 32)
      ∃ r' v l₁ l₂, leaves r' v ∧ recDesc r' = d ∧ recList rd = l₁ ++ l₂ ∧ (∀ y ∈ l₁, rank y = false) ∧ (∀ y ∈ l₂.head?, rank y = true) ∧
        recList r' = (l₁ ++ [idx * 2 ^ 32 + key] ++ l₂).take (cdList d) ∧
        (a.topk = false → v = none) ∧
        (a.topk = true → v = some (if recPos rd < cdList d then { void := true } else match l₂.getLast? with
          | some y => { v := BitVec.ofNat 64 y }
          | none => { v := a.b }))) ∧
    (a.topk = true → d % 2 ^ 16 ≠ 0x0003 → cellRun a rd panel = .error 0x06)) ∧
  ∀ (s : State) (ref : CopyRef) (c m : Copy) (f : Firing) (loc : Word), s.copy? ref = some c →
    (s.ready c && (granted s (contenders s)).any fun x => x.ref == ref) = true →
    fireAll (passFence s c).1 (passFence s c).2 = .ok f → f.faults = [] → f.brk = some loc → f.s.copy? ref = some m →
    m.phase = .running → m.v + 1 < m.kern.ii ∨ (f.s.launchOf m).trip = 0 ∨ m.j + 1 < (f.s.launchOf m).trip →
    (f.s.tile ref.issuer).sys.posted.length < 32 →
    ∃ t n, exec (.regionFire ref) s = .next t ∧ t.copy? ref = some n ∧ n.phase = .broken ∧
      ∃ p ∈ (t.tile ref.issuer).sys.posted, p.trap.cause = 0x21 ∧ p.trap.posted = true ∧ p.trap.lid = ref.lid ∧
        p.trap.copy = ref.copy ∧ p.trap.info = loc

/-! ## Memory (row 0x6) -/

/-- R210, R211, R214, R215: a local load that its memory tile's shared port serves delivers the w bytes at A + B, little-endian,
extended by U, as they stood at the start of the cycle, and leaves memory as it is; a local store writes the low w bytes of B at A,
so that they read back, and no other byte; while the port does not serve the banker, it asks again and goes on waiting. An address
that is too large or whose access leaves its memory tile takes MEM_ADDR, then MEM_ROLE, then ALIGN, with the address in INFO, and
has no effect. R217, R428: a load that meets an uncorrectable error takes ECC_UE and writes nothing. That a load's d is there after one
cycle is the model's choice (log entry 23): R211 gives the time of a slot's result only. -/
def Obligations.LocalLoadAndStore : Prop :=
  ∀ (uns : Bool) (sz : Size) (f : BForm) (s : State), IssuesForm s f → bankerHeld s s.actor = false →
    let a := s.actor
    let n := sz.bytes
    let la := srcA s f + srcB s f
    let sa := srcA s f
    let tile (x : Word) : Nat := x.toNat / 2 ^ 16
    let off (x : Word) : Nat := x.toNat % 2 ^ 16
    let fits (x : Word) : Prop := x.toNat < 2 ^ 20 ∧ off x + n ≤ 2 ^ 16
    let home (x : Word) : Nat := mtAddr a (tile x) (off x)
    (fits la → (s.roleOf a (tile la)).isBuffer = true → la.toNat % n = 0 →
      (PortFree s (tile la) (off la) n true → s.ue = false →
        let v := BitVec.ofNat (8 * n) (leNat (readMt s a (tile la) (off la) n))
        ((∀ h ∈ (s.tile a).hist, h.1 < s.cyc) → v = BitVec.ofNat (8 * n) (readNat s.mem (home la) n)) ∧
        ∃ u, exec (.bLd uns sz f) s = .next (wrote s u f.dst (if uns then v.setWidth 64 else v.signExtend 64) 1) ∧
          (∀ x, readByte u.mem x = readByte s.mem x) ∧ (u.tile a).bk.r = s.banker.r ∧ (u.tile a).bk.pc = s.banker.pc ∧
          (u.tile a).mem = { (s.tile a).mem with ports := (u.tile a).mem.ports } ∧ ∀ k, k ≠ a → u.tile k = s.tile k) ∧
      (PortFree s (tile la) (off la) n true → s.ue = true → s.banker.hasPending s.cyc = false → s.banker.emul = none →
        ∃ u, exec (.bLd uns sz f) s = .next (enterTrap u a { cause := 0x14, info := la } s.banker.pc) ∧
          (u.tile a).bk = s.banker ∧ u.mem = s.mem ∧ (s.mgmt.evq.length < 1024 → u.mgmt.evq = s.mgmt.evq ++ [(0x02, home la)])) ∧
      (localBlocked s a (tile la) (off la) n true = false → (s.port a (tile la)).serves s.cyc 0 = false →
        exec (.bLd uns sz f) s = .next (askPort s a (tile la) 0))) ∧
    (fits sa → (s.roleOf a (tile sa)).isBuffer = true → sa.toNat % n = 0 →
      (PortFree s (tile sa) (off sa) n false →
        ∃ u, exec (.bSt sz f) s = .next (movedOn s u) ∧
          readNat u.mem (home sa) n = (srcB s f).toNat % 2 ^ (8 * n) ∧
          (∀ x, (x < home sa ∨ home sa + n ≤ x) → readByte u.mem x = readByte s.mem x) ∧
          (u.tile a).bk.r = s.banker.r ∧ (u.tile a).bk.pc = s.banker.pc ∧ ∀ k, k ≠ a → u.tile k = s.tile k) ∧
      (localBlocked s a (tile sa) (off sa) n false = false → (s.port a (tile sa)).serves s.cyc 0 = false →
        exec (.bSt sz f) s = .next (askPort s a (tile sa) 0))) ∧
    (s.banker.hasPending s.cyc = false → s.banker.emul = none →
      let t (c : Nat) (x : Word) : State := enterTrap s a { cause := c, info := x } s.banker.pc
      (¬ fits la → exec (.bLd uns sz f) s = .next (t 0x0B la)) ∧
      (¬ fits sa → exec (.bSt sz f) s = .next (t 0x0B sa)) ∧
      (fits la → (s.roleOf a (tile la)).isBuffer = false → exec (.bLd uns sz f) s = .next (t 0x0C la)) ∧
      (fits sa → (s.roleOf a (tile sa)).isBuffer = false → exec (.bSt sz f) s = .next (t 0x0C sa)) ∧
      (fits la → (s.roleOf a (tile la)).isBuffer = true → la.toNat % n ≠ 0 → exec (.bLd uns sz f) s = .next (t 0x0D la)) ∧
      (fits sa → (s.roleOf a (tile sa)).isBuffer = true → sa.toNat % n ≠ 0 → exec (.bSt sz f) s = .next (t 0x0D sa)))

/-- R216, R217, R218, R245: a global load or store that passes its checks takes the next entry of the load table or of the
store queue, with its translation, size, order and scope, behind what a release comes after, and the bytes of a store of wall
scope or wider count in TILE.SBPEND; d of a load is awaited; memory is as before until it is performed. An address above the
virtual space takes VA_RANGE and a misaligned one ALIGN, in that order. R216, R217, R218, R238: the data of a load of the
banker that has crossed to its home and may be performed there reaches its register, extended by U, and frees its entry; at
package scope, with no copy in a cache and in ordered mode, it is what memory holds; a store that may be performed leaves its bytes at the home where its
scope is the package, and frees its entry and its bytes in SBPEND; the reply of a global atomic writes the old value and leaves
the new one at its scope; an uncorrectable error is a late fault instead and writes nothing. R285: a write of another package is
performed through translation and answered with the cause of its fault, 0 for none; that its translation is complete at once is the
model's choice (log entry 137). -/
def Obligations.GlobalAccessesQueueAndArePerformed : Prop :=
  (∀ (m : MemMods) (f : BForm) (s : State), IssuesForm s f → bankerHeld s s.actor = false →
     let a := s.actor
     let n := m.size.bytes
     let la := srcA s f + srcB s f
     let sa := srcA s f
     let x := (s.tile a).mem
     let after := if isRelease m.order then outstanding x .banker else []
     (∀ v tr i, la.toNat < 2 ^ 56 → la.toNat % n = 0 → x.loads.length < 64 → x.sbpend < 2 ^ 32 → f.dst = .g i →
       xlatIssue s a la.toNat = some (v, tr) → tr.cause? = none →
       ∃ t e, exec (.bLdg m f) s = .next t ∧ (t.tile a).mem.loads = (v.tile a).mem.loads ++ [e] ∧
         e = { id := (v.tile a).mem.nextId, who := .banker, g := i.val, va := la.toNat, size := m.size, uns := m.uns,
               order := m.order, scope := m.scope, xlat := tr, loc := s.banker.pc, after := after, cycle := v.cyc } ∧
         (t.tile a).bk.readyAt i.val = pendingReg ∧ (∀ y, readByte t.mem y = readByte v.mem y) ∧ RegsKept s t a .none) ∧
     (∀ v tr, sa.toNat < 2 ^ 56 → sa.toNat % n = 0 → storesUsed x < 64 → x.sbpend + n < 2 ^ 32 →
       xlatIssue s a sa.toNat = some (v, tr) → tr.cause? = none → (∀ pa nc, tr ≠ .done pa nc false) →
       ∃ t e, exec (.bStg m f) s = .next t ∧ (t.tile a).mem.stores = (v.tile a).mem.stores ++ [e] ∧
         e = { id := (v.tile a).mem.nextId, seq := (v.tile a).mem.nextId, who := .banker, va := sa.toNat, order := m.order, scope := m.scope, xlat := tr,
               kind := .store (leBytes n (srcB s f).toNat), pend := if wideScope m.scope then n else 0, loc := s.banker.pc,
               after := after, cycle := v.cyc } ∧
         (t.tile a).mem.sbpend = (v.tile a).mem.sbpend + (if wideScope m.scope then n else 0) ∧
         (∀ y, readByte t.mem y = readByte v.mem y) ∧ RegsKept s t a .none) ∧
     (s.banker.hasPending s.cyc = false → s.banker.emul = none →
       let t (c : Nat) (y : Word) : State := enterTrap s a { cause := c, info := y } s.banker.pc
       (2 ^ 56 ≤ la.toNat → exec (.bLdg m f) s = .next (t 0x0E la)) ∧
       (2 ^ 56 ≤ sa.toNat → exec (.bStg m f) s = .next (t 0x0E sa)) ∧
       (la.toNat < 2 ^ 56 → la.toNat % n ≠ 0 → exec (.bLdg m f) s = .next (t 0x0D la)) ∧
       (sa.toNat < 2 ^ 56 → sa.toNat % n ≠ 0 → exec (.bStg m f) s = .next (t 0x0D sa)))) ∧
  (∀ (s : State) (a : Nat),
     (∀ e pa nc, (s.tile a).mem.loads.find? (fun x => x.id == e.id && x.rmw.isNone) = some e → loadReady s a e = some (pa, nc) →
       crossed s a e.id e.xb = true → homeFault s pa = none → HomeServes s pa → e.who = .banker →
       (e.g < 32 →
         let q := perfLoadAs (noteReread (eccNote (atHome s pa id) pa) a e pa) a e.scope (isAcquire e.order) pa e.size.bytes nc
         let p := lateRead q.1 a e pa nc q.2
         ∃ t, exec (.loadDataReturn a e.id false) s = .next t ∧
           Tab.get (t.tile a).bk.r.g e.g = { v := extendLoad e.size e.uns (leNat p.2) } ∧ (t.tile a).bk.readyAt e.g = s.cyc ∧
           (∀ x ∈ (t.tile a).mem.loads, x.id ≠ e.id) ∧
           (isAcquire e.order = false → ∀ y, readByte t.mem y = readByte p.1.mem y) ∧
           (s.plinth.unord = false → e.scope = .package → isAcquire e.order = false → s.cacheable pa = true → (s.tile a).mem.lines = [] →
             (s.wall (s.wallOf a)).lines = [] → p.2 = readBytes s.mem pa e.size.bytes ∧ t.mem = s.mem)) ∧
       ((s.tile a).sys.ten = true → (s.tile a).sys.posted.length < 32 →
         ∃ t p, exec (.loadDataReturn a e.id true) s = .next t ∧ p ∈ (t.tile a).sys.posted ∧ p.trap.cause = 0x14 ∧
           p.trap.info = BitVec.ofNat 64 e.va ∧ p.trap.info2 = e.loc ∧ (∀ y, readByte t.mem y = readByte s.mem y) ∧
           (t.tile a).bk.r = (s.tile a).bk.r)) ∧
     (∀ e pa nc w bytes, (s.tile a).mem.stores.find? (·.id == e.id) = some e → e.kind = .store bytes → e.xlat = .done pa nc w →
       storeReady s a e = true → crossed s a e.id e.xb = true → homeFault s pa = none → HomeServes s pa → e.scope = .package →
       ∃ t, exec (.storeAck (.tile a e.id) false) s = .next t ∧ (∀ x ∈ (t.tile a).mem.stores, x.id ≠ e.id) ∧
         (t.tile a).mem.sbpend = (s.tile a).mem.sbpend - e.pend ∧
         (t.mem = writeBytes s.mem pa bytes) ∧
         ∀ y, (y < pa ∨ pa + bytes.length ≤ y) → readByte t.mem y = readByte s.mem y) ∧
     (∀ e pa nc r, (s.tile a).mem.loads.find? (fun x => x.id == e.id && x.rmw.isSome) = some e → loadReady s a e = some (pa, nc) →
       crossed s a e.id e.xb = true → homeFault s pa = none → HomeServes s pa → e.rmw = some r → e.who = .banker → e.g < 32 →
       let p := perfAtomic (eccNote (atHome s pa id) pa) a e.scope pa e.size nc r
       ∃ t, exec (.atomicReply a e.id false) s = .next t ∧ Tab.get (t.tile a).bk.r.g e.g = { v := p.2 } ∧
         (∀ x ∈ (t.tile a).mem.loads, x.id ≠ e.id) ∧
         (isAcquire e.order = false → ∀ y, readByte t.mem y = readByte p.1.mem y)) ∧
     ∀ pkg id va bytes,
       exec (.storeAck (.arcade pkg id va bytes) false) s = .next (plinthArc (vWrite s 0 va.toNat bytes).1 pkg
         (.ack id (match (vWrite s 0 va.toNat bytes).2 with | none => 0 | some p => p.1))))

/-- R210, R211, R220, R221: `tset` makes an entry valid with its tag, `tclr` makes it invalid, and `tlook` answers HIT with the
lowest valid entry that holds the tag (a flag receives the hit bit), else the lowest invalid entry, else FULL with the least recently
used, as the table stood at the start of the cycle; each through the memory tile's shared port; no byte of memory changes. R219:
`pf` starts a fill and never faults. R224, R225: `flush` at tile scope leaves every line of the tile that it covers clean and valid;
`inval.dat` writes back and removes the covered lines of the tile and of the walls in reach; `inval.xl` removes the covered
translations of the tiles and walls in reach, once no walk in reach is under way; `inval.all` does both; a length of 0 covers everything.
Registers stay. That d of `tlook` is there after one cycle is the model's choice (log entry 23): R211 and R221 give the time of a slot's
result only. -/
def Obligations.TagTablesPrefetchAndCacheMaintenance : Prop :=
  (∀ (f : BForm) (s : State), bankerHeld s s.actor = false →
     let a := s.actor
     let x := srcA s f
     let mt := x.toNat / 2 ^ 16
     let e := x.toNat % 256
     let tag := ((srcB s f).setWidth 48).toNat
     let hit (i : Nat) : Prop := (s.tag a mt i).valid = true ∧ (s.tag a mt i).tag = tag
     let entry (u : State) (i : Nat) : TagEnt := Tab.get (u.tile a).mem.tags (mt * 256 + i)
     let served := usePort s a mt 0 1
     (IssuesForm s f → x.toNat < 2 ^ 20 → (s.roleOf a mt).isBuffer = true →
       (PortFree s mt 0 0 false → x.toNat % 2 ^ 16 < 256 →
         (∃ u, exec (.bTset f) s = .next (movedOn s u) ∧ (entry u e).valid = true ∧ (entry u e).tag = tag ∧
           (∀ i, i < 256 → i ≠ e → entry u i = entry s i) ∧ (∀ i < 256, u.tag a mt i = s.tag a mt i) ∧
           OutsideKept s u a ∧ (u.tile a).bk = s.banker) ∧
         (∃ u, exec (.bTclr f) s = .next (movedOn s u) ∧ (entry u e).valid = false ∧
           (∀ i, i < 256 → i ≠ e → entry u i = entry s i) ∧ (∀ i < 256, u.tag a mt i = s.tag a mt i) ∧
           OutsideKept s u a ∧ (u.tile a).bk = s.banker)) ∧
       (PortFree s mt 0 0 true →
         (∀ i < 256, hit i → (∀ k < i, ¬ hit k) →
           ∃ u, exec (.bTlook f) s = .next (wrote s u f.dst
               (match f.dst with | .f _ => 1 | _ => BitVec.ofNat 64 (256 + i)) 1) ∧ OutsideKept s u a ∧ (u.tile a).bk = s.banker) ∧
         (∀ i < 256, (∀ k < 256, ¬ hit k) → (s.tag a mt i).valid = false → (∀ k < i, (s.tag a mt k).valid = true) →
           exec (.bTlook f) s = .next (wrote s served f.dst (match f.dst with | .f _ => 0 | _ => BitVec.ofNat 64 i) 1)) ∧
         ((∀ k < 256, ¬ hit k ∧ (s.tag a mt k).valid = true) → ∃ i < 256, (∀ k < 256, (s.tag a mt i).use ≤ (s.tag a mt k).use) ∧
           exec (.bTlook f) s = .next (wrote s served f.dst (match f.dst with | .f _ => 0 | _ => BitVec.ofNat 64 (512 + i)) 1)))) ∧
     ∀ lv, Issues s f.guard f.dst (formRegs f) [] →
       ((readB s a f.a).poison = true ∨ (readB s a f.b).poison = true → exec (.bPf lv f) s = .next (movedOn s s)) ∧
       (IssuesForm s f → exec (.bPf lv f) s = .next (movedOn s (s.modMem a fun m =>
         { m with pfs := m.pfs ++ [{ id := m.nextId, level := lv, va := (srcA s f + srcB s f).toNat }], nextId := m.nextId + 1 })))) ∧
  (∀ (f : BForm) (s : State), IssuesForm s f → bankerHeld s s.actor = false →
     let a := s.actor
     let pick := covers s a (srcA s f).toNat (srcB s f).toNat
     (∃ u, exec (.flush .tile f) s = .next (movedOn s u) ∧ u = flushLines s a pick false ∧
       (∀ l ∈ (u.tile a).mem.lines, pick l.line = true → l.dirty = []) ∧ (u.tile a).bk = s.banker) ∧
     (∀ sc, exec (.flush sc f) s = .next (movedOn s (flushReach s a sc pick false))) ∧
     (∀ sc, ∃ u, exec (.inval .dat sc f) s = .next (movedOn s u) ∧ u = flushReach s a sc pick true ∧
       (∀ l ∈ (u.tile a).mem.lines, pick l.line = false) ∧
       (∀ w, (sc = .wall ∧ w = s.wallOf a) ∨ (sc = .package ∧ w < 4) → ∀ l ∈ (u.wall w).lines, pick l.line = false) ∧
       (u.tile a).bk = s.banker) ∧
     (∀ sc, walking s a sc = false → ∃ u, exec (.inval .all sc f) s = .next (movedOn s u) ∧
       (∀ l ∈ (u.tile a).mem.lines, pick l.line = false) ∧
       (∀ e ∈ (u.tile a).mem.tlb, tlbCovered (srcA s f).toNat (srcB s f).toNat e = false) ∧
       (∀ w, (sc = .wall ∧ w = s.wallOf a) ∨ (sc = .package ∧ w < 4) → (∀ l ∈ (u.wall w).lines, pick l.line = false) ∧
         ∀ e ∈ (u.wall w).tlb, tlbCovered (srcA s f).toNat (srcB s f).toNat e = false) ∧
       (∀ y, readByte u.mem y = readByte (flushReach s a sc pick true).mem y) ∧ (u.tile a).bk = s.banker) ∧
     (∀ sc, walking s a sc = false → ∃ u, exec (.inval .xl sc f) s = .next (movedOn s u) ∧
       (∀ e ∈ (u.tile a).mem.tlb, tlbCovered (srcA s f).toNat (srcB s f).toNat e = false) ∧
       (∀ w, (sc = .wall ∧ w = s.wallOf a) ∨ (sc = .package ∧ w < 4) →
         ∀ e ∈ (u.wall w).tlb, tlbCovered (srcA s f).toNat (srcB s f).toNat e = false) ∧
       (∀ y, readByte u.mem y = readByte s.mem y) ∧ (u.tile a).bk = s.banker) ∧
     (∀ sc, walking s a sc = true → exec (.inval .xl sc f) s = .next s ∧ exec (.inval .all sc f) s = .next s) ∧
     (srcB s f = 0 → ∀ n, pick n = true))

/-- R222, R223: `stmw` into an enabled window writes the local bytes and takes one place of the store queue for each other member of
the window's group, and faults MW_RANGE where no window holds the access; when it leaves the ring stop, a copy is queued for every
tile that is then another member of the group, stands in its place for what comes after it (R218), and counts in SBPEND (R245); where the
group has grown and there is no room for them, it waits; a copy that arrives is written at its offset in the member's window, or counted in
MWDROP where that window is too short, gone or not in an addressed buffer, and its entry is freed either way. -/
def Obligations.MirroredWindows : Prop :=
  (∀ (m : MemMods) (f : BForm) (s : State), IssuesForm s f → bankerHeld s s.actor = false →
    let a := s.actor
    let x := srcA s f
    let n := m.size.bytes
    let mt := x.toNat / 2 ^ 16
    let off := x.toNat % 2 ^ 16
    let home := mtAddr a mt off
    let bytes := leBytes n (srcB s f).toNat
    x.toNat < 2 ^ 20 → off + n ≤ 2 ^ 16 → (s.roleOf a mt).isBuffer = true → off % n = 0 →
    (∀ w, windowAt s a mt off n = some w → PortFree s mt off n false →
      let k := ((groupMembers s (mwGid w)).filter (· != a)).length
      let pend := if wideScope m.scope then n * k else 0
      storesUsed (s.tile a).mem + k ≤ 64 → (s.tile a).mem.sbpend + pend < 2 ^ 32 →
      ∃ u e, exec (.bStmw m f) s = .next (movedOn s u) ∧ readNat u.mem home n = (srcB s f).toNat % 2 ^ (8 * n) ∧
        (∀ y, (y < home ∨ home + n ≤ y) → readByte u.mem y = readByte s.mem y) ∧
        (u.tile a).mem.stores = (s.tile a).mem.stores ++ [e] ∧ e.kind = .fan (mwGid w) (off - mwBase w) bytes k ∧ e.pend = pend ∧
        (u.tile a).mem.sbpend = (s.tile a).mem.sbpend + pend ∧ (u.tile a).bk.r = s.banker.r) ∧
    (windowAt s a mt off n = none → s.banker.hasPending s.cyc = false → s.banker.emul = none →
      exec (.bStmw m f) s = .next (enterTrap s a { cause := 0x15, info := x } s.banker.pc))) ∧
  (∀ (s : State) (a : Nat) (e : StoreEnt) (gid off k : Nat) (bytes : List Byte),
    oldestFan s a = some e → e.kind = .fan gid off bytes k → (s.tile a).mem.stores.find? (·.isFor a) = none →
    let members := (groupMembers s gid).filter (· != a)
    let n := if wideScope e.scope then bytes.length else 0
    let room := members.length ≤ k ∨ (storesUsed (s.tile a).mem - k + members.length ≤ 64 ∧
      (s.tile a).mem.sbpend - e.pend + n * members.length < 2 ^ 32)
    (released s a e.cycle e.after = true → room →
      ∃ t new, exec (.stmwArrival a a) s = .next t ∧ (t.tile a).mem.stores = (s.tile a).mem.stores.filter (·.id != e.id) ++ new ∧
        new.map (fun x => (x.kind, x.seq, x.pend)) = members.map (fun k => (StoreKind.mirror k gid off bytes, e.seq, n)) ∧
        (t.tile a).mem.sbpend = (s.tile a).mem.sbpend - e.pend + n * members.length) ∧
    (released s a e.cycle e.after = false ∨ ¬ room → exec (.stmwArrival a a) s = .next s)) ∧
  ∀ (s : State) (a k : Nat) (e : StoreEnt) (gid off : Nat) (bytes : List Byte),
    oldestFan s a = none → (s.tile a).mem.stores.find? (·.isFor k) = some e → e.kind = .mirror k gid off bytes →
    storeReady s a e = true → crossed s a e.id e.xb = true →
    (∀ w, windowOf s k gid = some w → off + bytes.length ≤ mwLen w → s.isOwned k (mwMt w) = true →
      (s.port k (mwMt w)).serves s.cyc 4 = true →
      ∃ t, exec (.stmwArrival a k) s = .next t ∧ t.mem = writeBytes s.mem (mtAddr k (mwMt w) (mwBase w + off)) bytes ∧
        ∀ x ∈ (t.tile a).mem.stores, x.id ≠ e.id) ∧
    ((windowOf s k gid = none ∨ ∃ w, windowOf s k gid = some w ∧ (mwLen w < off + bytes.length ∨ s.isOwned k (mwMt w) = false)) →
      ∃ t, exec (.stmwArrival a k) s = .next t ∧ t.mem = s.mem ∧
        (t.tile k).mem.mwdrop = min ((s.tile k).mem.mwdrop + 1) (2 ^ 32 - 1) ∧ ∀ x ∈ (t.tile a).mem.stores, x.id ≠ e.id)

/-! ## Atomics and synchronisation (row 0x7) -/

/-- R238, R239, R210, R214: a local atomic of the banker that the shared port serves reads the w bytes at A, writes the new value of
its operation there (a failed `acas` writes nothing) and no other byte, and delivers the old value, extended by sign unless U = 1
or it is `afadd`; an acquire first gives up outdated copies in the tile's cache (R252), writing back what is dirty in them, which is how
the model keeps R252 (log entry 154).
R238, R217: an atomic of scope 2 to 4 takes an entry of the load table with its operation, operand and compared value and
counts its bytes in SBPEND; the banker awaits d. -/
def Obligations.AtomicsReadModifyWrite : Prop :=
  (∀ (m : MemMods) (f : BForm) (s : State), IssuesForm s f → bankerHeld s s.actor = false →
     let a := s.actor
     let x := srcA s f
     let n := m.size.bytes
     let w := m.size.bits
     let mt := x.toNat / 2 ^ 16
     let home := mtAddr a mt (x.toNat % 2 ^ 16)
     let s0 := if isAcquire m.order then acquirePoint s a .banker else s
     let old := BitVec.ofNat w (readNat s0.mem home n)
     let b := (srcB s f).setWidth w
     wideScope m.scope = false → x.toNat < 2 ^ 20 → x.toNat % 2 ^ 16 + n ≤ 2 ^ 16 → (s.roleOf a mt).isBuffer = true →
     x.toNat % n = 0 → (isRelease m.order = true → outstandingStores (s.tile a).mem .banker = []) →
     PortFree s mt (x.toNat % 2 ^ 16) n false → s.ue = false →
     let le (p q : BitVec w) : Prop := if m.uns then p.toNat ≤ q.toNat else p.toInt ≤ q.toInt
     let leaves (r : Host.Outcome State Fault Refusal) (v : BitVec w) (d : Word) : Prop :=
       ∃ u, r = .next (wrote s u f.dst d 1) ∧ readNat u.mem home n = v.toNat ∧
         (∀ y, (y < home ∨ home + n ≤ y) → readByte u.mem y = readByte s0.mem y) ∧ (u.tile a).bk.r = s.banker.r ∧
         (u.tile a).bk.pc = s.banker.pc
     let ext : Word := if m.uns then old.setWidth 64 else old.signExtend 64
     leaves (exec (.bAadd m f) s) (old + b) ext ∧
     leaves (exec (.bAand m f) s) (old &&& b) ext ∧
     leaves (exec (.bAor m f) s) (old ||| b) ext ∧
     leaves (exec (.bAxor m f) s) (old ^^^ b) ext ∧
     (∃ v, leaves (exec (.bAmin m f) s) v ext ∧ (v = old ∨ v = b) ∧ le v old ∧ le v b) ∧
     (∃ v, leaves (exec (.bAmax m f) s) v ext ∧ (v = old ∨ v = b) ∧ le old v ∧ le b v) ∧
     leaves (exec (.bAxchg m f) s) b ext ∧
     (m.size = .b32 → leaves (exec (.bAfadd m f) s) (BitVec.ofNat w (f32Add .rne old.toNat b.toNat)) (old.setWidth 64)) ∧
     ∀ i, f.dst = .g i →
       let e := Tab.get s.banker.r.g i.val
       e.poison = false → s.banker.readyAt i.val ≤ s.cyc →
       leaves (exec (.bAcas m f) s) (if old = e.v.setWidth w then b else old) ext) ∧
  (∀ op ∈ [(AtomicOp.aadd, Instr.bAadd), (.aand, .bAand), (.aor, .bAor), (.axor, .bAxor), (.amin, .bAmin), (.amax, .bAmax),
       (.axchg, .bAxchg), (.afadd, .bAfadd), (.acas, .bAcas)],
     ∀ (m : MemMods) (f : BForm) (s v : State) (tr : Xlat), IssuesForm s f → bankerHeld s s.actor = false →
       let a := s.actor
       let x := srcA s f
       let n := m.size.bytes
       (op.1 = .acas → ∃ i : Fin 32, f.dst = .g i ∧ (Tab.get s.banker.r.g i.val).poison = false ∧
         s.banker.readyAt i.val ≤ s.cyc) →
       wideScope m.scope = true → x.toNat < 2 ^ 56 →
       x.toNat % n = 0 → (s.tile a).mem.loads.length < 64 → (s.tile a).mem.sbpend + n < 2 ^ 32 →
       xlatIssue s a x.toNat = some (v, tr) → tr.cause? = none → (∀ pa nc, tr ≠ .done pa nc false) →
       ∃ t y, exec (op.2 m f) s = .next t ∧ (t.tile a).mem.loads = (v.tile a).mem.loads ++ [y] ∧ y.who = .banker ∧
         y.va = x.toNat ∧ y.size = m.size ∧ y.scope = m.scope ∧ y.order = m.order ∧ y.xlat = tr ∧ y.g = dstNum f.dst ∧
         (∃ r, y.rmw = some r ∧ r.op = op.1 ∧ r.b = srcB s f ∧ r.uns = m.uns ∧
           ∀ i : Fin 32, op.1 = .acas → f.dst = .g i → r.e = (Tab.get s.banker.r.g i.val).v) ∧
         (t.tile a).mem.sbpend = (v.tile a).mem.sbpend + n ∧
         (∀ i, f.dst = .g i → (t.tile a).bk.readyAt i.val = pendingReg) ∧
         (∀ z, readByte t.mem z = readByte v.mem z) ∧ RegsKept s t a .none)

/-- R240, R241, R243, R244: `fence` goes on only once the accesses of its condition are over and otherwise waits; a plain
`sig` adds B[31:0] to a semaphore of its own tile in the next cycle, a release takes a store-queue entry; `wait` delivers the
value that meets its threshold and subtracts on `.take`, and otherwise stalls until WAIT_PASS finds the threshold met; an
index above 255 takes SEM_ADDR. That the index stands in INFO is log entry 114's reading; what an acquire gives up (`acquirePoint`,
`fencePoint`, `waitPoint`) is log entry 154's. -/
def Obligations.FencesSignalsAndWaits : Prop :=
  ∀ s : State,
    let a := s.actor
    (∀ o sc g, Issues s g .none [] [] →
      let settled := if o = .acquire then bankerLoadsDone s a = true else bankerBusy s a = false
      (settled → exec (.bFence o sc g) s = .next (movedOn s (if isAcquire o then fencePoint s a .banker else s))) ∧
      (¬ settled → exec (.bFence o sc g) s = .next s)) ∧
    (∀ f sc, IssuesForm s f → bankerHeld s a = false →
      let i := (srcA s f).toNat
      let n := ((srcB s f).setWidth 32).toNat
      (i < 256 → exec (.bSig false sc f) s =
        .next (movedOn s (addDue s { at' := s.cyc + 1, phase := 1, iss := s.cyc, act := .semAdd a i n }))) ∧
      (i < 256 → storesUsed (s.tile a).mem < 64 → (s.tile a).mem.sbpend < 2 ^ 32 →
        ∃ u e, exec (.bSig true sc f) s = .next (movedOn s u) ∧ (u.tile a).mem.stores = (s.tile a).mem.stores ++ [e] ∧
          e.kind = .sem i n ∧ e.after = outstanding (s.tile a).mem .banker ∧ OutsideKept s u a) ∧
      (∀ take acq, i < 256 → n ≤ s.semOf a i →
        let u := waitPoint s a acq
        exec (.wait take acq sc f) s = .next (wrote s
          (if take then addDue u { at' := u.cyc + 1, act := .semTake a i n } else u) f.dst (BitVec.ofNat 64 (s.semOf a i)) 1)) ∧
      (∀ take acq, i < 256 → s.semOf a i < n →
        exec (.wait take acq sc f) s = .next (s.modBk a fun k => { k with stall := .wait i n take acq f.dst })) ∧
      (256 ≤ i → s.banker.hasPending s.cyc = false → s.banker.emul = none →
        let t := enterTrap s a { cause := 0x16, info := srcA s f } s.banker.pc
        (∀ rel, exec (.bSig rel sc f) s = .next t) ∧ ∀ take acq, exec (.wait take acq sc f) s = .next t)) ∧
    (∀ k i n take acq d, (s.tile k).bk.stall = .wait i n take acq d →
      let u := waitPoint s k acq
      (n ≤ s.semOf k i → exec (.waitPass k) s = .next (unstall
        (if take then addDue u { at' := u.cyc + 1, act := .semTake k i n } else u) k d (s.semOf k i))) ∧
      (s.semOf k i < n → exec (.waitPass k) s = .next s)) ∧
    ∀ k i n iss,
      let t := applyAct s iss (.semAdd k i n)
      let u := applyAct s iss (.semTake k i n)
      t.semOf k i = (s.semOf k i + n) % 2 ^ 32 ∧ (n ≤ s.semOf k i → s.semOf k i < 2 ^ 32 → u.semOf k i = s.semOf k i - n) ∧
      ∀ q j, (q ≠ k ∨ j ≠ i) → t.semOf q j = s.semOf q j ∧ u.semOf q j = s.semOf q j

/-- R242: a remote increment takes a store-queue entry and 4 bytes of SBPEND; when it arrives, in issue order, it is added to
the semaphore modulo 2^32 and its entry is freed; one from another package for a tile that is not assigned here is counted in
SIGDROP; an address with bits above 26, or one out of the instruction's scope, takes SEM_ADDR. R246, R247, R248: `sbar` at an
enabled barrier stops the banker and records its arrival for the current epoch, once; the tile sends it when SBPEND is 0 and no
access of the banker is outstanding (R254); the root counts arrivals and at COUNT ends the step: EPOCH grows by 1, ARR becomes 0 and every tile that arrived is released; a
released banker, or an `sbar` that finds its release come, resumes with the new EPOCH in d, an acquire. A barrier that is off takes BAR_BAD.
That the address or number stands in INFO is log entry 114's reading. -/
def Obligations.RemoteIncrementsAndBarriers : Prop :=
  ((∀ (rel : Bool) (sc : Scope) (f : BForm) (s : State), IssuesForm s f → bankerHeld s s.actor = false →
     let a := s.actor
     let x := srcA s f
     let tile := (x.extractLsb' 8 10).toNat
     let n := ((srcB s f).setWidth 32).toNat
     (x.toNat < 2 ^ 18 → s.tileOk tile = true → (if tile = a then 1 else if s.wallOf tile = s.wallOf a then 2 else 3) ≤ sc.code →
       storesUsed (s.tile a).mem < 64 → (s.tile a).mem.sbpend + 4 < 2 ^ 32 →
       ∃ u e, exec (.sigr rel sc f) s = .next (movedOn s u) ∧ (u.tile a).mem.stores = (s.tile a).mem.stores ++ [e] ∧
         e.kind = .remote false 0 tile (x.setWidth 8).toNat n ∧ e.pend = 4 ∧
         e.after = (if rel then outstanding (s.tile a).mem .banker else []) ∧
         (u.tile a).mem.sbpend = (s.tile a).mem.sbpend + 4 ∧ OutsideKept s u a) ∧
     (2 ^ 27 ≤ x.toNat ∨ (x.toNat < 2 ^ 18 ∧ s.tileOk tile = true ∧
         sc.code < (if tile = a then 1 else if s.wallOf tile = s.wallOf a then 2 else 3)) →
       s.banker.hasPending s.cyc = false → s.banker.emul = none →
       exec (.sigr rel sc f) s = .next (enterTrap s a { cause := 0x16, info := x } s.banker.pc))) ∧
   ∀ s : State,
     (∀ a e pkg tile sem n, (s.tile a).mem.stores.find? (·.id == e.id) = some e → e.kind = .remote false pkg tile sem n →
       released s a e.cycle e.after = true → e.sent = false → crossed s a e.id e.xb = true →
       ((s.tile a).mem.stores.any fun x => x.who == e.who && decide (x.id < e.id) && sameSem x.kind e.kind) = false →
       ∃ t, exec (.sigrArrival (.tile a e.id)) s = .next t ∧ Raised s t tile sem n ∧
         (∀ k j, t.semOf k j = s.semOf k j) ∧ (∀ x ∈ (t.tile a).mem.stores, x.id ≠ e.id) ∧
         ∀ y, readByte t.mem y = readByte s.mem y) ∧
     ∀ (pkg id tile : Nat) (sem : BitVec 8) (inc : BitVec 32),
       let answered (port : Nat) := s.out ++ [OutMsg.arcade port pkg (.ack id 0)]
       (s.tileOk tile = true → ∃ t, exec (.sigrArrival (.arcade pkg id tile sem inc)) s = .next t ∧
         Raised s t tile sem.toNat inc.toNat ∧ t.out = answered (arcadePort s tile false pkg)) ∧
       (s.tileOk tile = false → ∃ t, exec (.sigrArrival (.arcade pkg id tile sem inc)) s = .next t ∧ t.tiles = s.tiles ∧
         t.due = s.due ∧ t.plinth = { s.plinth with sigdrop := min (s.plinth.sigdrop + 1) (2 ^ 32 - 1) } ∧
         ∃ port, (port = 4 ∨ port = 6) ∧ t.out = answered port)) ∧
  (∀ s : State,
     (∀ f : BForm, IssuesForm s f → bankerHeld s s.actor = false →
       let a := s.actor
       let i := (srcA s f).toNat
       (i < 16 → (s.sbarOf i).en = true → sbarReleased s a i = none →
         ∃ t, exec (.sbar f) s = .next t ∧ (t.tile a).bk.stall = .sbar i f.dst ∧ (t.tile a).bk.r = s.banker.r ∧
           (t.tile a).bk.pc = s.banker.pc ∧
           Tab.get (t.tile a).bk.arrived i = (if (Tab.get s.banker.arrived i).1 = 0 then ((s.sbarOf i).epoch + 1, false)
             else Tab.get s.banker.arrived i) ∧ OutsideKept s t a) ∧
       (∀ e, i < 16 → (s.sbarOf i).en = true → sbarReleased s a i = some e →
         exec (.sbar f) s = .next (wrote s
           (acquirePoint (s.modBk a fun b => { b with released := Tab.set b.released i 0 }) a .banker) f.dst (BitVec.ofNat 64 e) 1)) ∧
       (16 ≤ i ∨ (s.sbarOf i).en = false → s.banker.hasPending s.cyc = false → s.banker.emul = none →
         exec (.sbar f) s = .next (enterTrap s a { cause := 0x17, info := srcA s f } s.banker.pc))) ∧
     (∀ a i, unsentBar s a = some i →
       let quiet := (s.tile a).mem.sbpend = 0 ∧ outstanding (s.tile a).mem .banker = []
       (quiet → ∃ t, exec (.sbarArrival a) s = .next t ∧
         (t.sbarOf i).queue = (s.sbarOf i).queue ++ [a] ∧
         Tab.get (t.tile a).bk.arrived i = ((Tab.get (s.tile a).bk.arrived i).1, true)) ∧
       (¬ quiet → exec (.sbarArrival a) s = .next s)) ∧
     (∀ (i : Fin 16) a rest, (s.sbarOf i.val).queue = a :: rest →
       ∃ t, exec (.barrierRootArrival i) s = .next t ∧ (t.sbarOf i.val).queue = rest ∧
         ((s.sbarOf i.val).arr + 1 < (s.sbarOf i.val).count →
           (t.sbarOf i.val).arr = (s.sbarOf i.val).arr + 1 ∧ (t.sbarOf i.val).epoch = (s.sbarOf i.val).epoch ∧
           (t.sbarOf i.val).tiles = (s.sbarOf i.val).tiles ++ [a] ∧ t.tiles = s.tiles) ∧
         ((s.sbarOf i.val).count ≤ (s.sbarOf i.val).arr + 1 →
           let e := ((s.sbarOf i.val).epoch + 1) % 2 ^ 32
           (t.sbarOf i.val).arr = 0 ∧ (t.sbarOf i.val).epoch = e ∧
           ∀ k ∈ (s.sbarOf i.val).tiles ++ [a], Tab.get (t.tile k).bk.released i.val = e + 1 ∧
             Tab.get (t.tile k).bk.arrived i.val = (0, false))) ∧
     ∀ a i d, (s.tile a).bk.stall = .sbar i d → Tab.get (s.tile a).bk.released i ≠ 0 →
       exec (.sbarResume a) s = .next (unstall
         (acquirePoint (s.modBk a fun b => { b with released := Tab.set b.released i 0 }) a .banker) a d
         (Tab.get (s.tile a).bk.released i - 1)))

/-- R217, R219, R233, R234: a finished walk, of the 16 that have a walker, installs its translation in the wall's TLB, and one that fails
installs nothing; on every tile of the wall the loads and stores that wait for it take its translation and stay, or, where it fails or
does not allow them, leave their table, those of the banker with a late fault of its cause, PT_BAD for an uncorrectable error; other loads
and stores stay as they are. A walk with no copies in the wall's reserved ways leaves memory as it is. A prefetch that ends, once a
translation can be had, drops itself whatever it met, and faults nobody. -/
def Obligations.WalksAndPrefetchesEnd : Prop :=
  ∀ s : State,
    (∀ w page, (((s.wall w).walks.take 16).any (·.page == page)) = false → ∀ ecc, exec (.pageWalkComplete w page ecc) s = .next s) ∧
    (∀ w page ecc, (((s.wall w).walks.take 16).any (·.page == page)) = true →
      let r := if ecc then walkStruck s w (page * 65536) else walk s w (page * 65536)
      let waits (x : Xlat) : Bool := x == .walking page
      let gone (x : Xlat) (va : Nat) (write : Bool) : Bool := waits x && (walked r.2 va write).cause?.isSome
      let goneLoads (a : Nat) : List LoadEnt := (s.tile a).mem.loads.filter fun e => gone e.xlat e.va e.rmw.isSome
      let goneStores (a : Nat) : List StoreEnt := (s.tile a).mem.stores.filter fun e => gone e.xlat e.va true
      (∀ a, s.wallOf a = w →
        ((s.tile a).mem.loads.map (·.id)).Nodup ∧ ((s.tile a).mem.stores.map (·.id)).Nodup ∧
        (∀ e ∈ goneLoads a, ∀ c, e.who ≠ .region c) ∧ ∀ e ∈ goneStores a, ∀ c, e.who ≠ .region c) →
      ∃ t, exec (.pageWalkComplete w page ecc) s = .next t ∧ (∀ x ∈ (t.wall w).walks, x.page ≠ page) ∧
        (∀ e, r.2 = .ok e → e ∈ (t.wall w).tlb) ∧ (r.2.toOption = none → (t.wall w).tlb = (s.wall w).tlb) ∧
        (∀ y, readByte t.mem y = readByte r.1.mem y) ∧
        ∀ a, s.wallOf a = w →
          (t.tile a).mem.loads = (((s.tile a).mem.loads.filter fun e => !gone e.xlat e.va e.rmw.isSome).map fun e =>
            if waits e.xlat then { e with xlat := walked r.2 e.va e.rmw.isSome } else e) ∧
          (t.tile a).mem.stores = (((s.tile a).mem.stores.filter fun e => !gone e.xlat e.va true).map fun e =>
            if waits e.xlat then { e with xlat := walked r.2 e.va true } else e) ∧
          ((s.tile a).sys.ten = true → (s.tile a).sys.posted.length + (goneLoads a).length + (goneStores a).length ≤ 32 →
            let late (write : Bool) (va : Nat) (loc : Word) : Prop := ∃ p ∈ (t.tile a).sys.posted,
              (walked r.2 va write).cause? = some p.trap.cause ∧ p.trap.info = BitVec.ofNat 64 va ∧ p.trap.info2 = loc ∧
              p.trap.posted = true
            (∀ e ∈ goneLoads a, e.who = .banker → late e.rmw.isSome e.va e.loc) ∧
            ∀ e ∈ goneStores a, e.who = .banker → late true e.va e.loc)) ∧
    (∀ w va, bitOf s.plinth.ptroot.toNat 0 = true → (walkStruck s w va).2.toOption = none ∧
      ∀ c, (walkStruck s w va).2 = .error c → c = 0x10) ∧
    (∀ w va, (s.wall w).lines = [] → (walk s w va).1.mem = s.mem) ∧
    ∀ a id ecc, (∀ e, (s.tile a).mem.pfs.find? (·.id == id) = some e → xlatFree s a 6 e.va = true) →
      ∃ t, exec (.pfFillComplete a id ecc) s = .next t ∧ (∀ x ∈ (t.tile a).mem.pfs, x.id ≠ id) ∧
        (t.tile a).bk = (s.tile a).bk ∧ (t.tile a).sys = (s.tile a).sys

/-! ## Engines (row 0x8 and C-space) -/

/-- R279, R282, R283: a command record of four registers is written into the slot of the next sequence number, the chain's
ISSUED advances and d receives that number with status OK, in one cycle; no other byte of memory changes. An unknown chain, a
chain that is off and a TYPE that the form does not name answer 1, 2 and 3; a full chain makes the banker wait, and so does a
memory tile whose shared port serves another (spec/09_memory.md R210). -/
def Obligations.RecordsAreAppendedInOneCycle : Prop :=
  ∀ s : State,
    let a := s.actor
    let appended (r : Host.Outcome State Fault Refusal) (d : BDst) (c rec : Nat) : Prop :=
      let x := s.chain a c
      let n := (x.issued + 1) % 2 ^ 32
      let slot := mtAddr a x.mt (x.base + 32 * ((n + 2 ^ 32 - 1) % 2 ^ 32 % 2 ^ x.sz))
      ∃ u, r = .next (wrote s u d (BitVec.ofNat 64 (n * 2 ^ 8)) 1) ∧ (u.chain a c) = { x with issued := n } ∧
        readNat u.mem slot 32 = rec % 2 ^ 256 ∧ (∀ y, (y < slot ∨ slot + 32 ≤ y) → readByte u.mem y = readByte s.mem y) ∧
        (u.tile a).bk = s.banker ∧ ∀ k, k ≠ a → u.tile k = s.tile k
    let outcome (r : Host.Outcome State Fault Refusal) (d : BDst) (c rec : Nat) (types : List Nat) : Prop :=
      let x := s.chain a c
      (4 ≤ c → r = .next (wrote s s d 1 1)) ∧
      (c < 4 → x.en = false → r = .next (wrote s s d 2 1)) ∧
      (c < 4 → x.en = true → types ≠ [] → rec % 256 ∉ types → r = .next (wrote s s d 3 1)) ∧
      (c < 4 → x.en = true → types = [] ∨ rec % 256 ∈ types →
        (2 ^ x.sz ≤ x.occupancy → r = .next s) ∧
        (x.occupancy < 2 ^ x.sz →
          ((s.port a x.mt).serves s.cyc 0 = true → appended r d c rec) ∧
          ((s.port a x.mt).serves s.cyc 0 = false → r = .next (askPort s a x.mt 0))))
    (∀ (f : BForm) (i : Fin 32), f.a = .g i →
      Issues s f.guard f.dst (recordRegs f.a ++ srcRegs f.b) (recordVals s a f.a ++ [readB s a f.b]) →
      let g (k : Nat) : Nat := (Tab.get s.banker.r.g (i.val + k)).v.toNat
      let rec' := g 0 + g 1 * 2 ^ 64 + g 2 * 2 ^ 128 + g 3 * 2 ^ 192
      outcome (exec (.ecmd f) s) f.dst (srcB s f).toNat rec' [] ∧
      outcome (exec (.ecpy f) s) f.dst 0 rec' [0x00, 0x04] ∧ outcome (exec (.egath f) s) f.dst 0 rec' [0x01] ∧
      outcome (exec (.escat f) s) f.dst 0 rec' [0x02] ∧ outcome (exec (.efetch f) s) f.dst 0 rec' [0x03] ∧
      outcome (exec (.ecoll f) s) f.dst 2 rec' [0x20, 0x21, 0x22, 0x23] ∧
      outcome (exec (.eexp f) s) f.dst 1 rec' [0x10, 0x11, 0x12, 0x13]) ∧
    ∀ f : BForm, IssuesForm s f → semAddrFault s a (srcA s f).toNat = none →
      outcome (exec (.esig f) s) f.dst 0
        (0x05 + ((srcA s f).setWidth 27).toNat * 2 ^ 64 + ((srcB s f).setWidth 32).toNat * 2 ^ 128) []

/-- R284: `eseq` reads DONE, `estat` the chain's state, `edrain` completes once the chain is empty, faulted, or held and idle,
and otherwise stalls until EDRAIN_DONE finds one of these; `echain` clears or sets HOLD, clears a fault, or skips the faulted
command; a chain above 3 answers 1. Only the chain named changes. R62, R66, R280, R291: a command waits for its semaphore and
then starts; `null` has nothing to do and is over; rsig puts its increment behind every access of the tile's engines in the
store queue; when all of a command's accesses are over it completes: DONE advances, its bytes leave SBPEND and its signal,
where it has one, arrives, in one cycle (R280). That this cycle is the one after the last access is over is the model's choice (log entry
133); meanwhile the engine does nothing. -/
def Obligations.ChainsRunTheirCommands : Prop :=
  (∀ s : State,
     let a := s.actor
     (∀ f : BForm, IssuesForm s f →
       let c := (srcA s f).toNat
       let x := s.chain a c
       let set (y : Chain) : State := s.modTile a fun k => { k with chains := Tab.set k.chains c y }
       (4 ≤ c → exec (.eseq f) s = .next (wrote s s f.dst 1 1) ∧ exec (.estat f) s = .next (wrote s s f.dst 1 1) ∧
         exec (.edrain f) s = .next (wrote s s f.dst 1 1) ∧ exec (.echainGo f) s = .next (wrote s s f.dst 1 1)) ∧
       (c < 4 →
         exec (.eseq f) s = .next (wrote s s f.dst (BitVec.ofNat 64 (x.done * 2 ^ 8)) 1) ∧
         exec (.estat f) s = .next (wrote s s f.dst (BitVec.ofNat 64 (x.occupancy * 2 ^ 8 + b2n x.flt * 2 ^ 20 +
           b2n x.hold * 2 ^ 21 + b2n x.en * 2 ^ 22 + b2n (x.run != .idle) * 2 ^ 23 + b2n (x.run == .waiting) * 2 ^ 24)) 1) ∧
         (x.issued = x.done → exec (.edrain f) s = .next (wrote s s f.dst (BitVec.ofNat 64 (x.done * 2 ^ 8)) 1)) ∧
         (x.issued ≠ x.done → x.flt = true →
           exec (.edrain f) s = .next (wrote s s f.dst (BitVec.ofNat 64 (0x05 + x.done * 2 ^ 8)) 1)) ∧
         (x.issued ≠ x.done → x.flt = false → x.hold = true → x.run = .idle →
           exec (.edrain f) s = .next (wrote s s f.dst (BitVec.ofNat 64 (0x06 + x.done * 2 ^ 8)) 1)) ∧
         (x.issued ≠ x.done → x.flt = false → x.hold = false ∨ x.run ≠ .idle →
           exec (.edrain f) s = .next (s.modBk a fun k => { k with stall := .edrain c f.dst })) ∧
         ((srcB s f).toNat < 4 →
           exec (.echainGo f) s = .next (wrote s (set { x with hold := false }) f.dst 0 1) ∧
           exec (.echainStop f) s = .next (wrote s (set { x with hold := true }) f.dst 0 1) ∧
           exec (.echainRetry f) s = .next (wrote s (set { x with flt := false }) f.dst 0 1) ∧
           (x.flt = true → exec (.echainSkip f) s =
             .next (wrote s (set { x with flt := false, done := (x.done + 1) % 2 ^ 32 }) f.dst 0 1)) ∧
           (x.flt = false → exec (.echainSkip f) s = .next (wrote s (set x) f.dst 0 1))))) ∧
     ∀ k c d, (s.tile k).bk.stall = .edrain c d →
       (∀ v, drained (s.chain k c) = some v → exec (.edrainDone k) s = .next (unstall s k d v)) ∧
       (drained (s.chain k c) = none → exec (.edrainDone k) s = .next s)) ∧
  (∀ s : State,
     let a := s.actor
     let c := s.actorChain
     (∀ h : CHead,
       (CmdRuns s h → exec (.cNull h) s = .next ((begun s).modChain a c fun x => { x with fin := true })) ∧
       (s.engine.next ≤ s.cyc → s.engine.run ≠ .started → h.waitEn = true → s.semOf a h.wsem.toNat < h.wthr.toNat →
         let waits := s.modChain a c fun x => { x with run := .waiting }
         exec (.cNull h) s = .next waits ∧ ∀ q i, exec (.cRsig h q i) s = .next waits) ∧
       ∀ (sa : BitVec 27) (inc : BitVec 32), CmdRuns s h → sa.toNat < 2 ^ 18 → s.tileOk (sa.toNat / 256) = true →
         storesUsed (s.tile a).mem < 64 → (s.tile a).mem.sbpend + 4 < 2 ^ 32 →
         ∃ t e, exec (.cRsig h sa inc) s = .next t ∧ (t.tile a).mem.stores = (s.tile a).mem.stores ++ [e] ∧
           e.kind = .remote false 0 (sa.toNat / 256) (sa.toNat % 256) inc.toNat ∧ e.who = .engine ∧
           e.after = outstanding (s.tile a).mem .engine ∧ (t.chain a c).fin = true ∧ OutsideKept s t a) ∧
     ∀ (k : Nat) (q : Fin 4),
       let x := s.chain k q.val
       (cmdOver s k q.val = true →
         exec (.engineCmdComplete k q) s = .next (addDue (s.modChain k q.val fun y => { y with run := .ending })
           { at' := s.cyc + 1, phase := 1, iss := s.cyc, act := .cmdDone k q.val })) ∧
       (cmdOver s k q.val = false → exec (.engineCmdComplete k q) s = .next s) ∧
       (x.run = .ending → ∀ iss,
         let t := applyAct s iss (.cmdDone k q.val)
         let sem := x.record / 2 ^ 40 % 256
         (t.chain k q.val).done = (x.done + 1) % 2 ^ 32 ∧ (t.chain k q.val).run = .idle ∧
           (t.tile k).mem.sbpend = (s.tile k).mem.sbpend - x.pend ∧
           (x.record.testBit 9 = true → t.semOf k sem = (s.semOf k sem + x.record / 2 ^ 48 % 256) % 2 ^ 32) ∧
           (∀ j, x.record.testBit 9 = false ∨ j ≠ sem → t.semOf k j = s.semOf k j) ∧ (t.tile k).bk = (s.tile k).bk ∧
           OutsideKept s t k) ∧
       (x.run ≠ .ending → ∀ iss, applyAct s iss (.cmdDone k q.val) = s)) ∧
  ∀ (s : State) (h : CHead), s.engine.run = .ending → exec (.cNull h) s = .next s ∧ ∀ q i, exec (.cRsig h q i) s = .next s

/-- R285, R287, R289: one access of a copy, gather, scatter or fill: the element at the offsets of its shape, at its index, or
the piece of the pattern within one line, is read and written at package scope, its bytes count in SBPEND, and the command
moves on; after the last one it has issued everything. With XPKG = 1 a copy, scatter or fill sends its bytes to the package
DPKG; the own package faults PKG_SELF, one that is not listed PKG_BAD, and before the arcade runs the command waits
(spec/19_boundary.md R431). One element or piece a turn is the model's choice (log entry 40), and so is that the bytes of a write are
acknowledged when the next access comes (log entry 140). The statement is about turns in which no access meets an error of storage,
translations are at hand and the shared port serves the engine. -/
def Obligations.CopyCommandsMoveElements : Prop :=
  ∀ (s : State) (h : CHead), CmdRuns s h → s.actorChain = 0 → s.strike = 0 →
    let a := s.actor
    let s' := begun s
    let i := s'.engine.pos
    let on (u : State) (n : Nat) : State := u.modChain a 0 fun x => { x with pos := x.pos + n }
    let moved (u : State) (r : Host.Outcome State Fault Refusal) (src dst n : Nat) : Prop :=
      ∀ v bytes w t, src < 2 ^ 56 → src % n = 0 → dst < 2 ^ 56 → dst % n = 0 → areaFree u a 1 src n = true →
        vRead u a src n = .ok (v, bytes) → areaFree (ackPend v a 0) a 1 dst bytes.length = true →
        addPend (ackPend v a 0) a 0 bytes.length = some w → vWrite w a dst bytes = (t, none) → r = .next (on t 1)
    let sent (u : State) (r : Host.Outcome State Fault Refusal) (p src dst n : Nat) : Prop :=
      ∀ v bytes, src < 2 ^ 56 → src % n = 0 → dst < 2 ^ 56 → dst % n = 0 → areaFree u a 1 src n = true →
        vRead u a src n = .ok (v, bytes) → pendRoom ((ackPend v a 0).tile a).mem bytes.length = true →
        r = .next (on (sendRemote (ackPend v a 0) a p bytes.length fun id => .store id dst bytes) 1)
    let remote (p : Nat) : Prop := p ≠ s.mgmt.arcNum ∧ s.refusesPackage p = false ∧ s.mgmt.arcUp = true
    let finished := s'.modChain a 0 fun x => { x with fin := true }
    (∀ src dst dpkg desc,
      (∀ l v, s'.engine.shape = [] → readShape s' a 0 desc.toNat = .ok (v, l) → dst.toNat / 2 ^ 48 % 256 ≠ 0xFF →
        exec (.cCopy h src dst dpkg desc false false) s = .next (v.modChain a 0 fun x => { x with shape := l })) ∧
      ∀ w l, s'.engine.shape = w :: l → dst.toNat / 2 ^ 48 % 256 ≠ 0xFF →
        let dims := shapeDimsOf l
        let from' := offsetBy src.toNat (shapeAt dims i).1
        let to' := offsetBy dst.toNat (shapeAt dims i).2
        (i < shapeTotal dims →
          moved s' (exec (.cCopy h src dst dpkg desc false false) s) from' to' (2 ^ (w / 16 % 4)) ∧
          (remote dpkg.toNat →
            sent s' (exec (.cCopy h src dst dpkg desc true false) s) dpkg.toNat from' to' (2 ^ (w / 16 % 4)))) ∧
        (shapeTotal dims ≤ i → exec (.cCopy h src dst dpkg desc false false) s = .next finished)) ∧
    (∀ src dst dpkg idx count esz mt off, localCheck s' a idx.toNat (4 * count.toNat) 4 = .ok (mt, off) →
      let e := 2 ^ esz.toNat
      let k := leNat (readMt s a mt (off + 4 * i) 4)
      let u := usePort s' a mt 1 1
      (i < count.toNat → (s.port a mt).serves s.cyc 1 = true →
        moved u (exec (.cGather h src dst dpkg idx count esz) s) ((src.toNat + k * e) % 2 ^ 64)
          ((dst.toNat + i * e) % 2 ^ 64) e ∧
        moved u (exec (.cScatter h src dst dpkg idx false count esz) s) ((src.toNat + i * e) % 2 ^ 64)
          ((dst.toNat + k * e) % 2 ^ 64) e ∧
        (remote dpkg.toNat → sent u (exec (.cScatter h src dst dpkg idx true count esz) s) dpkg.toNat
          ((src.toNat + i * e) % 2 ^ 64) ((dst.toNat + k * e) % 2 ^ 64) e)) ∧
      (i < count.toNat → (s.port a mt).serves s.cyc 1 = false →
        exec (.cGather h src dst dpkg idx count esz) s = .next (askPort s' a mt 1)) ∧
      (count.toNat ≤ i → exec (.cGather h src dst dpkg idx count esz) s = .next finished ∧
        exec (.cScatter h src dst dpkg idx false count esz) s = .next finished)) ∧
    (∀ pat dst dpkg len,
      let p := dst.toNat + i
      let n := min (len.toNat - i) (128 - p % 128)
      let bytes := (List.range n).map fun j => pat.extractLsb' (8 * ((i + j) % 8)) 8
      (i < len.toNat → p < 2 ^ 56 →
        (∀ w u, areaFree (ackPend s' a 0) a 1 p n = true → addPend (ackPend s' a 0) a 0 n = some w → vWrite w a p bytes = (u, none) →
          exec (.cFill h pat dst dpkg len false) s = .next (on u n)) ∧
        (remote dpkg.toNat → pendRoom ((ackPend s' a 0).tile a).mem n = true →
          exec (.cFill h pat dst dpkg len true) s =
            .next (on (sendRemote (ackPend s' a 0) a dpkg.toNat n fun id => .store id p bytes) n))) ∧
      (len.toNat ≤ i → exec (.cFill h pat dst dpkg len false) s = .next finished)) ∧
    ∀ (src dst : BitVec 56) (dpkg : BitVec 8) (desc : BitVec 20) (count : BitVec 14) (esz : BitVec 2) (pat : Word) (len : BitVec 40)
      (eos : Bool),
      ∀ r ∈ [exec (.cCopy h src dst dpkg desc true eos) s, exec (.cScatter h src dst dpkg desc true count esz) s,
             exec (.cFill h pat dst dpkg len true) s],
        (dpkg.toNat = s.mgmt.arcNum → r = .next (cmdFault s' a 0 0x32)) ∧
        (dpkg.toNat ≠ s.mgmt.arcNum → s.refusesPackage dpkg.toNat = true → r = .next (cmdFault s' a 0 0x36)) ∧
        (dpkg.toNat ≠ s.mgmt.arcNum → s.refusesPackage dpkg.toNat = false → s.mgmt.arcUp = false → r = .next s')

/-- R290, R430: a fetch asks its endpoint for the stripes of a manifest entry that are this package's, the package's rank and every
PCOUNT-th after it, each with a packet of five double words, and has issued everything after the last entry; one entry a turn is the
model's choice (log entry 40). The reply that completes a stripe writes it, once translation and port are there; an error reply
or a timeout faults the command with OBJ_READ. R195, R288: a token for a port of a running copy with room, and no token parked
before it, is queued under the copy's context tag; one for a launch that is queued parks, and so does one whose copy waits at the cut with
which it leaves (R205, R408); one for a launch that has ended becomes an orphan. -/
def Obligations.FetchesAndPortTokens : Prop :=
  ((∀ (s : State) (h : CHead) (man dst : BitVec 56) (nent : BitVec 16) (pbase : BitVec 8) (pcount : BitVec 9), CmdRuns s h →
     let a := s.actor
     let c := s.actorChain
     let s' := begun s
     let i := s'.engine.pos
     let rk := (s.mgmt.arcNum + 256 - pbase.toNat) % 256
     (pcount.toNat ≤ rk ∨ nent.toNat ≤ i → exec (.cFetch h man dst nent pbase pcount) s =
       .next (s'.modChain a c fun x => { x with fin := true })) ∧
     ∀ v bytes obj off len slog srv doff, rk < pcount.toNat → i < nent.toNat → man.toNat % 32 = 0 →
       areaFree s' a (1 + c) (man.toNat + 32 * i) 32 = true → vRead s' a (man.toNat + 32 * i) 32 = .ok (v, bytes) →
       manifestEntry (wordsOf 4 bytes) = some (obj, off, len, slog, srv, doff) → obj < 2 ^ 64 → len < 2 ^ 40 →
       len = 0 ∨ srvOn v srv = true →
       let size := 2 ^ slog
       let mine := (List.range (len / size + 1)).filter fun k => decide ((rk + k * pcount.toNat) * size < len)
       let from' (k : Nat) : Nat := (rk + k * pcount.toNat) * size
       let tag (k : Nat) : Nat := v.plinth.nextTag + k
       ∃ t, exec (.cFetch h man dst nent pbase pcount) s = .next t ∧ (t.chain a c).pos = i + 1 ∧
         t.plinth.nextTag = tag mine.length ∧ (t.chain a c).stripes = (v.chain a c).stripes ++ mine.map tag ∧
         t.plinth.stripes = v.plinth.stripes ++ mine.map (fun k =>
           { tag := tag k, tile := a, va := (dst.toNat + doff + k * size) % 2 ^ 64, len := min size (len - from' k) }) ∧
         t.out = v.out ++ mine.map fun k => .objRead srv (leBytes 40 (0x0B1EC7D5 + 0x11 * 2 ^ 32 + tag k % 2 ^ 64 * 2 ^ 64 +
           obj * 2 ^ 128 + (off + from' k) % 2 ^ 64 * 2 ^ 192 + min size (len - from' k) * 2 ^ 256))) ∧
   ∀ (s : State) (tag : Word) (x : Stripe), s.plinth.stripes.find? (fun y => y.tag % 2 ^ 64 == tag.toNat) = some x →
     awaits s x.tile x.tag = true →
     (∀ packet roff bytes st, objReply packet = some (st, tag.toNat, roff, bytes) → st ≠ 0 →
       exec (.objReadReply packet) s = .next (cmdFault (dropStripe s x.tile x.tag) x.tile 0 0x33)) ∧
     exec (.objReadTimeout tag) s = .next (cmdFault (dropStripe s x.tile x.tag) x.tile 0 0x33) ∧
     ∀ packet bytes, objReply packet = some (0, tag.toNat, 0, bytes) → x.got = [] → bytes.length = x.len → 0 < x.len →
       (areaFree s x.tile 7 x.va x.len = false → exec (.objReadReply packet) s = .next (askArea s x.tile 7 x.va x.len)) ∧
       ∀ u w, areaFree s x.tile 7 x.va x.len = true → addPend s x.tile 0 x.len = some u →
         vWrite (forgetAsked (dropStripe u x.tile x.tag) x.tile fun k => k % 8 == 7) x.tile x.va bytes = (w, none) →
         exec (.objReadReply packet) s = .next w) ∧
  (∀ (st : Byte) (tag roff : Word) (bytes : List Byte),
     objReply (leBytes 24 (0x0B1EC7D5 + 0x91 * 2 ^ 32 + st.toNat * 2 ^ 40 + tag.toNat * 2 ^ 64 + roff.toNat * 2 ^ 128) ++ bytes) =
       some (st.toNat, tag.toNat, roff.toNat, bytes)) ∧
  (∀ (s : State) (k : Nat) (w : Word) (tok : Token) (rest : List (Word × Token)),
     let ref := (portOf w.toNat).1
     let m := (portOf w.toNat).2
     let l := s.launch ref.issuer ref.lid
     (s.chain k 0).port = (w, tok) :: rest →
     (∀ c, l.used = true → l.state = .running → s.copy? ref = some c → c.phase ≠ .loading → c.leave = false → portRoom c m = true →
       (s.plinth.parked.any fun p => p.ref == ref && p.mt == m) = false →
       ∃ t n, exec (.portTokenArrival (.engine k)) s = .next t ∧ t.copy? ref = some n ∧
         Tab.get n.fifos m = Tab.get c.fifos m ++ [{ tok with hdr := setFld tok.hdr 14 2 c.slot, src := 0, org := 0 }] ∧
         (t.chain k 0).port = rest ∧ ∀ y, readByte t.mem y = readByte s.mem y) ∧
     (l.used = true → l.state = .queued ∨ (l.state = .running ∧ ∃ c, s.copy? ref = some c ∧ c.leave = true) →
       s.plinth.parked.length < 1048576 →
       ∃ t, exec (.portTokenArrival (.engine k)) s = .next t ∧
         t.plinth.parked = s.plinth.parked ++ [{ ref := ref, mt := m, tok := tok }] ∧ (t.chain k 0).port = rest) ∧
     (l.used = true → l.state = .ended ∨ l.state = .cancelled →
       ∃ t, exec (.portTokenArrival (.engine k)) s = .next t ∧
         (t.launch ref.issuer ref.lid).orphans = min (l.orphans + 1) (2 ^ 32 - 1) ∧ (t.chain k 0).port = rest))

/-- R292, R142, R143: an array command sends one request a cycle, the function of its element correctly rounded into the
format of DST, to the lane of DST's page, where the shared port of its source serves it, and has issued everything after the
last; a result that comes due reaches its leased register, or the sequencer, or waits in its lane for the shared port of its memory tile
(R210), through which it is written and counted off, behind the slot writes of the cycle (R211); where that memory tile is no buffer any
more the command faults MEM_ROLE. The turns meet no error of storage. -/
def Obligations.ExponentCommandsAndResults : Prop :=
  (∀ op ∈ [(ExpFn.exp2, Instr.cVexp2), (.log2, .cVlog2), (.rcp, .cVrcp), (.rsqrt, .cVrsqrt)],
    ∀ (s : State) (h : CHead) (b : CExp) (smt soff dmt doff : Nat), CmdRuns s h → s.strike = 0 →
      let a := s.actor
      let c := s.actorChain
      let s' := begun s
      let i := s'.engine.pos
      let n := b.count.toNat
      let sw := (wideFmt b.sfmt).width / 8
      let dw := (wideFmt b.dfmt).width / 8
      localCheck s' a b.src.toNat (n * sw) sw = .ok (smt, soff) → localCheck s' a b.dst.toNat (n * dw) dw = .ok (dmt, doff) →
      (i < n →
        let x := BitVec.ofNat 64 (leNat (readMt s a smt (soff + i * sw) sw))
        let y := leBytes dw (expFnResult op.1 (wideFmt b.sfmt) (wideFmt b.dfmt) b.rm x).toNat
        ((s.port a smt).serves s.cyc (chainPort c) = true →
          ∃ t, exec (op.2 h b) s = .next t ∧
            (t.lane a (dmt / 4)).chain = (s.lane a (dmt / 4)).chain ++ [.chain dmt (doff + i * dw) y] ∧
            (t.chain a c).pos = i + 1 ∧ (t.chain a c).results = s'.engine.results + 1 ∧ (t.chain a c).next = s.cyc + 1 ∧
            OutsideKept s t a) ∧
        ((s.port a smt).serves s.cyc (chainPort c) = false → exec (op.2 h b) s = .next (askPort s' a smt (chainPort c)))) ∧
      (n ≤ i → exec (op.2 h b) s = .next (s'.modChain a c fun x => { x with fin := true }))) ∧
  ∀ (s : State) (a : Nat) (l : Fin 4),
    (∀ t mt off bytes, (s.lane a l.val).flight = [(t, .chain mt off bytes)] → t ≤ s.cyc →
      ∃ u, exec (.expEngineResult a l) s = .next u ∧ (u.lane a l.val).flight = [] ∧
        (u.lane a l.val).back = (s.lane a l.val).back ++ [(mt, off, bytes)] ∧ OutsideKept s u a) ∧
    (∀ mt off bytes rest, (s.lane a l.val).back = (mt, off, bytes) :: rest →
      let u := writeBack s a l.val
      ((s.roleOf a mt).isBuffer = true → (s.port a mt).serves s.cyc 2 = true →
        (u.lane a l.val).back = rest ∧ u.mem = writeBytes s.mem (mtAddr a mt off) bytes ∧
          (u.chain a 1).results = (s.chain a 1).results - 1) ∧
      ((s.roleOf a mt).isBuffer = true → (s.port a mt).serves s.cyc 2 = false → u = askPort s a mt 2) ∧
      ((s.roleOf a mt).isBuffer = false → (s.chain a 1).run = .started → (s.tile a).sys.posted.length < 32 →
        (u.lane a l.val).back = rest ∧ (u.chain a 1).flt = true ∧ u.mem = s.mem ∧
          ∃ p ∈ (u.tile a).sys.posted, p.trap.cause = 0x1E ∧ p.trap.acause = 0x0C)) ∧
    (∀ t, (s.lane a l.val).flight = [(t, .seq)] → t ≤ s.cyc →
      ∃ u, exec (.expEngineResult a l) s = .next u ∧ (u.lane a l.val).flight = [] ∧
        (u.tile a).seq.engine = (s.tile a).seq.engine - 1) ∧
    ∀ t ref c ce i v iss, (s.lane a l.val).flight = [(t, .slot ref ce (.k i) v iss)] → t ≤ s.cyc → s.copy? ref = some c →
      ∃ u n, exec (.expEngineResult a l) s = .next u ∧ u.copy? ref = some n ∧ Tab.get (n.ce ce).k i = { v := v } ∧
        i ∉ (n.ce ce).lease

/-- R293, R294: a collective command (`allred`, `allgat`, `redsc`, `bcast`) joins the instance of its group that its tile has
come to, counting the bytes its DST receives, and faults COLL_MISMATCH where the group is off; in a group that spans packages it waits
for the arcade (R431), reads its SRC then and tells the other packages; when every participant's command of an
instance has started and they agree, each rank's DST receives its result: the ranks' elements reduced in ascending rank, all of
them or its own part, the ranks' elements one after another, or those of rank 0; commands that disagree, an access that fails or
an address that is not aligned fault in every participant. That they fault with one cause, and once all have started, is the model's
choice (log entry 140). -/
def Obligations.CollectivesJoinAndProceed : Prop :=
  (∀ (s : State) (h : CHead) (b : CColl), CmdRuns s h →
    let a := s.actor
    let c := s.actorChain
    let s' := begun s
    let g := b.gid.toNat
    let k := Tab.get (s.tile a).collCount g
    let joins (i : CHead → CColl → Instr) (type : Nat) : Prop :=
      ((s.group g).en = true → (s.group g).pspan = 0 →
        let n := collSize b.op * collDstLen type b.count.toNat (s.group g).npart
        (s.tile a).mem.sbpend + n < 2 ^ 32 →
        ∃ t, exec (i h b) s = .next t ∧ Tab.get (t.tile a).collCount g = k + 1 ∧
          Tab.get (t.group g).insts k = Tab.get (s.group g).insts k ++ [{ tile := a, type := type, body := b }] ∧
          (t.chain a c).coll = some (g, k) ∧ (t.chain a c).fin = true ∧
          (t.tile a).mem.sbpend = (s.tile a).mem.sbpend - s.engine.pend + n ∧ ∀ y, readByte t.mem y = readByte s.mem y) ∧
      ((s.group g).en = true → (s.group g).pspan ≠ 0 → s.mgmt.arcUp = false → exec (i h b) s = .next s') ∧
      (∀ u v bytes, (s.group g).en = true → (s.group g).pspan ≠ 0 → s.mgmt.arcUp = true →
        addPend s' a c (collSize b.op * collDstLen type b.count.toNat (s.group g).npart) = some u →
        let m : CollMember := { tile := a, type := type, body := b }
        collSource u m (1 + c) (s.group g).npart = .ok (v, bytes) →
        ∃ t, exec (i h b) s = .next t ∧ Tab.get (t.group g).insts k = Tab.get (v.group g).insts k ++ [{ m with src := some bytes }] ∧
          (t.chain a c).coll = some (g, k) ∧ (t.chain a c).fin = true ∧ t.out = (tellGroup v a g (.coll g m bytes)).out) ∧
      ((s.group g).en = false → exec (i h b) s = .next (cmdFault s' a c 0x34))
    joins .cAllred 0x20 ∧ joins .cAllgat 0x21 ∧ joins .cRedsc 0x22 ∧ joins .cBcast 0x23) ∧
  (∀ (s : State) (gid k : Nat) (ms : List CollMember),
    let g := s.group gid
    let past (u : State) : State :=
      (ms.foldl (fun u m => forgetAsked u m.tile fun i => i % 8 == 7) u).modPlinth fun p => { p with cgrp := Tab.modify p.cgrp gid fun x => { x with insts := Tab.drop x.insts k } }
    let heads := ms.map fun m => (m.type, m.body.count.toNat, m.body.op, m.body.rank.toNat)
    g.insts.find? (fun p => p.2.length + 0 == g.npart) = some (k, ms) → membersFree s g.npart ms = true →
    (partsAgree g.npart heads = false → exec (.collInstanceStart gid []) s = .next (faultMembers (past s) 0x34 ms)) ∧
    (partsAgree g.npart heads = true →
      (∀ v ps, localParts g.npart s ms = .ok (v, ps) →
        exec (.collInstanceStart gid []) s = .next (writeMembers gid (ps ++ []) g.npart ms (past v) ms)) ∧
      ∀ v e, e ≠ 0 → localParts g.npart s ms = .error (v, e) →
        exec (.collInstanceStart gid []) s = .next (faultMembers (past v) e ms))) ∧
  (∀ (gid npart : Nat) (ps : List CollPart) (m : CollMember) (s u : State),
    vWrite s m.tile m.body.dst.toNat (collResult ps m.type m.body.op npart m.body.count.toNat m.body.rank.toNat) = (u, none) →
      writeMembers gid ps npart [m] s [m] = u.modChain m.tile 2 fun x => { x with coll := none }) ∧
  ∀ (ps : List CollPart) (op : CollOp) (npart count r i : Nat),
    let e := collSize op
    let got (type j : Nat) : Nat := leNat (((collResult ps type op npart count r).drop (e * j)).take e)
    (i < count → got 0x20 i = collRed ps op npart i % 2 ^ (8 * e) ∧ got 0x22 i = collRed ps op npart (r * count + i) % 2 ^ (8 * e) ∧
      got 0x23 i = collElem ps op 0 i % 2 ^ (8 * e)) ∧
    (∀ q, q < npart → i < count → got 0x21 (q * count + i) = collElem ps op q i % 2 ^ (8 * e)) ∧
    (collResult ps 0x20 op npart count r).length = e * count ∧ (collResult ps 0x21 op npart count r).length = e * (npart * count) ∧
    (0 < npart → collRed ps op (npart + 1) i = collApply op (collRed ps op npart i) (collElem ps op npart i)) ∧
    collRed ps op 1 i = collElem ps op 0 i

/-! ## Rings and KV pages (row 0x9) -/

/-- R305 to R307, R311, R312: in a pool of the own tile `kvref` and `kvpin` raise a set's count, `kvfree` and `kvunpin` lower
it, and a set whose REF and PIN are both 0 goes onto the head of the free list; `kvalloc` takes the set at the head and
`kvcommit` clears the bits of its mask in TMASK; each answers its status, or OK with its payload, and changes no memory
outside the set's status entry. R306, R308, R311, R316: `kvwr` writes its row of K and V to the set's page and sets the
position's bit in VMASK and, when tentative, in TMASK; an operation on another tile's set waits in that tile's KV unit, which
performs its operations one after another and answers the banker that waits; a write that comes to a set of another record or
generation is counted in the record's STALE field; the unit answers another package, whether it has the tile or not. That an operation
of the own tile is performed at issue, before those that wait in its unit (log entry 50), and takes one cycle (log entry 121) is the model's
choice. The turns meet no error of storage. -/
def Obligations.KvSetsAndRows : Prop :=
  (∀ (f : BForm) (s : State), IssuesForm s f → s.strike = 0 →
     let a := s.actor
     let x := (s.tile a).ring
     let r := (srcA s f).toNat
     let set := r % 2 ^ 20
     let counts := [Instr.kvref, Instr.kvfree, Instr.kvpin, Instr.kvunpin, Instr.kvcommit]
     let tells (i : BForm → Instr) (n : Nat) : Prop := exec (i f) s = .next (wrote s s f.dst (BitVec.ofNat 64 n) 1)
     (2 ^ 63 ≤ r → (∀ i ∈ counts, tells i 1) ∧ tells .kvalloc 1) ∧
     (r < 2 ^ 63 → r / 2 ^ 38 % 2 = 0 → r / 2 ^ 20 % 1024 = a → s.tileOk a = true →
       (set ≠ 0 → tells .kvalloc 1) ∧
       (x.poolOn = false → (∀ i ∈ counts, tells i 2) ∧ (set = 0 → tells .kvalloc 2)) ∧
       (x.poolOn = true → set = 0 → x.head = 0xFFFFF → tells .kvalloc 3) ∧
       (x.poolOn = true → x.nset ≤ set → ∀ i ∈ counts, tells i 4) ∧
       (x.poolOn = true → set < x.nset → areaFault s (x.entAddr set) 32 = none →
         let at' := x.entAddr set
         let e := leNat (homeRead s at' 32)
         let left (i : BForm → Instr) (pay e' head : Nat) : Prop :=
           ∃ u, exec (i f) s = .next (wrote s u f.dst (BitVec.ofNat 64 (pay * 2 ^ 8)) 1) ∧ readNat u.mem at' 32 = e' ∧
             (u.tile a).ring.head = head ∧ (∀ y, (y < at' ∨ at' + 32 ≤ y) → readByte u.mem y = readByte s.mem y) ∧
             (u.tile a).bk = s.banker
         let relinked := (x.head % 2 ^ 20) * 2 ^ 34
         (entState e ≠ 1 → tells .kvref 5 ∧ tells .kvfree 5 ∧ tells .kvpin 5 ∧ (entState e ≠ 2 → tells .kvunpin 5)) ∧
         (entState e = 1 →
           (entRef e = 65535 → tells .kvref 0x0B) ∧ (entPin e = 65535 → tells .kvpin 0x0B) ∧
           (entRef e < 65535 → left .kvref (entRef e + 1) (e + 1) x.head) ∧
           (entPin e < 65535 → left .kvpin (entPin e + 1) (e + 2 ^ 16) x.head) ∧
           (entRef e = 0 → tells .kvfree 5) ∧ (entPin e = 0 → tells .kvunpin 5) ∧
           (2 ≤ entRef e → left .kvfree (entRef e - 1) (e - 1) x.head) ∧
           (entRef e = 1 → entPin e ≠ 0 → left .kvfree 0 (e - 1 + 2 ^ 32) x.head) ∧
           (entRef e = 1 → entPin e = 0 → left .kvfree 0 (e - 1 - 2 ^ 32 - entNext e * 2 ^ 34 + relinked) set) ∧
           (1 ≤ entPin e → left .kvunpin (entPin e - 1) (e - 2 ^ 16) x.head) ∧
           (entSlot e = refSlot r → entInc e = refInc r →
             left .kvcommit 0 (e - entTmask e * 2 ^ 192 + (entTmask e &&& (2 ^ 64 - 1 - (srcB s f).toNat)) * 2 ^ 192) x.head) ∧
           (entSlot e ≠ refSlot r ∨ entInc e ≠ refInc r → tells .kvcommit 6)) ∧
         (entState e = 2 →
           (2 ≤ entPin e → left .kvunpin (entPin e - 1) (e - 2 ^ 16) x.head) ∧
           (entPin e = 1 → left .kvunpin 0 (e - 2 ^ 16 - 2 ^ 33 - entNext e * 2 ^ 34 + relinked) set))) ∧
       (x.poolOn = true → set = 0 → x.head ≠ 0xFFFFF → areaFault s (x.entAddr x.head) 32 = none →
         let e := leNat (homeRead s (x.entAddr x.head) 32)
         ∃ u, exec (.kvalloc f) s = .next (wrote s u f.dst (BitVec.ofNat 64 (x.head * 2 ^ 8)) 1) ∧
           (u.tile a).ring.head = entNext e ∧
           let e' := readNat u.mem (x.entAddr x.head) 32
           entRef e' = 1 ∧ entPin e' = 0 ∧ entState e' = 1 ∧ entSlot e' = refSlot r ∧ entInc e' = refInc r ∧ entVmask e' = 0 ∧
             entTmask e' = 0))) ∧
  ((∀ (f : BForm) (s : State) (mt off smt soff : Nat), IssuesForm s f → bankerHeld s s.actor = false → s.strike = 0 →
     let a := s.actor
     let x := (s.tile a).ring
     localCheck s a (srcA s f).toNat 32 8 = .ok (mt, off) → PortFree s mt off 32 true →
     let w (i : Nat) : Nat := leNat (readMt s a mt (off + 8 * i) 8)
     let r := w 0
     let head := w 1 / 2 ^ 12 % 256
     let nk := w 1 / 2 ^ 27 % 256 + 1
     let page := w 1 % 2 ^ 12 * nk + head
     let j := w 1 / 2 ^ 20 % 64
     let rb := x.rowBytes
     let ends (n : Nat) (u : State) : Prop :=
       exec (.kvwr f) s = .next (wrote s u f.dst (BitVec.ofNat 64 n) 1) ∧ (u.tile a).bk = s.banker ∧ (u.tile a).ring = x
     let tells (n : Nat) : Prop := ∃ u, ends n u ∧ u.mem = s.mem
     (w 1 / 2 ^ 35 ≠ 0 ∨ w 2 / 2 ^ 20 ≠ 0 ∨ w 3 ≠ 0 ∨ nk ≤ head ∨ 2 ^ 63 ≤ r → tells 1) ∧
     (w 1 / 2 ^ 35 = 0 → w 2 / 2 ^ 20 = 0 → w 3 = 0 → head < nk → r < 2 ^ 63 → r / 2 ^ 38 % 2 = 0 →
       r / 2 ^ 20 % 1024 = a → s.tileOk a = true → localCheck s a (w 2) (2 * rb) 8 = .ok (smt, soff) →
       localBlocked s a smt soff (2 * rb) true = false →
       (2 ^ x.setl < (page + 1) * 128 * rb → tells 1) ∧
       ((page + 1) * 128 * rb ≤ 2 ^ x.setl → x.poolOn = false → tells 2) ∧
       ((page + 1) * 128 * rb ≤ 2 ^ x.setl → x.poolOn = true → refSet r < x.nset → areaFault s (x.entAddr (refSet r)) 32 = none →
         let at' := x.entAddr (refSet r)
         let e := leNat (homeRead s at' 32)
         let k := x.pageAddr (refSet r) page + j * rb
         let stale := recordAddr (refSlot r) 0x158
         (entState e ≠ 1 ∨ entSlot e ≠ refSlot r ∨ entInc e ≠ refInc r →
           ∃ u, ends 6 u ∧ readNat u.mem stale 4 = min (readNat s.mem stale 4 + 1) (2 ^ 32 - 1) ∧
             ∀ y, (y < stale ∨ stale + 4 ≤ y) → readByte u.mem y = readByte s.mem y) ∧
         (entState e = 1 → entSlot e = refSlot r → entInc e = refInc r →
           (2 ≤ entRef e → tells 7) ∧
           (entRef e < 2 → areaFault s k rb = none → areaFault s (k + 64 * rb) rb = none → at' + 32 ≤ k ∨ k + 65 * rb ≤ at' →
             ∃ u, ends 0 u ∧ readBytes u.mem k rb = (readMt s a smt soff (2 * rb)).take rb ∧
               readBytes u.mem (k + 64 * rb) rb = (readMt s a smt soff (2 * rb)).drop rb ∧
               let e' := readNat u.mem at' 32
               e'.testBit (128 + j) = true ∧ e'.testBit (192 + j) = (w 1).testBit 26 ∧
                 ∀ b, b ≠ 128 + j → b ≠ 192 + j → e'.testBit b = e.testBit b))))) ∧
   (∀ op ∈ [(Instr.kvref, KvOp.ref), (.kvfree, .free), (.kvpin, .pin), (.kvunpin, .unpin)],
     ∀ (f : BForm) (s : State), IssuesForm s f →
       let a := s.actor
       let r := (srcA s f).toNat
       let h := r / 2 ^ 20 % 1024
       r < 2 ^ 63 → r / 2 ^ 38 % 2 = 0 → h ≠ a → s.tileOk h = true → (s.tile a).mem.sbpend < 2 ^ 32 →
       ∃ t, exec (op.1 f) s = .next t ∧
         Injected s t a s.mgmt.arcNum h 1 false (.kv { op := op.2 (r % 2 ^ 20), from' := some a }) ∧
         (t.tile a).bk = { s.banker with stall := .reply f.dst false 0 none, answer := none } ∧
         ∀ y, readByte t.mem y = readByte s.mem y) ∧
   (∀ (s : State) (x : RSlot) (m : RingMsg) (op : KvMsg), s.net.msg? x.msg = some m → m.load = .kv op →
     ((deliverMsg s x).tile x.tile).ring.kvq = (s.tile x.tile).ring.kvq ++ [op]) ∧
   ∀ (s : State) (t : Nat) (ecc : Bool),
     (∀ m rest k, (s.tile t).ring.kvq = m :: rest → m.from' = some k →
       let s' := s.modRing t fun x => { x with kvq := rest }
       let answered (u : State) (l : List Nat) : State := u.modBk k fun b => { b with answer := some l }
       (∀ u st pay, kvLocal s' t ecc false m.op = .ok (u, st, pay) →
         exec (.kvUnitOperation t none ecc) s = .next (answered u [if st = 0 then pay * 2 ^ 8 else st])) ∧
       ∀ c va, kvLocal s' t ecc false m.op = .error (c, va) → c ≠ 0x14 →
         exec (.kvUnitOperation t none ecc) s = .next (answered s' [c, va])) ∧
     ((s.tile t).ring.kvq = [] → exec (.kvUnitOperation t none ecc) s = .next s) ∧
     ∀ p r, (∀ u st pay, s.tileOk t = true → kvPerform s t ecc false (remoteOp r).2 = .ok (u, st, pay) →
         exec (.kvUnitOperation t (some (p, r)) ecc) s = .next (sendArc u t false p (.kvAnswer st (if st = 0 then pay else 0)))) ∧
       (s.tileOk t = false → exec (.kvUnitOperation t (some (p, r)) ecc) s = .next (plinthArc s p (.kvAnswer 0x0E 0))))

/-- R309, R310, R315: `shset` exchanges a doubleword at package scope once the banker's own accesses are over; `shget` finds
the entry of a position by the table's sink pages and width and answers where it lies, or UNMAPPED, EVICTED or GEN_AHEAD by its
generation; both of its loads are acquires at package scope, which read the home where no cache holds the line. Each access waits for
its translation and its port (R210, R234). That the answer takes one cycle is the model's choice (log entry 121). -/
def Obligations.ShardTablesNameTheHomeOfAPosition : Prop :=
  (∀ (f : BForm) (s : State), IssuesForm s f → bankerHeld s s.actor = false → s.strike = 0 →
    let a := s.actor
    let x := (srcA s f).toNat
    x < 2 ^ 56 → x % 8 = 0 →
    (areaFree s a 0 x 8 = false → exec (.shset f) s = .next (askArea s a 0 x 8)) ∧
    ∀ (v : State) (e : Tlb), areaFree s a 0 x 8 = true → xlatNow s a x = .ok (v, e) → e.w = true → homeFault s (e.map x) = none →
    (outstanding (s.tile a).mem .banker ≠ [] → exec (.shset f) s = .next s) ∧
    (outstanding (s.tile a).mem .banker = [] → (s.tile a).mem.lines = [] → (s.wall (s.wallOf a)).lines = [] →
      ∃ u, exec (.shset f) s = .next (wrote s u f.dst (BitVec.ofNat 64 (readNat s.mem (e.map x) 8)) 1) ∧
        readNat u.mem (e.map x) 8 = (srcB s f).toNat ∧
        ∀ y, (y < e.map x ∨ e.map x + 8 ≤ y) → readByte u.mem y = readByte s.mem y)) ∧
  (∀ (s : State) (a x n : Nat), s.strike = 0 → x < 2 ^ 56 →
    (areaFree s a 0 x n = false → acquireRead s a x n = .error (askArea s a 0 x n, 0)) ∧
    ∀ (v : State) (e : Tlb), areaFree s a 0 x n = true → xlatNow s a x = .ok (v, e) → homeFault s (e.map x) = none →
      (blockedBy s a .banker (s.tile a).mem.nextId [(e.map x, n)] (some .package) = true → acquireRead s a x n = .error (s, 0)) ∧
      (blockedBy s a .banker (s.tile a).mem.nextId [(e.map x, n)] (some .package) = false → (v.tile a).mem.lines = [] →
        (v.wall (v.wallOf a)).lines = [] →
        ∃ u, acquireRead s a x n = .ok (u, homeRead v (e.map x) n) ∧ u.mem = v.mem)) ∧
  ∀ (f : BForm) (s : State), IssuesForm s f → bankerHeld s s.actor = false →
    let a := s.actor
    let x := (srcA s f).toNat
    let p := (srcB s f).toNat
    (x % 64 ≠ 0 ∨ 2 ^ 40 ≤ p → exec (.shget f) s = .next (wrote s s f.dst 1 1)) ∧
    (x % 64 = 0 → p < 2 ^ 40 → ∀ v, acquireRead s a x 64 = .error (v, 0) → exec (.shget f) s = .next v) ∧
    (∀ v bytes, x % 64 = 0 → p < 2 ^ 40 → acquireRead s a x 64 = .ok (v, bytes) →
      let word (i : Nat) : Nat := (wordsOf 8 bytes).getD i 0
      let nsink := word 0 % 8
      let width := 64 * (word 1 % 2 ^ 26 + 1)
      let q := p - 64 * nsink
      let off := if p < 64 * nsink then 0x440 + 8 * (p / 64) else 0x460 + 8 * (q % width / 64)
      let gen := if p < 64 * nsink then 0 else q / width % 2 ^ 16
      let j := if p < 64 * nsink then p % 64 else q % width % 64
      (badShard (wordsOf 8 bytes) = true →
        exec (.shget f) s = .next (wrote s (acquirePoint v a .banker) f.dst 1 1)) ∧
      (∀ u, badShard (wordsOf 8 bytes) = false → acquireRead v a (x + off) 8 = .error (u, 0) →
        exec (.shget f) s = .next (askArea s a 0 (x + off) 8)) ∧
      (∀ u ent, badShard (wordsOf 8 bytes) = false → acquireRead v a (x + off) 8 = .ok (u, ent) →
        let e := leNat ent
        let behind := (gen + 2 ^ 16 - e / 2 ^ 48 % 2 ^ 16) % 2 ^ 16
        let tells (n : Nat) : Prop := exec (.shget f) s = .next (wrote s (acquirePoint u a .banker) f.dst (BitVec.ofNat 64 n) 1)
        (e % 2 = 0 → tells 9) ∧
        (e % 2 = 1 → behind = 0 → tells (e / 2 ^ 10 % 2 ^ 20 * 2 ^ 8 + e / 2 ^ 30 % 2 ^ 10 * 2 ^ 28 + e / 2 ^ 40 % 2 ^ 8 * 2 ^ 38 +
          j * 2 ^ 46)) ∧
        (e % 2 = 1 → 2 ^ 15 ≤ behind → tells 0x0A) ∧ (e % 2 = 1 → 0 < behind → behind < 2 ^ 15 → tells 8)))

/-- R299, R301, R313, R314, R317: `qform` writes a new token of its header, itinerary and scaled queries, m at minus infinity
and l and acc at 0, and holds the banker; `qinj` puts the token at A into its stop's injection queue, addressed to its next
itinerary entry, or discards and counts it where no tile is there; `ringst` reads, writes and clears an entry of the match table. The
latencies of one cycle and the 2 + ceil(size / 64) cycles that `qform` and `qinj` hold the banker are the model's choice (log entry 121).
The banker's shared port serves it, and the turns meet no error of storage. -/
def Obligations.TokensAreFormedAndInjected : Prop :=
  ∀ (f : BForm) (s : State), IssuesForm s f → bankerHeld s s.actor = false → s.strike = 0 →
    let a := s.actor
    let x := (srcA s f).toNat
    let y := (srcB s f).toNat
    (∀ mt off imt ioff qmt qoff bmt boff, localCheck s a x 32 8 = .ok (mt, off) → PortFree s mt off 32 true →
      let head := readMt s a mt off 32
      let h := leNat (head.take 16)
      let pos0 := leNat ((head.drop 16).take 8)
      let w := leNat ((head.drop 24).take 8)
      let n := 4 * tokRows h * tokDim h
      let itin := readMt s a imt ioff (4 * tokNit h)
      let tok := newToken h pos0 (!w.testBit 40) itin (readMt s a qmt qoff n)
      let home := mtAddr a bmt boff
      tokCheck h pos0 (tokItix h == 0 && decide (w / 2 ^ 41 = 0)) = 0 →
      localCheck s a (w / 2 ^ 20 % 2 ^ 20) (4 * tokNit h) 4 = .ok (imt, ioff) → itinBad itin (tokNit h) = false →
      localCheck s a (w % 2 ^ 20) n 4 = .ok (qmt, qoff) → localCheck s a y (tokSize h) 8 = .ok (bmt, boff) →
      localBlocked s a imt ioff (4 * tokNit h) true = false → localBlocked s a qmt qoff n true = false →
      localBlocked s a bmt boff (tokSize h) false = false →
      ∃ u, exec (.qform f) s = .next (wrote s u f.dst (BitVec.ofNat 64 (tokSize h * 2 ^ 8)) 1) ∧
        readBytes u.mem home tok.length = tok ∧
        (∀ z, (z < home ∨ home + tok.length ≤ z) → readByte u.mem z = readByte s.mem z) ∧
        tok.take 32 = leBytes 16 h ++ leBytes 8 pos0 ++ leBytes 8 0 ∧
        (u.tile a).bk.nextIssue = max s.banker.nextIssue (s.cyc + 2 + (tokSize h + 63) / 64)) ∧
    (∀ mt off, localCheck s a x 32 8 = .ok (mt, off) → PortFree s mt off 32 true →
      let head := readMt s a mt off 32
      let h := leNat (head.take 16)
      let tok := readMt s a mt off (tokSize h)
      let e := leNat ((tok.drop (0x20 + 4 * tokItix h)).take 4)
      tokCheck h (leNat ((head.drop 16).take 8)) (decide (tokItix h ≤ tokNit h)) = 0 →
      localCheck s a x (tokSize h) 8 = .ok (mt, off) → localBlocked s a mt off (tokSize h) true = false →
      itinBad (tok.drop 0x20) (tokNit h) = false → tokItix h < tokNit h → hdrOf tok = h →
      let n := (tok.length + 255) / 256
      ∃ u, exec (.qinj f) s = .next (wrote s u f.dst (BitVec.ofNat 64 (n * 2 ^ 8)) 1) ∧
        OutsideKept { s with net := u.net } u a ∧
        (u.tile a).bk.nextIssue = max s.banker.nextIssue (s.cyc + 2 + (tokSize h + 63) / 64) ∧
        (e / 2 ^ 10 % 2 ^ 8 = s.mgmt.arcNum → s.tileOk (e % 2 ^ 10) = true →
          Injected s u a s.mgmt.arcNum (e % 2 ^ 10) n true (.query tok) ∧ (u.tile a).ring = (s.tile a).ring) ∧
        (e / 2 ^ 10 % 2 ^ 8 = s.mgmt.arcNum → s.tileOk (e % 2 ^ 10) = false →
          u.net = s.net ∧ (u.tile a).ring = { (s.tile a).ring with qdrop := min ((s.tile a).ring.qdrop + 1) 65535 })) ∧
    (x / 256 % 4 = 3 → ∀ i ∈ [Instr.ringstRead, .ringstWrite, .ringstClear],
      exec (i f) s = .next (wrote s s f.dst 1 1)) ∧
    (x / 256 % 4 ≠ 3 →
      let i := x % 256
      let old := Tab.get (s.tile a).ring.entries i
      let entry (v : Nat) : State := s.modRing a fun r => { r with entries := Tab.set r.entries i v }
      exec (.ringstClear f) s = .next (wrote s (entry (old - (if old.testBit 63 then 2 ^ 63 else 0))) f.dst 0 1) ∧
      ∀ mt off, localCheck s a y 16 8 = .ok (mt, off) →
        let home := mtAddr a mt off
        let v := leNat (readMt s a mt off 16)
        (PortFree s mt off 16 true →
          (v / 2 ^ 84 = 0 → v / 2 ^ 48 % 2 ^ 15 = 0 → ∃ u, exec (.ringstWrite f) s = .next (wrote s u f.dst 0 1) ∧
            (u.tile a).ring = ((entry v).tile a).ring ∧ OutsideKept s u a ∧ (u.tile a).bk = s.banker) ∧
          (v / 2 ^ 84 ≠ 0 ∨ v / 2 ^ 48 % 2 ^ 15 ≠ 0 → ∃ u, exec (.ringstWrite f) s = .next (wrote s u f.dst 1 1) ∧
            (u.tile a).ring = (s.tile a).ring ∧ OutsideKept s u a ∧ (u.tile a).bk = s.banker)) ∧
        (PortFree s mt off 16 false →
          ∃ u, exec (.ringstRead f) s = .next (wrote s u f.dst 0 1) ∧ readNat u.mem home 16 = old % 2 ^ 128 ∧
            ∀ z, (z < home ∨ home + 16 ≤ z) → readByte u.mem z = readByte s.mem z))

/-- R296 to R298, R302 to R304, R319: the match unit of the tile that a token is addressed to decides when the token's first slot
comes to its stop: it discards a token with a bad header, takes one at its return tile or one that an entry matches into the query
FIFO, where there is room, and signals the sequencer once the last slot is written, and sends any other on to its next tile; a
token that finds no room goes round. A stop that 64 occupied slots have passed splices: its slot takes the place of the one that
arrives, which waits in the bypass latch and is served before any other; the stop of a retired tile forwards every slot and inserts none
(R18); nothing is inserted that must cross, there or further on, at a point that raises full (log entry 141). A query token from another
package for a tile that is not assigned here is answered, so that its sender counts it (log entry 141). -/
def Obligations.TheMatchUnitExaminesTokens : Prop :=
  (∀ (s : State) (t : Nat) (y : RSlot) (m : RingMsg) (bytes : List Byte),
    let x := (s.tile t).ring
    let r := physOf s.hw t / 16
    let p := physOf s.hw t % 16
    let h := hdrOf bytes
    let n := (bytes.length + 63) / 64
    let sem := (s.tile t).seq.ascfg.toNat / 2 ^ 16 % 256
    let run (u : State) : Prop := exec (.matchUnitExamine (.stop t)) s = .next u
    t ∈ s.net.exams → s.net.slot r 0 p = some y → y.msg ≠ 0 → y.k = 0 → 0 < y.n → y.tile = t → s.net.msg? y.msg = some m →
    m.load = .query bytes → (∀ q ∈ x.fifo, q.msg ≠ y.msg) →
    let kept (q : QTok) : Prop := ∃ u, run u ∧
      (u.tile t).ring.fifo = x.fifo ++ [{ q with start := x.next, size := bytes.length, msg := if y.n = 1 then 0 else y.msg }] ∧
      (u.tile t).ring.used = x.used + n ∧ (u.tile t).ring.next = (x.next + n) % 1024 ∧ u.net.slot r 0 p = none ∧
      (y.n = 1 → Raised s u t sem 1) ∧ (1 < y.n → u.due = s.due) ∧
      let part := bytes.take 256
      (x.next * 64 + part.length ≤ 65536 → readBytes u.mem (mtAddr t (x.rscfg.toNat % 16) (x.next * 64)) part.length = part)
    (tokBad h = true → ∃ u, run u ∧ (u.tile t).ring = { x with qdrop := min (x.qdrop + 1) 65535 } ∧ u.net.slot r 0 p = none ∧
      ∀ z, readByte u.mem z = readByte s.mem z) ∧
    (tokBad h = false → x.used + n ≤ 1024 → tokItix h = tokNit h → kept { ret := true }) ∧
    (∀ i, tokBad h = false → x.used + n ≤ 1024 → tokItix h ≠ tokNit h → x.rscfg.toNat.testBit 63 = true →
      matchEntry x h = some i →
      let e := Tab.get x.entries i
      kept { ret := false, e := i, list := e / 2 ^ 64 % 2 ^ 20, lfirst := e / 2 ^ 24 % 2 ^ 12, lcm1 := e / 2 ^ 36 % 2 ^ 12 }) ∧
    (tokBad h = false → 1024 < x.used + n → tokItix h = tokNit h →
      ∃ u, run u ∧ u.net.slot r 0 p = some y ∧ (u.tile t).ring = x ∧ ∀ z, readByte u.mem z = readByte s.mem z) ∧
    (tokBad h = false → tokItix h ≠ tokNit h → x.rscfg.toNat.testBit 63 = false ∨ matchEntry x h = none →
      let next := leBytes 16 (setFld h 44 9 (tokItix h + 1)) ++ bytes.drop 16
      let dest := tokDest next
      let skipped := { x with qskip := min (x.qskip + 1) 65535 }
      (noTarget s dest.1 dest.2 = false → ¬ (dest.1 = s.mgmt.arcNum ∧ dest.2 = t) →
        ∃ u, run u ∧ (u.tile t).ring = skipped ∧ u.net.slot r 0 p = some { y with pkg := dest.1, tile := dest.2 } ∧
          (u.net.msg? y.msg).map (·.load) = some (.query next) ∧ ∀ z, readByte u.mem z = readByte s.mem z) ∧
      (noTarget s dest.1 dest.2 = true →
        ∃ u, run u ∧ (u.tile t).ring = { skipped with qdrop := min (x.qdrop + 1) 65535 } ∧ u.net.slot r 0 p = none))) ∧
  (∀ (s : State) (r d p : Nat) (y : RSlot) (m : RingMsg) (bytes : List Byte) (q : QTok), 0 < y.k → y.query = true →
    s.net.msg? y.msg = some m → m.load = .query bytes → m.wayAt y.tile = some .taken →
    (s.tile y.tile).ring.fifo.find? (·.msg == y.msg) = some q →
    let u := arriveTile s r d p y
    let off := (q.start * 64 + 256 * y.k) % 65536
    let part := (bytes.drop (256 * y.k)).take 256
    u.net.slot r d p = none ∧ (y.n ≤ y.k + 1 → Raised s u y.tile ((s.tile y.tile).seq.ascfg.toNat / 2 ^ 16 % 256) 1) ∧
      (off + part.length ≤ 65536 →
        readBytes u.mem (mtAddr y.tile ((s.tile y.tile).ring.rscfg.toNat % 16) off) part.length = part)) ∧
  (∀ (s : State) (stop : Nat) (dir : RingDir),
    let r := stop / 17
    let p := stop % 17
    let d := if dir = .cw then 0 else 1
    (spliceDue s r d p = false → exec (.ringSplice stop dir) s = .next s) ∧
    (spliceDue s r d p = true →
      64 ≤ (s.net.stop r d p).pass ∧ (s.net.stop r d p).latch = none ∧
      ∃ u x, exec (.ringSplice stop dir) s = .next u ∧ u.net.slot r d p = some x ∧
        (u.net.stop r d p).latch = s.net.slot r d p ∧ (u.net.stop r d p).pass = 0 ∧
        (x.msg ≠ 0 → x ∈ (s.net.stop r d p).queue ∧ x ∉ (u.net.stop r d p).queue) ∧
        ∀ y, readByte u.mem y = readByte s.mem y)) ∧
  (∀ (s : State) (r d p : Nat), passThrough s r p = true → serveStop s r d p = s ∧ spliceDue s r d p = false) ∧
  (∀ (s : State) (r d p : Nat) (l : RSlot), passThrough s r p = false → (s.net.stop r d p).latch = some l →
    (s.net.stop r d p).spliced ≠ s.cyc + 1 →
    (serveStop s r d p).net.slot r d p = some l ∧ ((serveStop s r d p).net.stop r d p).latch = s.net.slot r d p ∧
      ((serveStop s r d p).net.stop r d p).queue = (s.net.stop r d p).queue) ∧
  (∀ (s : State) (r d p : Nat) (x : RSlot), readySlot s r d p = some x →
    crossFull s r x = false ∧ x ∈ (s.net.stop r d p).queue ∧ (x.pkg ≠ s.mgmt.arcNum → s.mgmt.arcUp = true)) ∧
  ∀ (s : State) (pkg stop t : Nat) (bytes : List Byte),
    (s.tileOk t = false → exec (.matchUnitExamine (.arcade pkg stop t bytes)) s = .next (plinthArc s pkg (.dropped stop))) ∧
    (s.tileOk t = true → raisesFull (s.net.links.filter fun l => l.wall == 4 && !l.sent).length = true →
      exec (.matchUnitExamine (.arcade pkg stop t bytes)) s = .next s) ∧
    exec (.matchUnitExamine (.dropped stop)) s = .next (s.modRing stop fun x => { x with qdrop := min (x.qdrop + 1) 65535 })

/-! ## The attention sequencer (row 0xA and M-space) -/

/-- R320, R321, R326: `asld` stores microwords of an idle sequencer, `asgo` gives it a0 and its entry and it starts two cycles
later at ENTRY, `asstat` answers ASSTAT as it stood and clears a fault or stops, between two microwords; a waiting sequencer whose
test passes receives the value and goes on. That BAD_ARG comes before BUSY (log entry 113) and that a waiting `mwait` leaves the pc on it
(log entry 101) is the model's choice. -/
def Obligations.SequencerIsLoadedStartedAndStopped : Prop :=
  (∀ (f : BForm) (s : State), IssuesForm s f → s.strike = 0 →
    let a := s.actor
    let q := s.sequencer
    let x := (srcA s f).toNat
    let y := (srcB s f).toNat
    let cs := y % 2 ^ 10
    let n := y / 2 ^ 10 % 2 ^ 11
    let legal := y < 2 ^ 21 ∧ 0 < n ∧ n ≤ 1024 ∧ cs + n ≤ 1024
    let payload := BitVec.ofNat 64 ((q.st + q.pc * 2 ^ 16 + q.cause * 2 ^ 32 + q.acause * 2 ^ 48) % 2 ^ 40 * 2 ^ 8)
    (bankerHeld s a = false →
      (¬ legal → exec (.asld f) s = .next (wrote s s f.dst 1 1)) ∧
      (legal → q.st ≠ 0 → exec (.asld f) s = .next (wrote s s f.dst 2 1)) ∧
      (∀ mt off, legal → q.st = 0 → localCheck s a x (4 * n) 4 = .ok (mt, off) → PortFree s mt off (4 * n) true →
        ∃ u, exec (.asld f) s = .next (wrote s u f.dst 0 1) ∧
          (∀ i < n, Tab.get (u.tile a).seq.store (cs + i) = leNat (readMt s a mt (off + 4 * i) 4)) ∧
          (∀ i, (i < cs ∨ cs + n ≤ i) → Tab.get (u.tile a).seq.store i = Tab.get q.store i) ∧
          (u.tile a).bk.nextIssue = max s.banker.nextIssue (s.cyc + (2 + (n + 1) / 2)) ∧ OutsideKept s u a)) ∧
    (1024 ≤ x → exec (.asgo f) s = .next (wrote s s f.dst 1 2)) ∧
    (x < 1024 → q.st ≠ 0 → exec (.asgo f) s = .next (wrote s s f.dst 2 2)) ∧
    (x < 1024 → q.st = 0 → exec (.asgo f) s = .next (wrote s
      (schedule ((s.modSeq a fun k => { k with a := Tab.set k.a 0 { v := srcB s f } }).modSeq a fun k =>
        { k with entry := x, starting := true }) (s.cyc + 2) (.sequencerStart a)) f.dst 0 2)) ∧
    (x = 3 ∨ 4 ≤ x → ∀ i ∈ [Instr.asstatRead, .asstatClear, .asstatStop], exec (i f) s = .next (wrote s s f.dst 1 2)) ∧
    (x < 3 →
      exec (.asstatRead f) s = .next (wrote s s f.dst payload 2) ∧
      (q.st ≠ 3 → exec (.asstatClear f) s = .next (wrote s s f.dst payload 2)) ∧
      (q.st ≠ 1 → q.st ≠ 2 → exec (.asstatStop f) s = .next (wrote s s f.dst payload 2)) ∧
      (q.st = 1 → s.cyc < q.nextIssue ∨ q.engine ≠ 0 ∨ q.mid ≠ .none →
        exec (.asstatStop f) s = .next (wrote s (s.modSeq a fun k => { k with stopReq := true }) f.dst payload 2)) ∧
      (PageReleasable s → ∃ v, unpinPage s a = .ok v ∧
        let idle := v.modSeq a fun k => { k with st := 0, cause := 0, acause := 0, stopReq := false }
        (q.st = 3 → exec (.asstatClear f) s = .next (wrote s idle f.dst payload 2)) ∧
        (q.st = 2 ∨ (q.st = 1 ∧ q.nextIssue ≤ s.cyc ∧ q.engine = 0 ∧ q.mid = .none) →
          exec (.asstatStop f) s = .next (wrote s idle f.dst payload 2))))) ∧
  ∀ (s : State) (t : Nat),
    let q := (s.tile t).seq
    (q.starting = true → q.st = 0 → ∃ u, exec (.sequencerStart t) s = .next u ∧ OutsideKept s u t ∧
      (u.tile t).seq = { q with starting := false, st := 1, pc := q.entry, nextIssue := s.cyc }) ∧
    (q.starting = false ∨ q.st ≠ 0 → ∃ u, exec (.sequencerStart t) s = .next u ∧ OutsideKept s u t ∧ (u.tile t).seq = q) ∧
    (q.st ≠ 2 ∨ s.semOf t q.mwSem < q.mwThr → exec (.mwaitPass t) s = .next s) ∧
    (q.st = 2 → q.mwThr ≤ s.semOf t q.mwSem → exec (.mwaitPass t) s = .next
      ((if q.mwTake then addDue s { at' := s.cyc + 1, act := .semTake t q.mwSem q.mwThr } else s).modSeq t fun k =>
        { k with st := 1, pc := (k.pc + 1) % 1024, a := Tab.set k.a q.mwDst { v := BitVec.ofNat 64 (s.semOf t q.mwSem) },
                 nextIssue := s.cyc + 1 }))

/-- R325, R326, and spec/02_words.md R68 and R70: the plain microwords compute modulo 2^64, branch, wait, signal and halt, one
cycle each; a poisoned source spreads to the destination of a plain one and faults a branch, a wait or a signal with AS_FAULT;
an unassigned microword writes poison that names its place. `mhalt` reaches the page record through the work tile's shared port (R210).
That a waiting `mwait` leaves the pc on it is the model's choice (log entry 101). -/
def Obligations.MicrowordsComputeBranchAndWait : Prop :=
  ∀ s : State, SeqIssues s →
    let a := s.actor
    let q := s.sequencer
    let v (i : Fin 16) : Word := (Tab.get q.a i.val).v
    let clean (i : Fin 16) : Prop := (Tab.get q.a i.val).poison = false
    let writes (i : Instr) (d : Fin 16) (x : Word) : Prop := exec i s = .next (microDone s s (some (d, x)) (behind s) 1)
    let goes (i : Instr) (pc : Nat) : Prop := exec i s = .next (microDone s s none pc 1)
    goes .mNop (behind s) ∧
    (∀ d x, clean x → writes (.mMov d x) d (v x)) ∧
    (∀ d x y, clean x → clean y → writes (.mAdd d x y) d (v x + v y) ∧ writes (.mSub d x y) d (v x - v y)) ∧
    (∀ d x imm, clean x → writes (.mAddImm d x imm) d (v x + imm.signExtend 64) ∧
      writes (.mSubImm d x imm) d (v x - imm.signExtend 64)) ∧
    (∀ d (imm : BitVec 22), writes (.mLi d imm) d (imm.signExtend 64)) ∧
    (∀ x n, clean x → goes (.mBz x n) (if v x = 0 then n.toNat else behind s) ∧
      goes (.mBnz x n) (if v x = 0 then behind s else n.toNat)) ∧
    (∀ n, goes (.mJmp n) n.toNat) ∧
    (∀ d n, clean d → exec (.mLoop d n) s =
      .next (microDone s s (some (d, v d - 1)) (if v d = 1 then behind s else n.toNat) 1)) ∧
    (∀ take d x sem, clean x →
      let thr := ((v x).setWidth 32).toNat
      (thr ≤ s.semOf a sem.toNat → exec (.mWait take d x sem) s = .next (microDone s
        (if take then addDue s { at' := s.cyc + 1, act := .semTake a sem.toNat thr } else s)
        (some (d, BitVec.ofNat 64 (s.semOf a sem.toNat))) (behind s) 1)) ∧
      (s.semOf a sem.toNat < thr → exec (.mWait take d x sem) s = .next (s.modSeq a fun k =>
        { k with st := 2, mwSem := sem.toNat, mwThr := thr, mwTake := take, mwDst := d.val }))) ∧
    (∀ x sem, clean x →
      exec (.mSig x sem) s = .next (microDone s (addDue s
        { at' := s.cyc + 1, phase := 1, iss := s.cyc, act := .semAdd a sem.toNat ((v x).setWidth 32).toNat }) none (behind s) 1)) ∧
    (seqCfgOk s a = true → s.strike = 0 → (s.port a (s.wmt a)).serves s.cyc 3 = false →
      exec .mHalt s = .next (askPort s a (s.wmt a) 3)) ∧
    (seqCfgOk s a = true → s.strike = 0 → (s.port a (s.wmt a)).serves s.cyc 3 = true → PageReleasable s →
      ∃ u, unpinPage (usePort s a (s.wmt a) 3 1) a = .ok u ∧ exec .mHalt s = .next (microDone s (u.modSeq a fun k => { k with st := 0, cause := 0, acause := 0, stopReq := false })
        none (behind s) 1)) ∧
    (seqCfgOk s a = false → exec .mHalt s = .next (seqFault s a 7 0)) ∧
    (∀ d x, ¬ clean x → exec (.mMov d x) s =
      .next (s.modSeq a fun k => { k with a := Tab.set k.a d.val (Tab.get q.a x.val), pc := behind s, nextIssue := s.cyc + 1 })) ∧
    (∀ x n, ¬ clean x →
      let faulted := seqFault s a 1 0
      exec (.mBz x n) s = .next faulted ∧ exec (.mBnz x n) s = .next faulted ∧ exec (.mLoop x n) s = .next faulted ∧
        (∀ sem, exec (.mSig x sem) s = .next faulted) ∧ (∀ take d sem, exec (.mWait take d x sem) s = .next faulted) ∧
        (faulted.tile a).seq.st = 3 ∧ (faulted.tile a).seq.cause = 1) ∧
    ∀ w : Word32, exec (.mPoisonWord w) s = .next (s.modSeq a fun k =>
      { k with a := Tab.set k.a (w.extractLsb' 22 4).toNat { v := originM a q.pc, poison := true }, pc := behind s,
               nextIssue := s.cyc + 1 })

/-- R328, R329: `pgnext` moves on to the current token's next list entry and answers whether there is one; `pgload` pins the
set of that entry, places its page, which it streams where it lies elsewhere, once the copy engine and the port of PMT are free (R210),
and finds for each row the positions that are valid and not later than the row; that the set of a page that waits is pinned already,
while the old page stays current until the stream begins, is the model's choice (log entry 142). R330 to R332: the five page steps run in their order on the current page.
`score` writes the score of every valid position and row, `bmax` the row's new maximum, `rescale` scales l and acc by the factor of
the raised maximum, `expp` turns scores into weights, and `accpv` adds the weights to l and the weighted values to acc. -/
def Obligations.PagesAreFoundAndFolded : Prop :=
  (∀ (s : State) (k : QTok) (d : Fin 16), SeqIssues s → AtToken s k [k.list / 2 ^ 16 % 16] →
     let a := s.actor
     let s' := onPorts s [k.list / 2 ^ 16 % 16]
     let h := hdrOf (tokenAt s k)
     (PageReleasable s → ∃ v, unpinPage s' a = .ok v ∧ curPage v a = false ∧
       (k.ret = true → exec (.pgnext d) s = .next (microDone s v (some (d, 2)) (behind s) 3)) ∧
       (∀ mt off, k.ret = false → localCheck s a k.list 8 8 = .ok (mt, off) →
         let n := leNat (readMt v a mt off 8) % 2 ^ 16
         let li := if k.li = none then 0 else (listIndex v a + 1) % 2 ^ 16
         ∃ u, exec (.pgnext d) s = .next (microDone s u (some (d, if n ≤ li then 0 else 1)) (behind s) 3) ∧
           listIndex u a = li ∧ (u.tile a).ring.fifo = { k with li := some li } :: (s.tile a).ring.fifo.tail)) ∧
     (s.sequencer.mid = .none → k.ret = true ∨ k.li = none → exec (.pgload d) s = .next (seqFault s' a 3 0)) ∧
     ∀ mt off mt' off', s.sequencer.mid = .none → localCheck s a k.list 8 8 = .ok (mt, off) → k.ret = false → k.li ≠ none →
       let hd := leNat (readMt s a mt off 8)
       let li := listIndex s a
       let en := leNat (readMt s a mt' off' 8)
       let set := en % 2 ^ 20
       let x := (s.tile a).ring
       let pos0 := numAt (tokenAt s k) 0x10 8 % 2 ^ 40
       li < hd % 2 ^ 16 → localCheck s a (k.list + 8 + 8 * li) 8 8 = .ok (mt', off') →
       h / 2 ^ 36 % 2 ^ 8 ≤ hd / 2 ^ 45 % 2 ^ 8 → (kvFormat s a (tokDim h)).isSome = true → PageReleasable s → EntryReached s set →
       ∃ w v st p, unpinPage s' a = .ok w ∧ kvLocal w a false false (.pin set) = .ok (v, st, p) ∧
         (st ≠ 0 → exec (.pgload d) s = .next (microDone s v (some (d, 1)) (behind s) 4)) ∧
         (st = 0 → pageBase hd en pos0 (tokNpos h) = none → h / 2 ^ 71 % 2 ^ 8 = s.mgmt.arcNum →
           ∃ u, exec (.pgload d) s = .next (microDone s u (some (d, 2)) (behind s) 4) ∧
             u.plinth.recq = s.plinth.recq ++ [{ op := .fault (h % 2 ^ 24) 2 }]) ∧
         ∀ base, st = 0 → pageBase hd en pos0 (tokNpos h) = some base → tokRows h ≤ 64 →
           let pa := x.pageAddr set ((h / 2 ^ 24 % 2 ^ 12 - k.lfirst) * (hd / 2 ^ 45 % 2 ^ 8 + 1) + h / 2 ^ 36 % 2 ^ 8)
           let e := leNat (homeRead v (x.entAddr set) 32)
           let placed (la n : Nat) : Prop :=
             ∃ u, exec (.pgload d) s = .next (microDone s u (some (d, 0)) (behind s) (4 + n)) ∧ curPage u a = true ∧
               pageStep u a = 0 ∧ workNat u a 0x4408 8 = la % 2 ^ 64 ∧ workNat u a 0x4400 8 % 2 ^ 20 = set ∧
               ∀ r < tokRows h, ∀ j < 64,
                 (valOf u a r).testBit j = ((entVmask e).testBit j && decide (base + j ≤ pos0 + r % tokNpos h))
           (∀ la, ownPage v a pa = some la → placed la 0) ∧
           (ownPage v a pa = none → physFault v pa (128 * x.rowBytes) = none →
             (∀ y bytes, (v.chain a 0).run = .idle → (v.port a (s.pmt a)).serves s.cyc 1 = true → physRead a (x.rowBytes + 2) v pa (128 * x.rowBytes) = .ok (y, bytes) →
               placed (s.pmt a * 65536) (2 * x.rowBytes)) ∧
             ((v.chain a 0).run ≠ .idle ∨ (v.port a (s.pmt a)).serves s.cyc 1 = false →
               ∀ z p', kvLocal s' a false false (.pin set) = .ok (z, 0, p') → ∃ vals, exec (.pgload d) s =
                 .next ((askPort z a (s.pmt a) 1).modSeq a fun q => { q with mid := .page set pa vals })))) ∧
  (∀ (s : State) (d : Fin 16) (set pa : Nat) (vals : List Byte), SeqIssues s → s.sequencer.mid = .page set pa vals →
     let a := s.actor
     let rb := (s.tile a).ring.rowBytes
     let begins := (s.chain a 0).run = .idle ∧ (s.port a (s.pmt a)).serves s.cyc 1 = true ∧ (s.port a (s.wmt a)).serves s.cyc 3 = true
     let s' := usePort s a (s.wmt a) 3 1
     (¬ begins → exec (.pgload d) s = .next (askPort (askPort s a (s.pmt a) 1) a (s.wmt a) 3)) ∧
     ∀ w, begins → unpinPage s' a = .ok w →
       (∀ y bytes, physRead a (rb + 2) w pa (128 * rb) = .ok (y, bytes) →
         ∃ u, exec (.pgload d) s = .next (microDone s u (some (d, 0)) (behind s) (4 + 2 * rb)) ∧ curPage u a = true ∧
           pageStep u a = 0 ∧ (u.chain a 0).next = s.cyc + 2 * rb ∧ workNat u a 0x4408 8 = s.pmt a * 65536 % 2 ^ 64) ∧
       ∀ f z st p, physRead a (rb + 2) w pa (128 * rb) = .error f →
         kvLocal ((kvReport s' f).modSeq a fun q => { q with mid := .none }) a false true (.unpin set) = .ok (z, st, p) →
         exec (.pgload d) s = .next (seqFault z a 5 f.1)) ∧
  ∀ (s : State) (k : QTok) (more : List Nat), SeqIssues s → AtToken s k more → PageReady s k →
     let a := s.actor
     let s' := onPorts s more
     let h := hdrOf (tokenAt s k)
     let nr := tokRows h
     let dim := tokDim h
     let row (r : Nat) : AttRow := attRow h (tokenAt s k) r
     nr ≤ 64 → k.start < 1024 → k.size ≤ 65536 →
     (more = pageMore s a k →
       (pageStep s a ≠ 0 → exec .score s = .next (seqFault s' a 3 0)) ∧ (pageStep s a ≠ 4 → exec .accpv s = .next (seqFault s' a 3 0)) ∧
       (pageStep s a = 0 → ∃ u f rows, exec .score s = .next (microDone s u none (behind s) (4 + nr * ((dim + 15) / 16))) ∧
         pageStep u a = 1 ∧ kvFormat s a dim = some f ∧ pageRows s a 0 (usedPositions s a nr) = .ok rows ∧
         ∀ r < nr, ∀ p ∈ rows, (valOf s a r).testBit p.1 = true →
           let x := dotScore (queryVals h (tokenAt s k) r) (rowElems f dim p.2) (rowScale f p.2)
           workNat u a (4 * (64 * r + p.1)) 4 = f32Fmt.round .rne x % 2 ^ 32 ∧ (valOf u a r).testBit p.1 = !x.isNan) ∧
       (pageStep s a = 4 → ∃ u f rows, exec .accpv s = .next (microDone s u none (behind s) (6 + nr * ((dim + 15) / 16))) ∧
         pageStep u a = 5 ∧ kvFormat s a dim = some f ∧ pageRows s a 64 (usedPositions s a nr) = .ok rows ∧
         let value (j c : Nat) : FVal := match rows.find? (fun p => p.1 == j) with
           | some p => ((rowValues f dim p.2).getD c .nan)
           | none => .nan
         let has (j : Nat) : Bool := rows.any fun p => p.1 == j
         let new := mapRows h (tokenAt s k) fun r x =>
           { x with
             l := f32Rne (FVal.add .rne x.l (treeSum ((List.range 64).map (scOf s a r))))
             acc := (x.acc.zip (List.range dim)).map fun y => f32Rne (FVal.add .rne y.1 (treeSum ((List.range 64).map fun j =>
               if (valOf s a r).testBit j && has j then f32Rne ((scOf s a r j).mul (value j y.2)) else .zero false))) }
         u.mem = (setPageWord (putToken s a k new) a 16 3 5).mem)) ∧
     (more = [] →
       (pageStep s a ≠ 1 → exec .bmax s = .next (seqFault s' a 3 0)) ∧ (pageStep s a ≠ 2 → exec .rescale s = .next (seqFault s' a 3 0)) ∧
       (pageStep s a ≠ 3 → exec .expp s = .next (seqFault s' a 3 0)) ∧
       (pageStep s a = 1 → ∃ u, exec .bmax s = .next (microDone s u none (behind s) (2 + nr)) ∧ pageStep u a = 2 ∧ ∀ r < nr,
         let best := ((List.range 64).filter fun j => (valOf s a r).testBit j).foldl (fun b j => fmaxVal b (scOf s a r j)) (.inf true)
         workNat u a (0x4000 + 4 * r) 4 = f32Fmt.round .rne (fmaxVal (row r).m best) % 2 ^ 32) ∧
       (pageStep s a = 2 → ∃ u, exec .rescale s = .next (microDone s u none (behind s) (4 + nr * ((dim + 63) / 64))) ∧
         let new := mapRows h (tokenAt s k) fun r x =>
           let up := (alphaOf x.m (mnOf s a r)).1
           { m := mnOf s a r, l := f32Rne (up.mul x.l), acc := x.acc.map fun y => f32Rne (up.mul y) }
         u.mem = (setPageWord (putToken s a k new) a 16 3 3).mem ∧
         (u.tile a).seq.engine = ((List.range nr).filter fun r => (alphaOf (row r).m (mnOf s a r)).2).length) ∧
       (pageStep s a = 3 → ∃ u, exec .expp s = .next (microDone s u none (behind s) 4) ∧ pageStep u a = 4 ∧ ∀ r < nr, ∀ j < 64,
         let w := weightOf ((valOf s a r).testBit j) (scOf s a r j) (row r).m
         workNat u a (4 * (64 * r + j)) 4 = f32Fmt.round .rne w.1 % 2 ^ 32)) ∧
     ∀ m m' : FVal, ((alphaOf .nan m).2 = true) ∧ (m = .inf true → alphaOf m m' = (.zero false, false)) ∧
       (m ≠ .inf true → feq m m' = true → alphaOf m m' = (.fin false 1 1 0, false)) ∧
       (∀ sc, weightOf false sc m = (.zero false, false)) ∧ weightOf true (.inf true) m = (.zero false, false)

/-- R334 to R337: `fold` pins its set, adds its valid, settled positions of a mask one after another to a rubble block, whose bytes
count in TILE.SBPEND until they are acknowledged, then unpins the set and answers their number, each position once translation and port
are there; that it reads its masks when it pins the set, that the bytes are acknowledged by the next turn, and that it checks no CFG is the
model's choice (log entry 143). `rubmrg` merges a block once, `fwd`
sends the current token to its next itinerary entry, and `fin` writes the rows' outputs acc / l, or reports a poisoned token's
request. -/
def Obligations.TokensAreFoldedForwardedAndFinished : Prop :=
  (∀ s : State, SeqIssues s → s.strike = 0 →
    let a := s.actor
    ∀ (d x : Fin 16), (Tab.get s.sequencer.a x.val).poison = false →
      (∀ (mt off : Nat), s.sequencer.mid = .none → localCheck s a (Tab.get s.sequencer.a x.val).v.toNat 32 8 = .ok (mt, off) →
        (s.port a mt).serves s.cyc 3 = true →
        let u := usePort s a mt 3 1
        let w (i : Nat) : Nat := leNat (readMt s a mt (off + 8 * i) 8)
        let set := w 0 % 2 ^ 20
        let dim := w 1 / 2 ^ 20 % 2 ^ 8 + 1
        let head := w 1 / 2 ^ 12 % 2 ^ 8
        let nk := w 1 / 2 ^ 28 % 2 ^ 8 + 1
        let ring := (s.tile a).ring
        (kvFormat s a dim).isSome = true → w 0 < 2 ^ 63 → refFar (w 0) = false → refTile (w 0) = a → w 1 < 2 ^ 36 → head < nk →
        EntryReached s set →
        ∃ v st p, kvLocal u a false false (.pin set) = .ok (v, st, p) ∧
          (st ≠ 0 → exec (.fold d x) s = .next (microDone s v (some (d, 0)) (behind s) 4)) ∧
          (st = 0 →
            let e := leNat (homeRead v (ring.entAddr set) 32)
            let js := (List.range 64).filter fun j => (w 2).testBit j && (entVmask e).testBit j && !(entTmask e).testBit j
            exec (.fold d x) s = .next (v.modSeq a fun q =>
              { q with mid := .fold set (ring.pageAddr set (w 1 % 2 ^ 12 * nk + head)) (w 3) dim js 0 0 }))) ∧
      ∀ (set pa rub dim n pend : Nat) (left : List Nat), s.sequencer.mid = .fold set pa rub dim left n pend →
        let acked := (s.modMem a fun m => { m with sbpend := m.sbpend - pend }).modSeq a fun q =>
          { q with mid := .fold set pa rub dim left n 0 }
        (left = [] → EntryReached s set →
          ∃ u st p, kvLocal (acked.modSeq a fun q => { q with mid := .none }) a false true (.unpin set) = .ok (u, st, p) ∧
            exec (.fold d x) s = .next (microDone s u (some (d, BitVec.ofNat 64 n)) (behind s) 4)) ∧
        ∀ j rest f u k v z, left = j :: rest → (s.tile a).mem.sbpend - pend + (4 * dim + 4 * dim * dim + 8) < 2 ^ 32 →
          let n' := 0x40 + 4 * dim + 4 * dim * dim
          (areaFree acked a 5 rub n' = false → exec (.fold d x) s = .next (askArea acked a 5 rub n')) ∧
          (areaFree acked a 5 rub n' = true → kvFormat s a dim = some f →
          foldRowsAt acked a pa j = .ok (u, k, v) → foldPos u a rub dim (rowValues f dim k) (rowValues f dim v) = (z, none) →
          ∃ t, exec (.fold d x) s = .next t ∧ t.mem = z.mem ∧
            (t.tile a).mem.sbpend = (z.tile a).mem.sbpend + (4 * dim + 4 * dim * dim + 8) ∧
            (t.tile a).seq = { s.sequencer with mid := .fold set pa rub dim rest (n + 1) (4 * dim + 4 * dim * dim + 8) })) ∧
  ∀ (s : State) (k : QTok), SeqIssues s →
    let a := s.actor
    let bytes := tokenAt s k
    let h := hdrOf bytes
    let nr := tokRows h
    (AtToken s k [] →
      let s' := onPorts s []
      let merged (b : List Byte) : List Byte := leBytes 16 (setFld h 100 1 1) ++ b.drop 16
      (∀ d, h.testBit 100 = true → exec (.rubmrg d) s = .next (microDone s s' (some (d, 0)) (behind s) 4)) ∧
      (∀ d, h.testBit 100 = false → k.ret = true ∨ workNat s a (0x4800 + 8 * k.e) 8 = 0 →
        exec (.rubmrg d) s = .next (microDone s (putToken s' a k (merged bytes)) (some (d, 0)) (behind s) 4)) ∧
      (∀ d u, h.testBit 100 = false →
        (k.ret = false → workNat s a (0x4800 + 8 * k.e) 8 ≠ 0 → findBlock s' a k h = .error (u, 0) → exec (.rubmrg d) s = .next u) ∧
        (findBlock s' a k h = .ok (u, none) →
          exec (.rubmrg d) s = .next (microDone s (putToken u a k (merged bytes)) (some (d, 0)) (behind s) 4)) ∧
        ∀ blk, findBlock s' a k h = .ok (u, some blk) →
          exec (.rubmrg d) s = .next (microDone s (putToken u a k (merged (mapRows h bytes (mergeRubble h bytes blk))))
            (some (d, 1)) (behind s) 4)) ∧
      (tokItix h = tokNit h → exec .fwd s = .next (seqFault s' a 6 0)) ∧
      (tokItix h ≠ tokNit h → PageReleasable s → ∃ v, unpinPage s' a = .ok v ∧
        exec .fwd s = .next (microDone s
          (forwardTok (dropToken v a) a (leBytes 16 (setFld h 44 9 (tokItix h + 1)) ++ bytes.drop 16)) none (behind s)
          (2 + k.size / 64)))) ∧
    ∀ x : Fin 16, (Tab.get s.sequencer.a x.val).poison = false →
      let out := (Tab.get s.sequencer.a x.val).v.toNat
      let n := 2 + nr * ((tokDim h + 15) / 16)
      AtToken s k [out / 2 ^ 16 % 16] →
      let s' := onPorts s [out / 2 ^ 16 % 16]
      (k.ret = false → exec (.fin x) s = .next (seqFault s' a 6 0)) ∧
      (k.ret = true → h.testBit 98 = true → h.testBit 99 = true → h / 2 ^ 71 % 2 ^ 8 = s.mgmt.arcNum →
        ∃ u, exec (.fin x) s = .next (microDone s u none (behind s) n) ∧
          u.plinth.recq = s.plinth.recq ++ [{ op := .fault (h % 2 ^ 24) 1 }] ∧
          (u.tile a).ring.fifo = (s.tile a).ring.fifo.tail) ∧
      ∀ mt off, k.ret = true → (h.testBit 98 && h.testBit 99) = false → localCheck s a out (4 * nr * tokDim h) 4 = .ok (mt, off) →
        ∃ u, exec (.fin x) s = .next (microDone s u none (behind s) n) ∧
          (u.tile a).ring.fifo = (s.tile a).ring.fifo.tail ∧
          ∀ r < nr, ∀ c < tokDim h,
            let row := attRow h bytes r
            readNat u.mem (mtAddr a mt off + 4 * (r * tokDim h + c)) 4 = f32Fmt.round .rne
              (if h.testBit 98 then .nan else if row.l.isZero then .zero false else f32Rne (FVal.div (row.acc.getD c .nan) row.l)) %
                2 ^ 32

/-! ## Requests, sampling and text (rows 0xB to 0xD) -/

/-- R342, R354, and spec/16_sampling.md R367, R369, R371: an operation on a request record goes to the record store, where it
queues behind those that have arrived, and the banker waits for the answer; one that writes first waits for the banker's own
accesses; operands of another form answer BAD_ARG, and a commit outside the keystone wall 4. R339, R340, R342 to R344, R354,
and spec/16_sampling.md R369 and R371: the record store performs its operations in the order of arrival and answers the banker
that waits. A reference to a record in another incarnation or to a free or retired one is refused, and a refused write
counted; `rqwr` changes the bits of its word that software may write and no others; a commit of one decode token moves CPOS,
OUTW and the token ring; `rngblk` waits for the port of its
memory tile, writes the sampling descriptor and reserves draws. An operation that only reads is an acquire when its answer comes (R342).
The latency 1, and that a cancel of a retired record answers STATE (log entry 145), are the model's choice. -/
def Obligations.RequestOperations : Prop :=
  (∀ (f : BForm) (s : State), IssuesForm s f → bankerHeld s s.actor = false → s.strike = 0 →
     let a := s.actor
     let x := (srcA s f).toNat
     let y := (srcB s f).toNat
     let sent (u : State) (op : RecOp) : State :=
       (u.modPlinth fun p => { p with recq := p.recq ++ [{ op := op, from' := some a }] }).modBk a fun k =>
         { k with stall := .reply f.dst false 0 none, answer := none }
     let reads (u : State) (op : RecOp) : State := (sent u op).modBk a fun k => { k with stall := .record f.dst }
     let settled := outstanding (s.tile a).mem .banker = []
     let asks (i : BForm → Instr) (ok : Prop) (release : Bool) (op : RecOp) : Prop :=
       (2 ^ 24 ≤ x ∨ ¬ ok → exec (i f) s = .next (wrote s s f.dst 1 1)) ∧
       (x < 2 ^ 24 → ok → release = true → ¬ settled → exec (i f) s = .next s) ∧
       (x < 2 ^ 24 → ok → release = false → exec (i f) s = .next (reads s op)) ∧
       (x < 2 ^ 24 → ok → release = true → settled → exec (i f) s = .next (sent s op))
     asks .rqrd (y < 2 ^ 8) false (.read x y) ∧
     asks .rqwr (y / 2 ^ 8 % 2 ^ 24 = 0) true (.write x (y % 2 ^ 8) (y / 2 ^ 32)) ∧
     asks .rqfault (1 ≤ y ∧ y ≤ 31) true (.fault x y) ∧
     asks .rqstateRead (y < 3) false (.state x) ∧ asks .rqstateCancel (y < 3) true (.cancel x) ∧
     asks .rqstateFaults (y < 3) false (.faults x) ∧
     asks .rqspill True true (.spill x) ∧ asks .rqrecall True true (.recall x) ∧
     (x % 64 ≠ 0 ∨ 2 ^ 13 ≤ y → exec (.rqadmit f) s = .next (wrote s s f.dst 1 1)) ∧
     (x % 64 = 0 → y < 2 ^ 13 → ¬ settled → exec (.rqadmit f) s = .next s) ∧
     (x % 64 = 0 → y < 2 ^ 13 → settled →
       let va := x / 128 * 128
       let lines := 8 + x % 128 / 64
       (areaFree s a 0 va (128 * lines) = false → exec (.rqadmit f) s = .next (askArea s a 0 va (128 * lines))) ∧
       (areaFree s a 0 va (128 * lines) = true →
         (∀ v w, acquireLines a lines s va = .error (v, 0, w) → exec (.rqadmit f) s = .next (askArea s a 0 w 128)) ∧
         (∀ v c w, acquireLines a lines s va = .error (v, c, w) → c ≠ 0 → s.banker.hasPending s.cyc = false → s.banker.emul = none →
           exec (.rqadmit f) s = .next (enterTrap v a { cause := c, info := BitVec.ofNat 64 (max w x) } s.banker.pc)) ∧
         ∀ v img, acquireLines a lines s va = .ok (v, img) →
           exec (.rqadmit f) s = .next (sent (acquirePoint v a .banker)
             (.admitImg ((img.drop (x % 128)).take 1024) (y % 2 ^ 12) (y.testBit 12))))) ∧
     (2 ^ 24 ≤ x ∨ 2 ^ 62 ≤ y → exec (.rngblk f) s = .next (wrote s s f.dst 1 1)) ∧
     (∀ at', x < 2 ^ 24 → y < 2 ^ 62 → localCheck s a (y % 2 ^ 20) 64 64 = .ok at' →
       (settled → exec (.rngblk f) s = .next (sent s (.rngblk x (y / 2 ^ 20 % 2 ^ 41) (y.testBit 61) (y % 2 ^ 20)))) ∧
       (¬ settled → exec (.rngblk f) s = .next s)) ∧
     (∀ mt off, VerdictHead s (srcA s f) mt off → BadVerdict s mt off →
       ∃ u, exec (.scommit f) s = .next (wrote s u f.dst 1 1) ∧ u.mem = s.mem ∧ (u.tile a).bk = s.banker) ∧
     ∀ v, VerdictAt s (srcA s f) v →
       (isKeystone s a v.slot = false →
         ∃ u, exec (.scommit f) s = .next (wrote s u f.dst 4 1) ∧ u.mem = s.mem ∧ (u.tile a).bk = s.banker) ∧
       (isKeystone s a v.slot = true → settled → ∃ u, exec (.scommit f) s =
         .next (sent u (.commit v.slot v.inc v.kind v.first v.n v.nacc v.y)) ∧ u.mem = s.mem ∧ (u.tile a).bk = s.banker ∧
           u.plinth = s.plinth) ∧
       (isKeystone s a v.slot = true → ¬ settled → ∃ u, exec (.scommit f) s = .next u ∧ u.mem = s.mem ∧ (u.tile a).bk = s.banker)) ∧
  (∀ (s : State) (t : Nat) (remote : Word) (d : BDst) (v : Nat), (s.tile t).bk.stall = .record d → (s.tile t).bk.answer = some [v] →
     exec (.replyArrival t remote) s =
       .next (unstall ((acquirePoint s t .banker).modBk t fun b => { b with answer := none }) t d v)) ∧
  (∀ (s : State) (m : RecMsg) (rest : List RecMsg) (t ref : Nat),
     s.plinth.recq = m :: rest → m.from' = some t → s.tileOk t = true →
     let k := ref % 2 ^ 12
     let live := rqInc s k = ref / 2 ^ 12 % 2 ^ 12 ∧ rqState s k ≠ 0 ∧ rqState s k ≠ 6
     let answers (u : State) (v : Nat) : Prop :=
       exec .recordStoreOperation s = .next (u.modBk t fun b => { b with answer := some [v] })
     let taken := s.modPlinth fun p => { p with recq := rest }
     let onlyIn (u : State) (lo n : Nat) : Prop := ∀ z, (z < recordAddr k lo ∨ recordAddr k lo + n ≤ z) →
       readByte u.mem z = readByte s.mem z
     (∀ i, m.op = .read ref i → (live → answers taken (rqNat s k (4 * i) 4 * 2 ^ 8)) ∧ (¬ live → answers taken 2)) ∧
     (m.op = .state ref → (live → answers taken (rqFld s k 0 0 32 * 2 ^ 8)) ∧ (¬ live → answers taken 2)) ∧
     (m.op = .faults ref → (live → answers taken (rqFld s k 0x150 0 37 * 2 ^ 8)) ∧ (¬ live → answers taken 2)) ∧
     (∀ i v, m.op = .write ref i v →
       (live → ∃ u, answers u 0 ∧ onlyIn u (4 * i) 4 ∧ u.plinth.recq = rest ∧
         let old := rqNat s k (4 * i) 4
         let new := rqNat u k (4 * i) 4
         ∀ b < 32, new.testBit b = if i = 0 ∧ b = 10 then old.testBit b && v.testBit b
           else if (rwMask i).testBit b then v.testBit b else old.testBit b) ∧
       (¬ live → ∃ u, answers u 2 ∧ onlyIn u 0x158 4 ∧
         rqNat u k 0x158 4 = min (rqNat s k 0x158 4 + 1) (2 ^ 32 - 1))) ∧
     (m.op = .cancel ref → rqInc s k = ref / 2 ^ 12 % 2 ^ 12 → rqState s k = 6 → ∃ u, answers u 3 ∧ onlyIn u 0x158 4) ∧
     (m.op = .cancel ref → live →
       (4 ≤ rqState s k → answers taken 3) ∧
       (rqState s k < 4 → ∃ u, answers u 0 ∧ onlyIn u 0 8 ∧
         ∀ b, b ≠ 15 → (rqNat u k 0 8).testBit b = (rqNat s k 0 8).testBit b ∧ (rqNat u k 0 8).testBit 15 = true)) ∧
     (∀ y first, m.op = .commit k (ref / 2 ^ 12) 1 first 1 1 [y] → ref < 2 ^ 24 → live → rqState s k = 3 → rqPend s k = true →
       rqCpos s k = first → y ≤ s.vsm1 → (∀ i < 8, rqNat s k (0x40 + 4 * i) 4 % 2 ^ 18 ≠ y) →
       (rqFld s k 0x20 0 32 + 1) % 2 ^ 32 ≠ rqFld s k 0x20 32 32 →
       ∃ u, answers u (2 ^ 8 + 3 * 2 ^ 24) ∧ rqCpos u k = (first + 1) % 2 ^ 40 ∧ rqPend u k = false ∧ rqState u k = 3 ∧
         rqNat u k (0x210 + 4 * (rqOutw s k % 64)) 4 = y ∧ rqOutw u k = (rqOutw s k + 1) % 2 ^ 32 ∧
         rqFld u k 0x20 0 32 = (rqFld s k 0x20 0 32 + 1) % 2 ^ 32) ∧
     (∀ y first, m.op = .commit k (ref / 2 ^ 12) 1 first 1 1 [y] → ref < 2 ^ 24 → live →
       rqState s k ≠ 3 → rqState s k ≠ 2 → answers taken 3) ∧
     ∀ p dst, p < 2 ^ 40 → live →
       let home := mtAddr t (dst / 2 ^ 16 % 2 ^ 4) (dst % 2 ^ 16)
       let draw := rqFld s k 0x38 32 32
       let mt := dst / 2 ^ 16 % 2 ^ 4
       let ready := (s.roleOf t mt).isBuffer = true → (s.port t mt).serves s.cyc 4 = true
       (∀ rsv, m.op = .rngblk ref p rsv dst → ¬ ready → exec .recordStoreOperation s = .next (askPort s t mt 4)) ∧
       (∀ rsv, m.op = .rngblk ref p rsv dst → (s.roleOf t mt).isBuffer = true → ready → (rsv = true → draw ≤ 2 ^ 32 - 16401) →
         ∃ u, exec .recordStoreOperation s = .next u ∧ u.port t mt = (usePort s t mt 4 8).port t mt) ∧
       ((s.roleOf t mt).isBuffer = true → ready → m.op = .rngblk ref p false dst → ∃ u, answers u 0 ∧ readBytes u.mem home 64 = descBytes s k p 0 false ∧
         ∀ z, (z < home ∨ home + 64 ≤ z) → readByte u.mem z = readByte s.mem z) ∧
       ((s.roleOf t mt).isBuffer = true → ready → m.op = .rngblk ref p true dst → draw ≤ 2 ^ 32 - 16401 →
         ∃ u, answers u (draw * 2 ^ 8) ∧ readBytes u.mem home 64 = descBytes s k p draw true ∧ rqFld u k 0x38 32 32 = draw + 16) ∧
       ((s.roleOf t mt).isBuffer = true → ready → m.op = .rngblk ref p true dst → 2 ^ 32 - 16401 < draw →
         ∃ u, answers u 6 ∧ rqFld u k 0x38 32 32 = 2 ^ 32 - 1))

/-- R346, R347, R349, R353, R355: `mfcnt` gives a cursor at entry 0 of a pass still kept, `mfnext` moves it on, and `mfget`
reads the entry's double words and tokens, a bad cursor taking MF_BAD, whose INFO, the cursor, is the model's choice (log entry 114); `bstep` forms a pass, publishes its manifest and
advances PASS, or faults where the batch former is off. R370: `sacpt` finds the longest prefix of drafts that agree with the
samples, writes NACC, one more than it, to the verdict block and answers it. -/
def Obligations.ManifestsAndVerdicts : Prop :=
  ((∀ (f : BForm) (s : State), IssuesForm s f → s.strike = 0 →
     let a := s.actor
     let x := (srcA s f).toNat
     let k := (srcB s f).toNat
     let pass := s.bf.pass
     let tells (i : BForm → Instr) (n : Nat) : Prop := exec (i f) s = .next (wrote s s f.dst (BitVec.ofNat 64 n) 1)
     (bankerHeld s a = false →
       (2 ^ 33 ≤ x → tells .mfcnt 1) ∧
       (x < 2 ^ 33 →
         let p := if x.testBit 32 then pass - 1 else x % 2 ^ 32
         (pass ≤ p ∨ p + 128 < pass → tells .mfcnt 7) ∧
         ∀ v b, p < pass → pass ≤ p + 128 → ReadsNow s (s.bf.buffer p) 16 →
           perfLoadAs s a .package true (s.bf.buffer p) 16 false = (v, b) →
           exec (.mfcnt f) s = .next (wrote s (acquirePoint v a .banker) f.dst (BitVec.ofNat 64
             (leNat b / 2 ^ 64 % 2 ^ 13 * 2 ^ 45 + p % 2 ^ 16 * 2 ^ 16 + leNat b / 2 ^ 32 % 2 ^ 6 * 2 ^ 8)) 1))) ∧
     (x / 2 ^ 32 % 2 ^ 13 + 1 < x / 2 ^ 45 % 2 ^ 13 → tells .mfnext (x + 2 ^ 32)) ∧
     (x / 2 ^ 45 % 2 ^ 13 ≤ x / 2 ^ 32 % 2 ^ 13 + 1 → tells .mfnext 6) ∧
     (bankerHeld s a = false →
       let entry := x / 2 ^ 32 % 2 ^ 13
       let good := x < 2 ^ 58 ∧ x / 2 ^ 14 % 4 = 0 ∧ x % 2 ^ 8 = 0 ∧ entry < x / 2 ^ 45 % 2 ^ 13 ∧ k < 2 ^ 16
       let bad := exec (.mfget f) s = .next (enterTrap s a { cause := 0x0A, info := srcA s f } s.banker.pc)
       (¬ good → s.banker.hasPending s.cyc = false → s.banker.emul = none → bad) ∧
       ∀ v h, good →
         let buf := s.bf.buffer (x / 2 ^ 16 % 2 ^ 16)
         ReadsNow s buf 8 → perfLoad s a .package buf 8 false = (v, h) →
         (leNat h % 2 ^ 16 ≠ x / 2 ^ 16 % 2 ^ 16 → s.banker.hasPending s.cyc = false → s.banker.emul = none → bad) ∧
         ∀ w e, leNat h % 2 ^ 16 = x / 2 ^ 16 % 2 ^ 16 → ReadsNow v (buf + 0x100 + 16 * entry) 16 →
           perfLoad v a .package (buf + 0x100 + 16 * entry) 16 false = (w, e) →
           let n := leNat e / 2 ^ 104 % 2 ^ 15
           (k < 2 → exec (.mfget f) s = .next (wrote s w f.dst (BitVec.ofNat 64 (leNat e / 2 ^ (64 * k) % 2 ^ 64)) 1)) ∧
           (2 ≤ k → n ≤ k - 2 → exec (.mfget f) s = .next (wrote s w f.dst (BitVec.allOnes 64) 1)) ∧
           ∀ z y, 2 ≤ k → k - 2 < n →
             let at' := buf + 0x10100 + 4 * (leNat e / 2 ^ 32 % 2 ^ 32 + (k - 2))
             ReadsNow w at' 4 → perfLoad w a .package at' 4 false = (z, y) →
             exec (.mfget f) s = .next (wrote s z f.dst (BitVec.ofNat 64 (leNat y)) 1))) ∧
   ∀ (s : State) (h : CHead) (lane : BitVec 6) (auto : Bool), CmdRuns s h →
     let a := s.actor
     let c := s.actorChain
     let s' := begun s
     (s.engine.run ≠ .started → s.bf.stages ≤ lane.toNat →
       exec (.cBstep h lane auto) s = .next (chainFault s a c 0x1D 0)) ∧
     (s.engine.run = .started ∨ lane.toNat < s.bf.stages →
       (s.bf.en = false → exec (.cBstep h lane auto) s = .next (cmdFault s' a c 0x35)) ∧
       (s.bf.en = true → s'.engine.pos = 0 → passWaits s' a = true → exec (.cBstep h lane auto) s = .next s') ∧
       (s.bf.en = true → (s'.engine.pos = 0 → passWaits s' a = false) →
         let v := if s'.engine.pos = 0 then (passBegin s' a).modChain a c fun x => { x with pos := 1 } else s'
         (passHeld v = true → exec (.cBstep h lane auto) s = .next v) ∧
         ∀ w, passHeld v = false → passEnd v a (passLane v lane.toNat auto) = .ok w →
           exec (.cBstep h lane auto) s = .next (w.modChain a c fun x => { x with fin := true }) ∧
           w.bf.pass = (v.bf.pass + 1) % 2 ^ 32 ∧
           readNat w.mem (v.bf.buffer v.bf.pass) 8 = (v.bf.pass + passLane v lane.toNat auto * 2 ^ 32) % 2 ^ 64))) ∧
  (∀ (f : BForm) (s : State), IssuesForm s f → bankerHeld s s.actor = false → s.strike = 0 →
     let a := s.actor
     (∀ mt off, VerdictHead s (srcA s f) mt off → BadVerdict s mt off →
       ∃ u, exec (.sacpt f) s = .next (wrote s u f.dst 1 1) ∧ u.mem = s.mem ∧ (u.tile a).bk = s.banker) ∧
     ∀ v, VerdictAt s (srcA s f) v → localBlocked s a v.mt (v.off + 16) 8 false = false →
       ∃ m u, exec (.sacpt f) s = .next (wrote s u f.dst (BitVec.ofNat 64 ((m + 1) * 2 ^ 8)) (2 + (v.n + 1) / 2)) ∧
         readNat u.mem (mtAddr a v.mt (v.off + 16)) 8 = (m + 1) % 2 ^ 64 ∧
         (∀ z, (z < mtAddr a v.mt (v.off + 16) ∨ mtAddr a v.mt (v.off + 16) + 8 ≤ z) → readByte u.mem z = readByte s.mem z) ∧
         (u.tile a).bk.nextIssue = max s.banker.nextIssue (s.cyc + (2 + (v.n + 1) / 2)) ∧
         (v.kind = 0 → m = 0) ∧
         (v.kind ≠ 0 → (∀ i < m, ∃ d, v.t[i + 1]? = some d ∧ v.y[i]? = some d) ∧
           ∀ d e, v.t[m + 1]? = some d → v.y[m]? = some e → d ≠ e))

/-- R377, R388, R389: `vocld` makes an image that passes its checks resident, or removes one that nothing names; `qrgo` starts
an idle Quarry on its ports and `qrstop` stops it; `stgo` starts a Setter, `qrstat` and `ststat` answer their states;
`stclose` asks the record store to close a request. The model's choice is: that `vocld` operation 0 wants B[15:8] zero (log entry 120), the
order in which the statuses are tested (log entry 113), and the latency 2, since R388 says only that a load stalls until it is done. -/
def Obligations.VocabulariesAndTextEnginesAreManaged : Prop :=
  (∀ (f : BForm) (s : State), IssuesForm s f → bankerHeld s s.actor = false →
    let a := s.actor
    let x := (srcA s f).toNat
    let y := (srcB s f).toNat
    let settled := outstanding (s.tile a).mem .banker = []
    let tells (i : BForm → Instr) (n : Nat) : Prop := exec (i f) s = .next (wrote s s f.dst (BitVec.ofNat 64 n) 2)
    (y % 2 ^ 8 ≠ 0 ∨ 2 ^ 16 ≤ y → tells .vocldLoad 1) ∧
    (y % 2 ^ 8 = 0 → y < 2 ^ 16 → ¬ settled → exec (.vocldLoad f) s = .next s) ∧
    (y % 2 ^ 8 = 0 → y < 2 ^ 16 → settled → areaFree s a 0 x 0x80 = false → exec (.vocldLoad f) s = .next (askArea s a 0 x 0x80)) ∧
    (∀ v st o, y % 2 ^ 8 = 0 → y < 2 ^ 16 → settled → areaFree s a 0 x 0x80 = true → loadVocab s a x = (v, st, o) →
      let answers (u : State) (n : Nat) : Prop := exec (.vocldLoad f) s = .next (wrote s u f.dst (BitVec.ofNat 64 n) 2)
      (o = none → answers v st) ∧
      ∀ voc, o = some voc →
        (st ≠ 0 → answers v st) ∧
        (st = 0 → (v.vocab? voc.vid).isSome = true → answers v 5) ∧
        (st = 0 → v.vocab? voc.vid = none → v.plinth.vocabs.length = 16 ∨ 2 ^ 27 < vocabBytes v + voc.bytes.length → answers v 6) ∧
        (st = 0 → v.vocab? voc.vid = none → v.plinth.vocabs.length ≠ 16 → vocabBytes v + voc.bytes.length ≤ 2 ^ 27 →
          answers (v.modPlinth fun p => { p with vocabs := p.vocabs ++ [voc] }) (voc.vid * 2 ^ 8 + voc.ntok * 2 ^ 16))) ∧
    (y % 2 ^ 8 ≠ 1 ∨ 2 ^ 16 ≤ y → tells .vocldUnload 1) ∧
    (y % 2 ^ 8 = 1 → y < 2 ^ 16 →
      let vid := y / 2 ^ 8
      (s.vocab? vid = none → tells .vocldUnload 7) ∧
      ((s.vocab? vid).isSome = true → vocabUsed s vid = true → tells .vocldUnload 5) ∧
      ((s.vocab? vid).isSome = true → vocabUsed s vid = false → exec (.vocldUnload f) s = .next (wrote s
        (s.modPlinth fun p => { p with vocabs := p.vocabs.filter fun v => v.vid != vid }) f.dst 0 2))) ∧
    (2 ^ 8 ≤ x → tells .qrgo 1) ∧
    (x < 2 ^ 8 →
      let e := x % 2 ^ 4
      let ports := x / 2 ^ 4
      let listens := s.plinth.qrbuf.toNat.testBit 63 = true
      let taken := ∃ i < 16, (s.quarryOf i).st ≠ 0 ∧ (s.quarryOf i).ports &&& ports ≠ 0
      ((s.quarryOf e).st ≠ 0 → tells .qrgo 9) ∧
      ((s.quarryOf e).st = 0 → ports = 0 ∨ ¬ listens → tells .qrgo 1) ∧
      ((s.quarryOf e).st = 0 → ports ≠ 0 → listens → taken → tells .qrgo 0x0A) ∧
      ((s.quarryOf e).st = 0 → ports ≠ 0 → listens → ¬ taken →
        exec (.qrgo f) s = .next (wrote s (s.modQuarry e fun q => { q with st := 1, ports := ports }) f.dst 0 2))) ∧
    (16 ≤ x → ∀ i ∈ [Instr.qrstat, .qrstop, .stgo, .ststat], tells i 1) ∧
    (x < 16 →
      let q := s.quarryOf x
      let t := Tab.get s.plinth.setter x
      tells .qrstat (q.st * 2 ^ 8 + q.ports * 2 ^ 10 + q.posted * 2 ^ 16 + q.errors * 2 ^ 32 + q.lastErr * 2 ^ 48) ∧
      tells .ststat (b2n t.running * 2 ^ 8 + t.sent * 2 ^ 16 + t.wakes.length % 2 ^ 16 * 2 ^ 32) ∧
      (t.running = true → tells .stgo 9) ∧
      (t.running = false → exec (.stgo f) s = .next (wrote s
        (s.modPlinth fun p => { p with setter := Tab.modify p.setter x fun w => { w with running := true } }) f.dst 0 2)) ∧
      ∃ u, exec (.qrstop f) s = .next (wrote s u f.dst 0 2) ∧
        u.quarryOf x = { q with st := if q.st = 0 ∨ q.held = .none then 0 else 2 } ∧ (∀ i, i ≠ x → u.quarryOf i = s.quarryOf i) ∧
        u.tiles = s.tiles ∧ u.mem = s.mem) ∧
    (2 ^ 24 ≤ x → exec (.stclose f) s = .next (wrote s s f.dst 1 1)) ∧
    (x < 2 ^ 24 → ¬ settled → exec (.stclose f) s = .next s) ∧
    (x < 2 ^ 24 → settled → exec (.stclose f) s =
      .next ((s.modPlinth fun p => { p with recq := p.recq ++ [{ op := .close x, from' := some a }] }).modBk a fun k =>
        { k with stall := .reply f.dst false 0 none, answer := none }))) ∧
  ∀ v : Vocab, vocCheck v = 0 → sha384 (v.bytes.drop 0x80) = (v.bytes.drop 0x20).take 48

/-- R375, R379, R381, R383 to R387: a request frame that passes the checks takes a prompt buffer and is staged, one that fails
is answered by an error frame with its code and counted; a cancel frame ends a queued request or cancels a live one; a Setter
serves its oldest wake; `qtok` and `sdet` write their output and a status with its count. -/
def Obligations.FramesAreServedAndTextIsFormed : Prop :=
  (∀ (s : State) (p : Fin 4) (peer : Word) (b : List Byte),
    (portQuarry s p.val = none → exec (.requestFrame p peer b) s = .next s ∧ exec (.cancelFrame p peer b) s = .next s) ∧
    ∀ e, portQuarry s p.val = some e → (s.quarryOf e).held = .none → textCmd s e 0x30 = false →
      let fails (i : Instr) (code : Nat) : Prop := ∃ u, exec i s = .next u ∧
        u.out = s.out ++ [.frame p.val peer (errorFrame (frameRid b) code)] ∧
        u.quarryOf e = { s.quarryOf e with errors := ((s.quarryOf e).errors + 1) % 2 ^ 16, lastErr := code } ∧
        u.mem = s.mem ∧ u.tiles = s.tiles
      (b.length < 24 ∨ frameKind b ≠ 2 →
        (frameBad b = true → fails (.requestFrame p peer b) 1) ∧
        (∀ c, frameBad b = false → checkRequest s p.val peer b = .error c → fails (.requestFrame p peer b) c) ∧
        ∀ seq, frameBad b = false → checkRequest s p.val peer b = .ok seq →
          let free := (List.range 4096).find? fun i => !s.plinth.bufs.contains i
          (free = none → exec (.requestFrame p peer b) s =
            .next (s.modQuarry e fun q => { q with held := .buffer p.val peer b seq })) ∧
          ∀ i v, free = some i → vWrite s 0 (promptBuf s i) (seq.flatMap (leBytes 4)) = (v, none) →
            let tlvs := (splitTlvs (vocNat b 16 2 / 4) ((b.drop 24).take (vocNat b 16 2))).getD []
            let img := stagedImage e p.val peer b tlvs (promptBuf s i) seq.length
            ∃ u, exec (.requestFrame p peer b) s = .next u ∧ u.plinth.bufs = s.plinth.bufs ++ [i] ∧ u.mem = v.mem ∧
              (s.bf.arrq.length < 4096 → u.bf = { s.bf with arrq := s.bf.arrq ++ [img] }) ∧
              (4096 ≤ s.bf.arrq.length → u.bf = s.bf ∧ (u.quarryOf e).held = .post img)) ∧
      (24 ≤ b.length → frameKind b = 2 →
        (frameBad b = true → fails (.cancelFrame p peer b) 1) ∧
        (∀ i, frameBad b = false → queuedReq s p.val peer.toNat (frameRid b) = some i →
          ∃ u, exec (.cancelFrame p peer b) s = .next u ∧ u.bf = { s.bf with arrq := s.bf.arrq.eraseIdx i } ∧
            u.out = s.out ++ [.frame p.val peer (finalFrame (frameRid b) 5 0 0)] ∧ u.mem = s.mem) ∧
        (∀ k, frameBad b = false → queuedReq s p.val peer.toNat (frameRid b) = none →
          liveReq s p.val peer.toNat (frameRid b) = some k →
          (rqActive s k = true → exec (.cancelFrame p peer b) s = .next (s.modPlinth fun x =>
            { x with recq := x.recq ++ [{ op := .cancel (k + rqInc s k * 2 ^ 12) }] })) ∧
          (rqActive s k = false → fails (.cancelFrame p peer b) 7)) ∧
        (frameBad b = false → queuedReq s p.val peer.toNat (frameRid b) = none → liveReq s p.val peer.toNat (frameRid b) = none →
          fails (.cancelFrame p peer b) 7))) ∧
  (∀ (s : State) (e : Fin 16),
    let x := Tab.get s.plinth.setter e.val
    (x.wakes = [] ∨ x.running = false ∨ textCmd s e.val 0x40 = true → exec (.setterWakeServe e) s = .next s) ∧
    ∀ k l, x.wakes = k :: l → x.running = true → textCmd s e.val 0x40 = false →
      let s' := s.modPlinth fun p => { p with setter := Tab.set p.setter e.val { x with wakes := l } }
      (rqClosed s k = true → exec (.setterWakeServe e) s = .next s') ∧
      ∀ v r d, k < 4096 → rqClosed s k = false → rqState s k = 3 → rqInc s k < 4096 → s.vocab? (rqFld s k 0 48 8) = some v →
        detokAll v (stopStrings s k) ((List.range (min 8 (rqFld s k 0x60 0 4))).map fun i => rqNat s k (0x40 + 4 * i) 4 % 2 ^ 18)
          (rqOutr s k) ((List.range ((rqOutw s k + 2 ^ 32 - rqOutr s k) % 2 ^ 32)).map fun i =>
            rqNat s k (0x210 + 4 * ((rqOutr s k + i) % 64)) 4)
          { tb := readBytes s.mem (recordAddr k 0x1A0) (min 40 (rqFld s k 0x198 0 6)), out := [], hit := false } = (r, d, none) →
        d.hit = false → d.tb.length ≤ 40 →
        ∃ u, exec (.setterWakeServe e) s = .next u ∧ rqOutr u k = r % 2 ^ 32 ∧
          u.out = s.out ++ (cutBody (d.out.length / 4096 + 1) d.out).map fun b =>
            .frame (rqFld s k 0x190 0 2) (BitVec.ofNat 64 (rqNat s k 0x188 8)) (frameBytes 0x81 (rqNat s k 0x180 8) [] b)) ∧
  ∀ (s : State) (h : CHead), CmdRuns s h → s.actorChain = 3 →
    let a := s.actor
    let s' := begun s
    let left (u : State) (st n : Nat) : State := u.modChain a 3 fun x => { x with pos := 1, shape := [st, n] }
    ∀ (src dst : BitVec 56) (vid : BitVec 8) (res : BitVec 20),
      (s'.engine.pos = 0 → textServes s' a (a % 16) 0x30 = true → ∀ (len : BitVec 24) (maxtok : BitVec 20),
        let ends (u : State) (st n : Nat) : Prop := exec (.cQtok h src dst vid res len maxtok) s = .next (left u st n)
        (s.vocab? vid.toNat = none → ends s' 1 0) ∧
        ∀ voc u body, s.vocab? vid.toNat = some voc → readText s' a 3 src.toNat 1 len.toNat = .ok (u, body) →
          (tokenise voc body = none → ends u 2 0) ∧
          ∀ seq, tokenise voc body = some seq →
            let out := seq.take maxtok.toNat
            let st := if maxtok.toNat < seq.length then 3 else 0
            (out = [] → ends u st 0) ∧
            ∀ w, out ≠ [] → engineWrite u a 3 .here dst.toNat 4 (out.flatMap (leBytes 4)) = .ok w → ends w st out.length) ∧
      (s'.engine.pos = 0 → textServes s' a (a % 16) 0x40 = true → ∀ (count : BitVec 20) (dmax : BitVec 24),
        let ends (u : State) (st n : Nat) : Prop := exec (.cSdet h src dst vid res count dmax) s = .next (left u st n)
        (s.vocab? vid.toNat = none → ends s' 1 0) ∧
        ∀ voc u body, s.vocab? vid.toNat = some voc → readText s' a 3 src.toNat 4 (4 * count.toNat) = .ok (u, body) →
          ∀ st out, detokRun voc dmax.toNat ((List.range count.toNat).map fun i => leNat ((body.drop (4 * i)).take 4)) [] = (st, out) →
            (out = [] → ends u st 0) ∧
            ∀ w, out ≠ [] → engineWrite u a 3 .here dst.toNat 1 out = .ok w → ends w st out.length) ∧
      (s'.engine.pos = 0 → (∀ len maxtok, textServes s' a (a % 16) 0x30 = false →
          exec (.cQtok h src dst vid res len maxtok) s = .next s') ∧
        ∀ count dmax, textServes s' a (a % 16) 0x40 = false → exec (.cSdet h src dst vid res count dmax) s = .next s') ∧
      ∀ mt off st n, s'.engine.pos ≠ 0 → s'.engine.shape = [st, n] → localCheck s' a res.toNat 8 8 = .ok (mt, off) →
        (s.port a mt).serves s.cyc 4 = true →
        let done := (writeMt (usePort s' a mt 4 1) a mt off (leBytes 8 (st + n * 2 ^ 32)) none).modChain a 3 fun x => { x with fin := true }
        (∀ len maxtok, exec (.cQtok h src dst vid res len maxtok) s = .next done) ∧
        ∀ count dmax, exec (.cSdet h src dst vid res count dmax) s = .next done

/-! ## The host, registers and resets -/

/-- R400, R401, R402, R403, R408: a cut records the copy's CEs, queues, counters, owned memory and tags under the next number, pushes a
marker with that number on every output edge, starts a new input log and lets the copy fire in the next cycle; once its bank is written
it is the last complete cut, and a copy that must leave leaves, unless a fault has stopped it; a write that faults abandons it,
joins its log to the older one and posts SNAP_FAIL. What a bank holds is free (log entry 131); that the number of an abandoned cut is used
again, and that tokens still to be discarded count as pushed since the cut, is the model's choice (log entry 118). -/
def Obligations.CutsAreRecordedCompletedOrAbandoned : Prop :=
  ∀ (s : State) (ref : CopyRef) (c : Copy), s.copy? ref = some c → c.ref = ref →
    let becomes (i : Instr) (n : Copy) : Prop := ∃ t, exec i s = .next t ∧ t.copy? ref = some n ∧ ∀ y, readByte t.mem y = readByte s.mem y
    (cutReady s c = false → exec (.snapshotCut ref) s = .next s) ∧
    (cutReady s c = true →
      let k := (c.cutK + 1) % 2 ^ 32
      let cut : Cut := { k := k, ces := c.ces, fifos := c.fifos, v := c.v, j := c.j, base := c.base, oc := c.oc, fifoTo := c.fifoTo,
                         mem := copyMem s c, tags := copyTags s c }
      becomes (.snapshotCut ref) { c with writing := some cut, cutK := k, cutJ := c.j, logPrev := c.log, log := [],
                                          pushedPrev := tabLess c.pushed c.skip,
                                          pushed := c.skip, leave := mustLeave s c, resumeAt := s.cyc + 1 } ∧
      (∃ t, exec (.snapshotCut ref) s = .next t ∧ ∀ e ∈ c.kern.edges, c.isOutput e = true → ∀ x ch, e.src = .ce x ch →
        ∃ d ∈ t.due, d.at' = s.cyc + 1 ∧ d.act = .marker ref x ch k) ∧
      c.v = 0 ∧ c.j ≠ c.cutJ ∧ c.writing = none ∧ (s.due.any fun d => d.act.copy? == some ref) = false) ∧
    (c.writing = none → exec (.cutComplete ref) s = .next s) ∧
    (∀ k, c.writing = some k → bankFault s c k.k = true → exec (.cutComplete ref) s = .next s) ∧
    (∀ k, c.writing = some k → bankFault s c k.k = false → c.leave = false ∨ c.phase = .failing ∨ mustLeave s c = false →
      let a := bankAddr s c k.k
      ∃ t b, exec (.cutComplete ref) s = .next t ∧ b.length ≤ 2 ^ 21 ∧ readBytes t.mem a b.length = b ∧
        t.copy? ref = some { c with done := some { k with bankAt := a, bank := b }, writing := none, logPrev := [], pushedPrev := [],
                                    leave := false } ∧
        ∀ y, (y < a ∨ a + 2 ^ 21 ≤ y) → readByte t.mem y = readByte s.mem y) ∧
    (∀ k, c.writing = some k → bankFault s c k.k = false → c.leave = true → c.phase ≠ .failing → mustLeave s c = true →
      let (u, b) := writeBank s c k
      let n : Copy := { c with done := some b, writing := none, logPrev := [], pushedPrev := [], leave := false }
      exec (.cutComplete ref) s = .next (leaveRegion (u.modCopy ref fun _ => n) n b)) ∧
    (∀ k, c.writing = some k → s.snapOn c.tile = true →
      becomes (.cutWriteFault ref) { c with writing := none, leave := false, cutK := (c.done.map (·.k)).getD 0,
                                            log := c.logPrev ++ c.log, logPrev := [], pushed := pushedSince c, pushedPrev := [] }) ∧
    (c.writing = none → s.snapOn c.tile = true → c.log ≠ [] → c.logBad = false →
      becomes (.cutWriteFault ref) { c with logBad := true }) ∧
    (s.snapOn c.tile = false → exec (.cutWriteFault ref) s = .next s)

/-- R7, R8, and spec/12_engines.md R278, spec/09_memory.md R209 and R222, spec/13_rings.md R303 and R305, spec/14_attention.md
R319 and R320, spec/18_system.md R402, R405, R412, R417 and R419: what a host write of a TILE register does; a value that
breaks the register's rule changes nothing, and so does a write for a tile that is not assigned. A reservation that is cleared asks the
placer (R190). The model's choice is: that BCTL.PC does not follow the banker (log entry 102), that every write of TRIGCTL clears FIRED
(log entry 103), that a copy that loads owns its memory tiles (log entry 105), and the corners of CHCFG, RSCFG and MWIN (log entry 106). -/
def Obligations.TileRegisterWritesTakeEffect : Prop :=
  ∀ (s : State) (t : Nat) (v : Word),
    let x := s.tile t
    let n := v.toNat
    let writes := [Instr.bkmtWrite t v, .rscfgWrite t v, .kvpoolEnable t v, .kvpoolDisable t v, .ascfgWrite t v, .asstartGo t v,
      .resumeCopies t v, .resumeCancel t v, .snapbaseWrite t v, .tracectlWrite t v, .trigctlWrite t v, .bctlRun t v] ++
      (List.finRange 4).flatMap fun c => [.chainEnable t c v, .chainDisable t c v, .mwinWrite t c v]
    (s.tileOk t = false ∨ s.mgmt.state = 2 → ∀ i ∈ writes, exec i s = .next s) ∧
    (s.tileOk t = true → s.mgmt.state ≠ 2 →
      let new (i : Nat) : Bool := if v.toNat.testBit i then s.reserved t i || !claimedMt s t i else s.reserved t i && chainIn s t i
      (∃ u, exec (.bkmtWrite t v) s = .next u ∧ (∀ i < 16, u.reserved t i = new i) ∧
        (∀ i < 16, new i = true → s.reserved t i = false → ∀ off < 65536, readByte u.mem (mtAddr t i off) = 0) ∧
        ∀ y, (∀ i < 16, new i = true → s.reserved t i = false → y < mtAddr t i 0 ∨ mtAddr t i 0 + 65536 ≤ y) →
          readByte u.mem y = readByte s.mem y) ∧
      ((∃ i < 16, s.reserved t i = true ∧ new i = false) → ∃ u n, exec (.bkmtWrite t v) s = .next u ∧
        (n, .placerPass (s.wallOf t)) ∈ u.sched) ∧
      (∀ c : Fin 4,
        let k := s.chain t c.val
        let mt := n / 2 ^ 32 % 2 ^ 4
        let base := n / 2 ^ 16 % 2 ^ 16
        let sz := n % 2 ^ 4
        let fits := s.reserved t mt = true ∧ 1 ≤ sz ∧ sz ≤ 11 ∧ base % 32 = 0 ∧ base + 32 * 2 ^ sz ≤ 65536
        let set (y : Chain) : State := s.modChain t c.val fun _ => y
        (k.en = true ∨ ¬ fits → exec (.chainEnable t c v) s = .next s) ∧
        (k.en = false → fits →
          exec (.chainEnable t c v) s =
            .next (set { en := true, mt := mt, base := base, sz := sz, remote := k.remote, results := k.results })) ∧
        (k.en = true → k.issued ≠ k.done → exec (.chainDisable t c v) s = .next s) ∧
        (k.en = true → k.issued = k.done → exec (.chainDisable t c v) s = .next (s.modChain t c.val fun y => { y with en := false })) ∧
        (k.en = false → exec (.chainDisable t c v) s =
          .next (s.modChain t c.val fun y => { y with mt := mt, base := base, sz := sz })) ∧
        let w := v &&& mwinMask
        (mwinBad s t c.val w = true → exec (.mwinWrite t c v) s = .next s) ∧
        (mwinBad s t c.val w = false →
          exec (.mwinWrite t c v) s = .next (s.modMem t fun m => { m with mwin := Tab.set m.mwin c.val w }))) ∧
      (let q := v &&& 0xF
       exec (.rscfgWrite t v) s = .next (s.modRing t fun r =>
         { r with rscfg := if n.testBit 63 && s.reserved t (n % 2 ^ 4) then q ||| oneBit 63 else q })) ∧
      (let w := (v &&& kvpoolMask) ||| oneBit 63
       let setl := n / 2 ^ 8 % 2 ^ 5
       let fits := 16 ≤ setl ∧ setl ≤ 30 ∧ n / 2 ^ 16 % 2 ^ 32 * 2 ^ 16 % 2 ^ setl = 0 ∧ 1 ≤ x.ring.nset
       (x.ring.poolOn = true ∨ ¬ fits → exec (.kvpoolEnable t v) s = .next s) ∧
       (x.ring.poolOn = false → fits → exec (.kvpoolEnable t v) s = .next (s.modRing t fun r => { r with kvpool := w })) ∧
       (x.ring.poolOn = true →
         exec (.kvpoolDisable t v) s = .next (s.modRing t fun r => { r with kvpool := r.kvpool &&& ~~~(oneBit 63) })) ∧
       (x.ring.poolOn = false →
         exec (.kvpoolDisable t v) s = .next (s.modRing t fun r => { r with kvpool := v &&& kvpoolMask &&& ~~~(oneBit 63) }))) ∧
      (x.seq.st = 0 → exec (.ascfgWrite t v) s = .next (s.modSeq t fun q => { q with ascfg := v &&& ascfgMask })) ∧
      (x.seq.st ≠ 0 → exec (.ascfgWrite t v) s = .next s) ∧
      (let entered := s.modSeq t fun q => { q with entry := n % 2 ^ 10 }
       (x.seq.st ≠ 0 → exec (.asstartGo t v) s = .next entered) ∧
       (x.seq.st = 0 → exec (.asstartGo t v) s = .next (schedule (entered.modSeq t fun q =>
         { q with entry := n % 2 ^ 10, starting := true }) (s.cyc + 2) (.sequencerStart t)))) ∧
      (anyHeld s t (n % 2 ^ 16) = false → exec (.resumeCopies t v) s = .next s ∧ exec (.resumeCancel t v) s = .next s) ∧
      (anyHeld s t (n % 2 ^ 16) = true →
        (sweepOf s t (n % 2 ^ 16) = none → exec (.resumeCancel t v) s = .next (cancelLaunch s t (n % 2 ^ 16))) ∧
        (∀ old, sweepOf s t (n % 2 ^ 16) = some old →
          exec (.resumeCancel t v) s = .next (deferTo s t old (.cancel (n % 2 ^ 16)))) ∧
        exec (.resumeCopies t v) s = .next { s with copies := s.copies.map fun (c : Copy) =>
          if c.ref.issuer = t ∧ c.ref.lid = n % 2 ^ 16 ∧ ((c.phase = .held true ∨ c.phase = .broken) ∧ c.logBad = false)
          then { c with phase := .running, resumeAt := s.cyc + 1 } else c }) ∧
      ((s.copies.any fun c => c.tile == t) = true → exec (.snapbaseWrite t v) s = .next s) ∧
      ((s.copies.any fun c => c.tile == t) = false →
        exec (.snapbaseWrite t v) s = .next (s.modSys t fun y => { y with snapbase := v &&& snapbaseMask })) ∧
      (∃ u, exec (.tracectlWrite t v) s = .next u ∧ OutsideKept s u t ∧
        let y := (u.tile t).sys
        y.tracectl = v &&& tracectlMask ∧
        (n.testBit 63 = true → x.sys.tracectl.toNat.testBit 63 = false →
          y.frozen = false ∧ y.wptr = 0 ∧ y.wrap = false ∧ y.lost = 0) ∧
        (n.testBit 63 = false ∨ x.sys.tracectl.toNat.testBit 63 = true → y = { x.sys with tracectl := v &&& tracectlMask })) ∧
      exec (.trigctlWrite t v) s = .next (s.modSys t fun y =>
        { y with trigctl := v &&& trigctlMask, fired := false }) ∧
      ∃ u, exec (.bctlRun t v) s = .next u ∧ OutsideKept s u t ∧
        (∀ d far k slot, x.bk.stall = .reply d far k slot → (u.tile t).mem.sbpend = x.mem.sbpend - k) ∧
        (u.tile t).bk = { x.bk with mode := 0, pc := v &&& 0x00FFFFFFFFFFFFFF, bctlPc := v &&& 0x00FFFFFFFFFFFFFF, stall := .none,
                                    emul := none, answer := none, nextIssue := s.cyc + 1 })

/-- R7, R8, R417, and spec/09_memory.md R228, spec/10_ordering.md R246 and R255, spec/12_engines.md R293, spec/15_requests.md
R345, spec/16_sampling.md R356, spec/17_text.md R378, spec/18_system.md R415 and spec/19_boundary.md R428: what host writes of
the package's other registers do, that a read clears an RC field, and that an unassigned offset reads 0 and takes nothing, which is the
model's choice for the host (log entry 124), as are UNORD while the mode changes (log entry 104), QRBUF's corners (log entry 106) and the
interrupt that goes with each read of a queue that stays non-empty (log entry 146). -/
def Obligations.PackageRegisterWritesTakeEffect : Prop :=
  ∀ (s : State) (v : Word),
    let n := v.toNat
    let p := s.plinth
    let bf (f : Bf → Bf) : State := s.modPlinth fun p => { p with bf := f p.bf }
    (∀ off : BitVec 32, sysRegAt s off.toNat = none → exec (.registerWrite off v) s = .next s ∧
      exec (.clearOnRead off) s = .next (s.send (.hostReg 0))) ∧
    (exec .evqRead s = .next (match s.mgmt.evq with
      | [] => s.send (.hostReg 0)
      | (c, d) :: rest =>
        let u := s.modMgmt fun m => { m with evq := rest }
        (if rest = [] then u else u.send .interrupt).send (.hostReg (BitVec.ofNat 64 (2 ^ 63 + c * 2 ^ 56 + d % 2 ^ 56))))) ∧
    (∀ w, 4 ≤ w → exec (.wayresWrite w v) s = .next s) ∧
    (∀ g, 256 ≤ g → exec (.cgrpWrite g v) s = .next s) ∧
    (s.mgmt.state ≠ 2 →
      (∀ t, s.tileOk t = true →
        exec (.registerWrite (BitVec.ofNat 32 (t * 0x1000 + 0x088)) v) s =
          .next (s.modSys t fun x => { x with tvec := v &&& 0x00FFFFFFFFFFFE00 }) ∧
        exec (.clearOnRead (BitVec.ofNat 32 (t * 0x1000 + 0x018))) s =
          .next ((s.modTile t fun x => { x with orphan := 0 }).send (.hostReg (BitVec.ofNat 64 (s.tile t).orphan)))) ∧
      exec (.registerWrite 0x500000 v) s = .next (s.modPlinth fun p => { p with ptroot := v &&& ptrootMask }) ∧
      exec (.clearOnRead 0x500008) s =
        .next ((s.modPlinth fun p => { p with sigdrop := 0 }).send (.hostReg (BitVec.ofNat 64 p.sigdrop))) ∧
      (∀ w < 4, ∃ u, exec (.wayresWrite w v) s = .next u ∧ (u.wall w).wayres = min (n % 2 ^ 4) 8 ∧
        (s.ways w ≤ min (n % 2 ^ 4) 8 → u = s.modWall w fun x => { x with wayres := min (n % 2 ^ 4) 8 })) ∧
      exec (.ordctlWrite v) s = .next (s.modPlinth fun p =>
        { p with seed := n / 2 ^ 32, unordReq := if n.testBit 0 = p.unord then none else some (n.testBit 0) }) ∧
      (∀ i : Fin 16,
        let b := s.sbarOf i.val
        let bad := b.arr ≠ 0 ∨ (n.testBit 31 = true ∧ (n % 2 ^ 11 = 0 ∨ 1024 < n % 2 ^ 11))
        (bad → exec (.sbarRegWrite i v) s = .next s) ∧
        (¬ bad → exec (.sbarRegWrite i v) s = .next (s.modPlinth fun p =>
          { p with sbar := Tab.set p.sbar i.val { b with en := n.testBit 31, count := n % 2 ^ 11 } }))) ∧
      (∀ g < 256,
        let w := v &&& cgrpMask
        let bad := (n.testBit 63 = true ∧ n / 2 ^ 32 % 2 ^ 16 = 0) ∨ groupBusy s g = true
        (bad → exec (.cgrpWrite g v) s = .next s) ∧
        (¬ bad → ∃ u, exec (.cgrpWrite g v) s = .next u ∧ (u.group g).cgrp = w ∧ (u.group g).insts = (s.group g).insts ∧
          (∀ k, k ≠ g → u.group k = s.group k) ∧
          (n.testBit 63 = true → (s.group g).en = false → ∀ t, Tab.get (u.tile t).collCount g = 0))) ∧
      (p.bf.en = false → exec (.bfcfgWrite 0x500100 v) s = .next (bf fun b => { b with cfg := v &&& bitRange 63 29 }) ∧
        exec (.bfcfgWrite 0x500108 v) s = .next (bf fun b => { b with model := v &&& bitRange 47 16 }) ∧
        exec (.bfcfgWrite 0x500118 v) s = .next (bf fun b => { b with man := v &&& bitRange 47 25 })) ∧
      (p.bf.en = true → exec (.bfcfgWrite 0x500108 v) s = .next s ∧ exec (.bfcfgWrite 0x500118 v) s = .next s) ∧
      exec (.bfcfgWrite 0x500110 v) s = .next (bf fun b => { b with avail := n % 2 ^ 32 }) ∧
      (∀ i < 8, exec (.bfcfgWrite (BitVec.ofNat 32 (0x500140 + 8 * i)) v) s =
        .next (bf fun b => { b with course := Tab.set b.course i (v &&& 0x3F3F3F3F3F3F3F3F) })) ∧
      (let bad := (p.quarry.any fun q => q.2.st == 1) = true ∨ n % 2 ^ 5 < 12 ∨ 26 < n % 2 ^ 5
       (bad → exec (.qrbufWrite v) s = .next s) ∧
       (¬ bad → exec (.qrbufWrite v) s = .next (s.modPlinth fun p => { p with qrbuf := v &&& qrbufMask }))) ∧
      (let bad := p.bf.en = true ∨ n % 2 ^ 4 = 0 ∨ n / 2 ^ 18 % 2 ^ 9 = 0 ∨ 256 < n / 2 ^ 18 % 2 ^ 9
       (bad → exec (.sampcfgWrite 0x500028 v) s = .next s) ∧
       (¬ bad → exec (.sampcfgWrite 0x500028 v) s = .next (s.modPlinth fun p => { p with sampcfg := v &&& sampcfgMask }))) ∧
      (∀ i < 3, p.bf.en = false → exec (.sampcfgWrite (BitVec.ofNat 32 (0x500030 + 8 * i)) v) s =
        .next (s.modPlinth fun p => { p with salt := Tab.set p.salt i v })) ∧
      (∃ u, exec .freeze s = .next u ∧ u.plinth.frozen = true ∧ clockRuns u = false) ∧
      (clockRuns s = true ∨ s.mgmt.pwrCur = 3 →
        exec .unfreeze s = .next (s.modPlinth fun p => { p with frz := false, frozen := false })) ∧
      (p.frozen = true → s.mgmt.pwrCur ≠ 3 →
        exec .unfreeze s = .next (tickOnce (s.modPlinth fun p => { p with frz := false, frozen := false })))) ∧
    (∀ w, p.unordReq = some w → s.copies = [] →
      exec .orderModeChange s = .next (s.modPlinth fun p => { p with unord := w, unordReq := none })) ∧
    (p.unordReq = none ∨ s.copies ≠ [] → exec .orderModeChange s = .next s)

/-- R421, R424 to R427: a host read or write of memory is performed at the home; a read that faults is answered by completer abort on
BAR2 and by a poisoned response on CXL.mem, a write that faults is discarded, and either raises HOST_ERR; power state 3 and recovery turn
accesses away, but for recovery's writes of the on-module memory. A flash operation ends written, or rejected with the code of the first
check that its object fails; attestation writes its report behind the nonce and sets DONE. What recovery lets through, and that power
state 3 posts no event (log entry 110), and that CXL.mem is answered poisoned there (log entry 146), is the model's choice. -/
def Obligations.HostMemoryFlashAndAttestation : Prop :=
  ∀ s : State,
    (∀ (pa : BitVec 48) (n : Nat) (cxl ecc : Bool),
      let a := pa.toNat
      let refusal : OutMsg := if cxl then .hostPoison else .hostAbort
      (s.mgmt.pwrCur = 3 ∨ s.mgmt.state = 2 → exec (.hostMemoryRead pa n cxl ecc) s = .next (s.send refusal)) ∧
      (s.mgmt.pwrCur ≠ 3 → s.mgmt.state ≠ 2 → 0 < n →
        (hostFault s a n = none → ecc = false → s.strike = 0 →
          exec (.hostMemoryRead pa n cxl ecc) s = .next (s.send (.hostData (homeRead s a n)))) ∧
        (hostFault s a n = none → ecc = true →
          exec (.hostMemoryRead pa n cxl ecc) s = .next ((hostErr s 0x14 a).send refusal)) ∧
        ∀ c, hostFault s a n = some c →
          exec (.hostMemoryRead pa n cxl ecc) s = .next ((hostErr s c a).send refusal))) ∧
    (∀ (pa : BitVec 48) (bytes : List Byte) (ecc : Bool),
      let a := pa.toNat
      (s.mgmt.pwrCur = 3 → exec (.hostMemoryWrite pa bytes ecc) s = .next s) ∧
      (s.mgmt.state = 2 → (∀ x, s.place a ≠ .module x) → exec (.hostMemoryWrite pa bytes ecc) s = .next s) ∧
      (s.mgmt.pwrCur ≠ 3 → bytes ≠ [] →
        s.mgmt.state ≠ 2 ∨ (∃ x y, s.place a = .module x ∧ s.place (a + bytes.length - 1) = .module y) →
        (hostFault s a bytes.length = none → ecc = false → s.strike = 0 →
          ∃ u, exec (.hostMemoryWrite pa bytes ecc) s = .next u ∧ readBytes u.mem a bytes.length = bytes ∧
            ∀ y, (y < a ∨ a + bytes.length ≤ y) → readByte u.mem y = readByte s.mem y) ∧
        ∀ c, hostFault s a bytes.length = some c → exec (.hostMemoryWrite pa bytes ecc) s = .next (hostErr s c a))) ∧
    (∀ op ∈ [(1, Instr.flashFirmware), (2, .flashConfigBlock), (3, .flashDegradationTable)], ∀ v : Word,
      (s.mgmt.flashSt = 1 → exec (op.2 v) s = .next s) ∧
      (s.mgmt.flashSt ≠ 1 → exec (op.2 v) s = .next (s.modMgmt fun m =>
        { m with flashAddr := v.toNat / 2 ^ 12 % 2 ^ 36 * 2 ^ 12, flashSt := 1, flashErr := 0, flashOp := op.1 }))) ∧
    (s.mgmt.flashSt ≠ 1 → exec .flashDone s = .next s) ∧
    (s.mgmt.flashSt = 1 →
      let rejected (code : Nat) : State := s.modMgmt fun m =>
        { m with resetAt := s.cyc + 1, flashSt := 3, flashErr := code, flashOp := 0 }
      (objRead s s.mgmt.flashAddr = none → exec .flashDone s = .next (rejected 1)) ∧
      ∀ b, objRead s s.mgmt.flashAddr = some b →
        let signed := b.take (objSigned b)
        let rsa := (b.drop (objSigned b)).take 384
        (objFormat b = false → exec .flashDone s = .next (rejected 1)) ∧
        (objFormat b = true → rsaVerify Config.rsaKey signed rsa = false → exec .flashDone s = .next (rejected 2)) ∧
        (objFormat b = true → rsaVerify Config.rsaKey signed rsa = true →
          slhVerify Config.slhKey signed (b.drop (objSigned b + 384)) = false → exec .flashDone s = .next (rejected 3)) ∧
        (objVerify s.hw s.mgmt.flashOp b ≠ 0 → exec .flashDone s = .next (rejected (objVerify s.hw s.mgmt.flashOp b))) ∧
        (objVerify s.hw s.mgmt.flashOp b = 0 →
          Tab.get s.hw.minSvn (objKind b) ≤ objSvn b ∧ objKind b = s.mgmt.flashOp ∧
          ∃ u, exec .flashDone s = .next u ∧ u.mgmt.flashSt = 2 ∧ u.mgmt.flashErr = 0 ∧ u.mem = s.mem ∧
            Tab.get u.hw.minSvn s.mgmt.flashOp = objSvn b ∧
            (s.mgmt.flashOp = 1 → u.hw.active = (if s.mgmt.bank = 0 then 1 else 0) ∧ u.hw.bank u.hw.active = b) ∧
            (s.mgmt.flashOp = 2 → u.hw.config = b) ∧ (s.mgmt.flashOp = 3 → u.hw.table = b))) ∧
    (∀ v : Word, exec (.attestGo v) s = .next (s.modMgmt fun m =>
      { m with attestAddr := v.toNat / 2 ^ 6 % 2 ^ 42 * 2 ^ 6, attestGo := true, attestDone := false })) ∧
    (s.mgmt.attestGo = false → exec .attestDone s = .next s) ∧
    (s.mgmt.attestGo = true → hostFault s s.mgmt.attestAddr (64 + 256 + 384 + 16224) = none →
      homeFault s (s.mgmt.attestAddr + 64) = none →
      ∃ u, exec .attestDone s = .next u ∧ u.mgmt.attestDone = true ∧ u.mgmt.attestGo = false ∧
        readBytes u.mem (s.mgmt.attestAddr + 64) 64 = homeRead s s.mgmt.attestAddr 64)

/-- R9, R423, R424, R427, R428, R429, R431, R433: a reset leaves every register at its reset value, but for the trace entries, which have
none (R413), and zeroes memory below the CXL windows, a warm one keeps the event queue and waits while the flash is busy; boot without a firmware bank that verifies stops
in recovery; power states, droop episodes, the arcade's hello and CXL ports follow their rules, a port with accesses under way closing
later, and each event reaches the queue with an interrupt. The model's choice is: the cycles of a port's close and of a pending reset (log
entry 107), what a reset leaves of memory and of the model's own fields (log entry 110), the number ARC_DUP carries (log entry 111) and the
interrupt of every event (log entry 146). -/
def Obligations.ResetsPowerAndLinks : Prop :=
  ∀ s : State,
    (∀ warm,
      let u := resetState s warm
      (∀ t, u.tile t = { sys := { trace := (s.tile t).sys.trace } }) ∧ u.walls = [] ∧ u.plinth = {} ∧ u.copies = [] ∧ u.due = [] ∧ u.sched = [] ∧ u.cyc = 0 ∧ u.hw = s.hw ∧
        u.mgmt.evq = (if warm then s.mgmt.evq else []) ∧ u.mgmt.rcause = (if warm then 1 else 0) ∧
        (∀ y, cxlBase ≤ y → readByte u.mem y = readByte s.mem y) ∧ ∀ y, y < cxlBase → readByte u.mem y = 0) ∧
    exec .coldReset s = .next (boot (resetState s false)) ∧
    (s.mgmt.flashSt = 1 → exec .warmReset s = .next (s.modMgmt fun m => { m with pend := true, resetAt := s.cyc }) ∧
      exec .pendingWarmReset s = .next s) ∧
    (s.mgmt.flashSt ≠ 1 → exec .warmReset s = .next (boot (resetState s true)) ∧
      (s.mgmt.pend = true → s.mgmt.resetAt ≤ s.cyc → exec .pendingWarmReset s = .next (boot (resetState s true))) ∧
      (s.mgmt.pend = false ∨ (s.cyc < s.mgmt.resetAt ∧ clockRuns s = true) → exec .pendingWarmReset s = .next s)) ∧
    (bootBank s.hw = none → boot s = s.modMgmt fun m => { m with state := 2, booterr := 1 }) ∧
    (bootBank s.hw ≠ none → objVerify s.hw 3 s.hw.table ≠ 0 → (boot s).mgmt.state = 2 ∧ (boot s).mgmt.booterr = 2) ∧
    (∀ v : Word, s.plinth.frozen = false ∨ s.mgmt.pwrCur = 3 →
      exec (.pwrReqWrite v) s = .next (s.modMgmt fun m => { m with pwrReq := v.toNat % 2 ^ 2 })) ∧
    (∀ v : Word, s.plinth.frozen = true → s.mgmt.pwrCur ≠ 3 →
      exec (.pwrReqWrite v) s = .next ((s.modMgmt fun m => { m with pwrReq := v.toNat % 2 ^ 2 }).modMgmt fun m =>
        { m with pwrCur := m.pwrReq })) ∧
    (s.mgmt.pwrCur = s.mgmt.pwrReq ∨ (s.mgmt.pwrCur ≠ 3 ∧ s.cyc % 256 ≠ 0 ∧ s.plinth.frozen = false) →
      exec .powerStateChange s = .next s) ∧
    (s.mgmt.pwrCur ≠ s.mgmt.pwrReq → s.mgmt.pwrCur ≠ 3 → s.cyc % 256 = 0 ∨ s.plinth.frozen = true →
      exec .powerStateChange s = .next (s.modMgmt fun m => { m with pwrCur := m.pwrReq })) ∧
    (s.mgmt.pwrCur = 3 → s.mgmt.pwrReq ≠ 3 → s.plinth.frozen = false →
      exec .powerStateChange s = .next (tickOnce (s.modMgmt fun m => { m with pwrCur := m.pwrReq }))) ∧
    (∀ n, exec (.droopEpisode n) s = .next (s.modMgmt fun m =>
      { m with droop := min (m.droop + n) (2 ^ 32 - 1), sag := some (min (m.sag.getD 0 + n) (2 ^ 32 - 1)) })) ∧
    (∀ n, s.mgmt.sag = some n → exec .supplyRecovery s = .next (pushEvent (s.modMgmt fun m => { m with sag := none }) 0x03 n)) ∧
    (s.mgmt.sag = none → exec .supplyRecovery s = .next s) ∧
    (∀ c d, (pushEvent s c d).out = (s.send .interrupt).out) ∧
    (∀ c d, s.mgmt.evq.length < 1024 → (pushEvent s c d).mgmt.evq = s.mgmt.evq ++ [(c, d)]) ∧
    (∀ c d, 1024 ≤ s.mgmt.evq.length → (pushEvent s c d).mgmt.evq = s.mgmt.evq ∧
      (pushEvent s c d).mgmt.evlost = min (s.mgmt.evlost + 1) (2 ^ 32 - 1)) ∧
    (∀ v : Word, (s.mgmt.arcEn = true → exec (.arcStart v) s = .next s) ∧
      (s.mgmt.arcEn = false → exec (.arcStart v) s = .next ((s.modMgmt fun m =>
        { m with arcEn := true, arcSize := v.toNat / 2 ^ 8 % 2 ^ 9, arcNum := v.toNat % 2 ^ 8 }).send (.hello [v.toNat % 2 ^ 8])))) ∧
    (∀ nums : List Nat,
      let own := s.mgmt.arcNum
      (s.mgmt.arcEn = false ∨ nums = [] → exec (.arcHello nums) s = .next s) ∧
      (s.mgmt.arcEn = true → nums.head? = some own → nums.Nodup → nums.length = s.mgmt.arcSize → s.mgmt.arcDup = false →
        exec (.arcHello nums) s = .next (s.modMgmt fun m => { m with arcUp := true, arcList := nums })) ∧
      (s.mgmt.arcEn = true → nums ≠ [] → nums.head? ≠ some own → own ∉ nums →
        exec (.arcHello nums) s = .next (s.send (.hello (nums ++ [own])))) ∧
      (s.mgmt.arcEn = true → nums.head? ≠ some own → own ∈ nums → s.mgmt.arcUp = false → s.mgmt.arcDup = false →
        exec (.arcHello nums) s =
          .next (pushEvent ((s.send (.hello (nums ++ [own]))).modMgmt fun m => { m with arcDup := true }) 0x06 own))) ∧
    (∀ (p : Fin 6) (v : Word),
      let c := Tab.get s.mgmt.cxl p.val
      let set (f : Cxl → Cxl) : State := s.modMgmt fun m => { m with cxl := Tab.modify m.cxl p.val f }
      (c.en = true → exec (.cxlEnable p v) s = .next s) ∧
      (c.en = false →
        exec (.cxlEnable p v) s = .next (set fun c => { c with en := true, size := v.toNat % 2 ^ 12, lost := false, off := none })) ∧
      (c.en = true → portBusy s p.val = true →
        exec (.cxlDisable p v) s = .next (set fun c => { c with off := some (v &&& ~~~(oneBit 63)) })) ∧
      (c.en = false ∨ portBusy s p.val = false → exec (.cxlDisable p v) s =
        .next (set fun c => { c with en := false, size := v.toNat % 2 ^ 12, lost := false, off := none })) ∧
      exec (.cxlLinkTrained p) s = .next (set fun c => { c with up := true, lost := false }) ∧
      (c.up = false → exec (.cxlLinkDown p) s = .next s) ∧
      (c.up = true → exec (.cxlLinkDown p) s = .next (pushEvent (set fun c => { c with up := false, lost := c.en }) 0x09 p.val))) ∧
    (∀ (l : Fin 16) dir lane errors, exec (.linkLaneError l dir lane errors) s = .next (pushEvent s 0x07
      (lane % 2 ^ 6 + l.val * 2 ^ 8 + (if dir then 1 else 0) * 2 ^ 12 + errors % 2 ^ 32 * 2 ^ 16))) ∧
    ∀ p b, exec (.frameOnUnimplementedMode p b) s = .next s

/-! ## The machine as a whole -/

/-- R9 and R235, with the Reset columns of spec/09_memory.md, spec/12_engines.md, spec/13_rings.md, spec/14_attention.md,
spec/18_system.md and spec/19_boundary.md: what reset leaves. That general registers, the control store and the loop buffer
read 0 is the model's choice (log entry 4), and so is it that CXL memory reads 0 (log entry 2). -/
def Obligations.ResetLeavesTheStatedValues : Prop :=
  let s := State.reset
  (∀ t,
    let x := s.tile t
    x.bk.mode = 1 ∧ x.bk.bctlPc = 0 ∧ x.mem.bkmt = 1 ∧ (∀ i, Tab.get x.mem.mwin i = 0) ∧ x.mem.mwdrop = 0 ∧ x.mem.sbpend = 0 ∧
    x.orphan = 0 ∧ x.ring.rscfg = 0 ∧ x.ring.qskip = 0 ∧ x.ring.kvpool = 0 ∧ x.ring.kvstat = 0 ∧ x.seq.ascfg = 0 ∧ x.seq.st = 0 ∧
    x.sys.tvec = 0 ∧ x.sys.tfbase = 0 ∧ x.sys.ten = false ∧ x.sys.ebrk = false ∧ x.sys.snapbase = 0 ∧ x.sys.tracectl = 0 ∧
    x.sys.frozen = false ∧ x.sys.trigctl = 0 ∧ x.sys.posted = [] ∧ (∀ i, s.semOf t i = 0) ∧
    (∀ c, (s.chain t c).en = false ∧ (s.chain t c).issued = 0 ∧ (s.chain t c).done = 0 ∧ (s.chain t c).flt = false) ∧
    (∀ l, (s.launch t l).used = false) ∧ (∀ i, (Tab.get x.bk.r.g i).v = 0)) ∧
  (∀ w, (s.wall w).wayres = 0) ∧
  s.plinth.ptroot = 0 ∧ s.plinth.sigdrop = 0 ∧ s.plinth.seed = 0 ∧ s.plinth.unord = false ∧ s.plinth.qrbuf = 0 ∧ s.plinth.sampcfg = 0 ∧
  (∀ i, (Tab.get s.plinth.sbar i).en = false ∧ (Tab.get s.plinth.sbar i).epoch = 0) ∧ (∀ i, (Tab.get s.plinth.cgrp i).cgrp = 0) ∧
  s.mgmt.booterr = 0 ∧ s.mgmt.state = 0 ∧ s.mgmt.pwrCur = 0 ∧ s.mgmt.arcEn = false ∧ s.mgmt.evlost = 0 ∧ s.mgmt.flashSt = 0 ∧
  s.copies = [] ∧ s.cyc = 0 ∧ (∀ a, readByte s.mem a = 0) ∧ Safe s

/-- The invariant `Safe`: every step that answers a next state keeps memory in its canonical form, in which addresses rise
strictly and no zero byte is listed. The form is the model's own, no rule of the spec (log entry 2 says what an unlisted
address reads as); that reset has it is part of `ResetLeavesTheStatedValues`. -/
def Obligations.EveryStepKeepsMemoryCanonical : Prop := ∀ s t : State, Safe s → step s = .next t → Safe t

/-- R58, R59, R210, R318, R280, R393, and log entry 1: what a step runs. The next turn comes after the cycles that it waits; an event
whose cycle is fixed comes before it; otherwise the banker runs the word at its pc, as decoded with the operand values of that
moment, its trap if one is pending and that word takes no precise fault, or the word it emulates; the sequencer the microword at its
pc; the engine the head record of its chain, read through a shared port that serves it, or the record it has begun; and an event of
free timing is run as it stands. -/
def Obligations.StepRunsTheDecodedInstruction : Prop :=
  ∀ (s u : State) (x : Turn) (rest : List Turn) (left : Nat),
    s.agenda = x :: rest → passCycles x.delay { s with agenda := rest } = (u, left) →
    (∀ v i, exactNow u = some (v, i) → step s = exec i { v with agenda := { x with delay := left } :: v.agenda, strike := 0, held := [] }) ∧
    (exactNow u = none →
      let w := { openTurn u with strike := x.ecc, held := [] }
      let v := match x.who with
        | .banker t => ageAsked w t 0
        | .sequencer t => ageAsked w t 5
        | .engine t c => ageAsked w t (1 + c.val)
        | .event _ => w
      (∀ i, x.who = .event i → eventRuns v i = true → step s = exec i v) ∧
      (∀ i, x.who = .event i → eventRuns v i = false → step s = .next v) ∧
      (∀ t, x.who = .banker t → clockRuns v = true → v.tileOk t = true → (v.tile t).bk.mode = 0 →
        let b := (v.tile t).bk
        let issues := mayTakeTrap v t = false ∧ b.stall = .none ∧ b.nextIssue ≤ v.cyc
        (mayTakeTrap v t = true → b.stall ≠ .none → step s = exec (.trapEntry t) v) ∧
        (b.emul = none → b.stall = .none → mayTakeTrap v t = true ∨ issues → fetchWaits v t b.pc = true →
          step s = .next (askArea v t 0 b.pc.toNat 8)) ∧
        (∀ r w, b.emul = none → fetchWaits v t b.pc = false → fetchWord v t b.pc = .ok (r, w) →
          let i := decodeB (operandVal r t) w
          let y := { r with actor := t }
          let faults := ∃ z, exec i y = .next z ∧ ((z.tile t).sys.ten = false ∨ (z.tile t).bk.mode = 3)
          (issues ∨ (mayTakeTrap v t = true ∧ b.stall = .none ∧ faults) → step s = exec i y) ∧
          (mayTakeTrap v t = true → b.stall = .none → ¬ faults → step s = exec (.trapEntry t) v)) ∧
        (∀ tr, b.emul = none → fetchWaits v t b.pc = false → fetchWord v t b.pc = .error tr → b.hasPending v.cyc = false →
          mayTakeTrap v t = true ∧ b.stall = .none ∨ issues → step s = .next (fetchFault v t tr b.pc)) ∧
        (∀ e, b.emul = some e → e.ran = false → issues → step s = exec (decodeB (operandVal v t) e.word) { v with actor := t }) ∧
        (∀ e, b.emul = some e → e.ran = true → issues → b.hasPending v.cyc = false → step s = .next (emulDone v t e))) ∧
      (∀ t, x.who = .banker t → clockRuns w = false ∨ w.tileOk t = false → step s = .next w) ∧
      (∀ t, x.who = .banker t → clockRuns w = true → w.tileOk t = true → (v.tile t).bk.mode ≠ 0 → step s = .next v) ∧
      (∀ t, x.who = .sequencer t → clockRuns v = true → v.tileOk t = true → (v.tile t).seq.mayIssue v.cyc = true →
        (v.tile t).seq.stopReq = false ∨ (v.tile t).seq.mid ≠ .none →
        step s = exec (decodeM (Tab.get (v.tile t).seq.store ((v.tile t).seq.pc % 1024))) { v with actor := t }) ∧
      (∀ t c, x.who = .engine t c → clockRuns v = true → v.tileOk t = true → (v.chain t c.val).en = true →
        (v.chain t c.val).flt = false →
        let k := v.chain t c.val
        let a := { v with actor := t, actorChain := c.val }
        let r := chainPort c.val
        let p := usePort a t k.mt r 1
        let head := leNat (readMt p t k.mt (k.slotOff k.head) 32)
        (∀ i, k.run = .idle → k.hold = false → k.issued ≠ k.done → (a.port t k.mt).serves v.cyc r = true → x.ecc = 0 →
          decodeC head = some i → servedBy c.val i = true → step s = exec i (p.modChain t c.val fun y => { y with record := head })) ∧
        (k.run = .idle → k.hold = false → k.issued ≠ k.done → (a.port t k.mt).serves v.cyc r = false → step s = .next (askPort a t k.mt r)) ∧
        (k.run = .idle → (k.hold = true ∨ k.issued = k.done) → step s = .next a) ∧
        (∀ i, k.run ≠ .idle → decodeC k.record = some i → step s = exec i a)))

/-- R46, R55, R57, R58, R60 and R61, with the encodings that spec/04_integer.md, spec/05_float.md, spec/07_control.md,
spec/08_launch.md, spec/09_memory.md, spec/10_ordering.md, spec/14_attention.md, spec/18_system.md and the programs of spec/20
to spec/24 write out: their words decode to the instructions they stand for. -/
def Obligations.WordsDecodeAsTheirEncodingsSay : Prop :=
  let always : Guard := { neg := false, idx := 7 }
  let b (d : BDst) (x y : BSrc) : BForm := { guard := always, dst := d, a := x, b := y, c := .none }
  let e (d : EDst) (x y z : ESrc) : EForm := { guard := always, dst := d, a := x, b := y, c := z }
  (∀ rd : BSrc → Nat,
    decodeB rd 0x02008104105F = .bAdd ⟨false, false, .b64⟩ (b (.g 1) (.g 1) (.imm6 1)) ∧
    decodeB rd 0x01400130B01C = .bMov ⟨false, true, .b8⟩ (b (.g 12) (.g 11) .none) ∧
    decodeB rd 0x0E000118001C = .bMovi ⟨always, .g 6, 0⟩ ∧
    decodeB rd 0x40000000036C = .br ⟨⟨true, 3⟩, .none, 13⟩ ∧
    decodeB rd 0x4200017C039C = .call ⟨always, .g 31, 14⟩ ∧
    decodeB rd 0x47000300C09C = .loopi ⟨always, .lc 0, 0x302⟩ ∧
    decodeB rd 0x50008114201C = .launch (b (.g 5) (.g 2) (.imm6 0)) ∧
    decodeB rd 0x62009130E01E = .bLdg ⟨false, .b32, .plain, .arcade⟩ (b (.g 12) (.g 14) (.imm6 0)) ∧
    decodeB rd 0x6500052D625C = .bTlook (b (.g 11) (.g 22) (.g 9)) ∧
    decodeB rd 0x67000400E01C = .bTclr (b .none (.g 14) .none) ∧
    decodeB rd 0x78000D64D31E = .bAfadd ⟨false, .b32, .plain, .package⟩ (b (.g 25) (.g 13) (.g 12)) ∧
    decodeB rd 0x7A888400705E = .bSig true .tile (b .none (.imm6 7) (.imm6 1)) ∧
    decodeB rd 0x7D809001305E = .sigr true .arcade (b .none (.g 19) (.imm6 1)) ∧
    decodeB rd 0x80008158801C = .ecmd (b (.g 22) (.g 8) (.imm6 0)) ∧
    decodeB rd 0x89080158001C = .edrain (b (.g 22) (.imm6 0) .none) ∧
    decodeB rd 0x99000134401C = .kvwr (b (.g 13) (.g 4) .none) ∧
    decodeB rd 0xA1080124021C = .asgo (b (.g 9) (.imm6 0) (.g 8)) ∧
    decodeB rd 0xC2000130929C = .rngblk (b (.g 12) (.g 9) (.g 10)) ∧
    decodeB rd 0xF2000000102C = .trap { guard := ⟨true, 3⟩, dst := .none, a := .g 1, b := .none, c := .none } ∧
    decodeB rd 0xF900_0000_001C = .halt (b .none .none .none)) ∧
  decodeM 0x24840404 = .mWait true 2 1 4 ∧ decodeM 0x0D8C0402 = .mSubImm 6 3 2 ∧ decodeM 0x14180013 = .mBz 6 19 ∧
  decodeM 0x48C00000 = .fold 3 0 ∧ decodeM 0x28040006 = .mSig 1 6 ∧
  decodeC (0x5 + 0xC0001 * 2 ^ 64 + 0x1 * 2 ^ 128) =
    some (.cRsig { waitEn := false, sigEn := false, wsem := 0, wthr := 0, ssem := 0, sinc := 0, sscope := .region } 0xC0001 1) ∧
  decodeE 0x021C810D001E = some (.alu .add ⟨false, false, .b32⟩ (e (.k 3) (.nb .w) (.imm6 16) .none)) ∧
  decodeE 0x80C48D08305F = some (.atomic .aadd ⟨false, .b64, .acqRel, .package⟩ (e (.k 2) (.s 3) (.imm6 1) .none)) ∧
  decodeE 0x9006_4000_001C = some (.cell .sfeed (e .result (.s 0) (.ch 1) .none)) ∧
  decodeE 0x42C00108005C = some (.cvtn .rne .f32 (e (.k 2) (.k 0) (.k 1) .none)) ∧
  decodeE 0xA5204104001C = some (.sample .swin (e (.k 1) (.ch 0) (.s 0) (.k 0)))

/-- R46 to R58, R60, R61 and the encoding tables of the classes: every well-formed instruction of the four spaces has a word,
from which its decoder reads it again, with every operand. R48, R60, R67 and R71: a word that is not poison is the word of the
well-formed instruction it is read as, and of no other. -/
def Obligations.DecodingInvertsEncoding : Prop :=
  ((∀ (rd : BSrc → Nat) (i : Instr) (w : Nat), WellFormed i = true → encodeB i = some w → Selected rd i →
     w < 2 ^ 48 ∧ decodeB rd w = i) ∧
   (∀ (i : Instr) (w : Nat), WellFormed i = true → encodeM i = some w → w < 2 ^ 32 ∧ decodeM w = i) ∧
   (∀ (i : Instr) (w : Nat), WellFormed i = true → encodeC i = some w → w < 2 ^ 256 ∧ decodeC w = some i) ∧
   (∀ e : EInstr, e.wf = true → encodeE e < 2 ^ 48 ∧ decodeE (encodeE e) = some e)) ∧
  ((∀ (rd : BSrc → Nat) (w : Nat), (∀ x, decodeB rd w ≠ .bPoisonWord x) →
     WellFormed (decodeB rd w) = true ∧ encodeB (decodeB rd w) = some w ∧ Selected rd (decodeB rd w)) ∧
   (∀ w, w < 2 ^ 32 → (∀ x, decodeM w ≠ .mPoisonWord x) → WellFormed (decodeM w) = true ∧ encodeM (decodeM w) = some w) ∧
   (∀ w i, decodeC w = some i → WellFormed i = true ∧ encodeC i = some w) ∧
   (∀ w e, w < 2 ^ 48 → decodeE w = some e → e.wf = true ∧ encodeE e = w))
end

