-- ==== Sys2Proof/Laws/Tab.lean ====
section
/-!
SUPPORT. Laws of sparse tables: an entry that was set reads back, every other entry is as before. They hold of every list,
canonical or not.
-/
namespace Sys2Proof.Machine

theorem Tab.getD_put_self {α : Type} (d : α) (t : Tab α) (i : Nat) (v : α) : Tab.getD d (Tab.put t i v) i = v := by
  induction t with
  | nil => simp [Tab.put, Tab.getD]
  | cons p t ih =>
    obtain ⟨k, w⟩ := p
    unfold Tab.put
    split
    · simp [Tab.getD]
    · split
      · simp [Tab.getD]
      · simp [Tab.getD, *]

theorem Tab.getD_put_ne {α : Type} (d : α) (t : Tab α) {i j : Nat} (v : α) (h : j ≠ i) :
    Tab.getD d (Tab.put t i v) j = Tab.getD d t j := by
  induction t with
  | nil => simp [Tab.put, Tab.getD, Ne.symm h]
  | cons p t ih =>
    obtain ⟨k, w⟩ := p
    unfold Tab.put
    split
    · simp [Tab.getD, Ne.symm h]
    · split
      · subst k; simp [Tab.getD, Ne.symm h]
      · simp [Tab.getD, ih]

theorem Tab.getD_drop_self {α : Type} (d : α) (t : Tab α) (i : Nat) : Tab.getD d (Tab.drop t i) i = d := by
  induction t with
  | nil => rfl
  | cons p t ih =>
    obtain ⟨k, w⟩ := p
    unfold Tab.drop
    split
    · exact ih
    · simp [Tab.getD, *]

theorem Tab.getD_drop_ne {α : Type} (d : α) (t : Tab α) {i j : Nat} (h : j ≠ i) :
    Tab.getD d (Tab.drop t i) j = Tab.getD d t j := by
  induction t with
  | nil => rfl
  | cons p t ih =>
    obtain ⟨k, w⟩ := p
    unfold Tab.drop
    split
    · subst k; simp [Tab.getD, Ne.symm h, ih]
    · simp [Tab.getD, ih]

/-- An entry that was set reads back. -/
@[simp] theorem Tab.get_set_self {α : Type} [DecidableEq α] [Inhabited α] (t : Tab α) (i : Nat) (v : α) :
    Tab.get (Tab.set t i v) i = v := by
  unfold Tab.get Tab.set Tab.setD
  split
  · rename_i h; rw [Tab.getD_drop_self]; exact h.symm
  · exact Tab.getD_put_self ..

/-- Every entry but the one set is as before. -/
theorem Tab.get_set_ne {α : Type} [DecidableEq α] [Inhabited α] (t : Tab α) {i j : Nat} (v : α) (h : j ≠ i) :
    Tab.get (Tab.set t i v) j = Tab.get t j := by
  unfold Tab.get Tab.set Tab.setD
  split
  · exact Tab.getD_drop_ne _ _ h
  · exact Tab.getD_put_ne _ _ _ h

/-- What every entry reads after one was set. -/
theorem Tab.get_set {α : Type} [DecidableEq α] [Inhabited α] (t : Tab α) (i j : Nat) (v : α) :
    Tab.get (Tab.set t i v) j = if j = i then v else Tab.get t j := by
  split
  · rename_i h; subst h; simp
  · rename_i h; exact Tab.get_set_ne t v h

@[simp] theorem Tab.get_modify_self {α : Type} [DecidableEq α] [Inhabited α] (t : Tab α) (i : Nat) (f : α → α) :
    Tab.get (Tab.modify t i f) i = f (Tab.get t i) := Tab.get_set_self ..

theorem Tab.get_modify_ne {α : Type} [DecidableEq α] [Inhabited α] (t : Tab α) {i j : Nat} (f : α → α) (h : j ≠ i) :
    Tab.get (Tab.modify t i f) j = Tab.get t j := Tab.get_set_ne t _ h

/-- Every entry of an empty table is the default. -/
@[simp] theorem Tab.get_nil {α : Type} [Inhabited α] (i : Nat) : Tab.get ([] : Tab α) i = default := rfl

theorem Tab.get_tabOf_aux {α : Type} [DecidableEq α] [Inhabited α] (f : Nat → α) (l : List Nat) (t : Tab α) (j : Nat) :
    Tab.get (l.foldl (fun t i => Tab.set t i (f i)) t) j = if j ∈ l then f j else Tab.get t j := by
  induction l generalizing t with
  | nil => simp
  | cons i l ih =>
    rw [List.foldl_cons, ih, Tab.get_set]
    by_cases h : j = i
    · subst h; simp
    · simp [h]

end Sys2Proof.Machine
end

