-- ==== Sys2Proof/Laws/State.lean ====
section
/-!
SUPPORT. What each update of the state leaves: one lemma per field per update, so that no proof unfolds a record update.
-/
namespace Sys2Proof.Machine

@[simp] theorem State.modTile_cyc (s : State) (t : Nat) (f : Tile → Tile) : (s.modTile t f).cyc = s.cyc := rfl
@[simp] theorem State.modTile_agenda (s : State) (t : Nat) (f : Tile → Tile) : (s.modTile t f).agenda = s.agenda := rfl
@[simp] theorem State.modTile_draws (s : State) (t : Nat) (f : Tile → Tile) : (s.modTile t f).draws = s.draws := rfl
@[simp] theorem State.modTile_actor (s : State) (t : Nat) (f : Tile → Tile) : (s.modTile t f).actor = s.actor := rfl
@[simp] theorem State.modTile_actorChain (s : State) (t : Nat) (f : Tile → Tile) : (s.modTile t f).actorChain = s.actorChain := rfl
@[simp] theorem State.modTile_turnAt (s : State) (t : Nat) (f : Tile → Tile) : (s.modTile t f).turnAt = s.turnAt := rfl
@[simp] theorem State.modTile_mem (s : State) (t : Nat) (f : Tile → Tile) : (s.modTile t f).mem = s.mem := rfl
@[simp] theorem State.modTile_walls (s : State) (t : Nat) (f : Tile → Tile) : (s.modTile t f).walls = s.walls := rfl
@[simp] theorem State.modTile_plinth (s : State) (t : Nat) (f : Tile → Tile) : (s.modTile t f).plinth = s.plinth := rfl
@[simp] theorem State.modTile_mgmt (s : State) (t : Nat) (f : Tile → Tile) : (s.modTile t f).mgmt = s.mgmt := rfl
@[simp] theorem State.modTile_hw (s : State) (t : Nat) (f : Tile → Tile) : (s.modTile t f).hw = s.hw := rfl
@[simp] theorem State.modTile_copies (s : State) (t : Nat) (f : Tile → Tile) : (s.modTile t f).copies = s.copies := rfl
@[simp] theorem State.modTile_due (s : State) (t : Nat) (f : Tile → Tile) : (s.modTile t f).due = s.due := rfl
@[simp] theorem State.modTile_sched (s : State) (t : Nat) (f : Tile → Tile) : (s.modTile t f).sched = s.sched := rfl
@[simp] theorem State.modTile_out (s : State) (t : Nat) (f : Tile → Tile) : (s.modTile t f).out = s.out := rfl
@[simp] theorem State.modTile_stamp (s : State) (t : Nat) (f : Tile → Tile) : (s.modTile t f).stamp = s.stamp := rfl
@[simp] theorem State.modTile_was (s : State) (t : Nat) (f : Tile → Tile) : (s.modTile t f).was = s.was := rfl
@[simp] theorem State.modTile_xbar (s : State) (t : Nat) (f : Tile → Tile) : (s.modTile t f).xbar = s.xbar := rfl
@[simp] theorem State.modTile_net (s : State) (t : Nat) (f : Tile → Tile) : (s.modTile t f).net = s.net := rfl
@[simp] theorem State.modTile_strike (s : State) (t : Nat) (f : Tile → Tile) : (s.modTile t f).strike = s.strike := rfl
@[simp] theorem State.modTile_held (s : State) (t : Nat) (f : Tile → Tile) : (s.modTile t f).held = s.held := rfl
@[simp] theorem State.modTile_signals (s : State) (t : Nat) (f : Tile → Tile) : (s.modTile t f).signals = s.signals := rfl
@[simp] theorem State.modBk_cyc (s : State) (t : Nat) (f : Banker → Banker) : (s.modBk t f).cyc = s.cyc := rfl
@[simp] theorem State.modBk_agenda (s : State) (t : Nat) (f : Banker → Banker) : (s.modBk t f).agenda = s.agenda := rfl
@[simp] theorem State.modBk_draws (s : State) (t : Nat) (f : Banker → Banker) : (s.modBk t f).draws = s.draws := rfl
@[simp] theorem State.modBk_actor (s : State) (t : Nat) (f : Banker → Banker) : (s.modBk t f).actor = s.actor := rfl
@[simp] theorem State.modBk_actorChain (s : State) (t : Nat) (f : Banker → Banker) : (s.modBk t f).actorChain = s.actorChain := rfl
@[simp] theorem State.modBk_turnAt (s : State) (t : Nat) (f : Banker → Banker) : (s.modBk t f).turnAt = s.turnAt := rfl
@[simp] theorem State.modBk_mem (s : State) (t : Nat) (f : Banker → Banker) : (s.modBk t f).mem = s.mem := rfl
@[simp] theorem State.modBk_walls (s : State) (t : Nat) (f : Banker → Banker) : (s.modBk t f).walls = s.walls := rfl
@[simp] theorem State.modBk_plinth (s : State) (t : Nat) (f : Banker → Banker) : (s.modBk t f).plinth = s.plinth := rfl
@[simp] theorem State.modBk_mgmt (s : State) (t : Nat) (f : Banker → Banker) : (s.modBk t f).mgmt = s.mgmt := rfl
@[simp] theorem State.modBk_hw (s : State) (t : Nat) (f : Banker → Banker) : (s.modBk t f).hw = s.hw := rfl
@[simp] theorem State.modBk_copies (s : State) (t : Nat) (f : Banker → Banker) : (s.modBk t f).copies = s.copies := rfl
@[simp] theorem State.modBk_due (s : State) (t : Nat) (f : Banker → Banker) : (s.modBk t f).due = s.due := rfl
@[simp] theorem State.modBk_sched (s : State) (t : Nat) (f : Banker → Banker) : (s.modBk t f).sched = s.sched := rfl
@[simp] theorem State.modBk_out (s : State) (t : Nat) (f : Banker → Banker) : (s.modBk t f).out = s.out := rfl
@[simp] theorem State.modBk_stamp (s : State) (t : Nat) (f : Banker → Banker) : (s.modBk t f).stamp = s.stamp := rfl
@[simp] theorem State.modBk_was (s : State) (t : Nat) (f : Banker → Banker) : (s.modBk t f).was = s.was := rfl
@[simp] theorem State.modBk_xbar (s : State) (t : Nat) (f : Banker → Banker) : (s.modBk t f).xbar = s.xbar := rfl
@[simp] theorem State.modBk_net (s : State) (t : Nat) (f : Banker → Banker) : (s.modBk t f).net = s.net := rfl
@[simp] theorem State.modBk_strike (s : State) (t : Nat) (f : Banker → Banker) : (s.modBk t f).strike = s.strike := rfl
@[simp] theorem State.modBk_held (s : State) (t : Nat) (f : Banker → Banker) : (s.modBk t f).held = s.held := rfl
@[simp] theorem State.modBk_signals (s : State) (t : Nat) (f : Banker → Banker) : (s.modBk t f).signals = s.signals := rfl
@[simp] theorem State.modRegs_cyc (s : State) (t : Nat) (f : Regs → Regs) : (s.modRegs t f).cyc = s.cyc := rfl
@[simp] theorem State.modRegs_agenda (s : State) (t : Nat) (f : Regs → Regs) : (s.modRegs t f).agenda = s.agenda := rfl
@[simp] theorem State.modRegs_draws (s : State) (t : Nat) (f : Regs → Regs) : (s.modRegs t f).draws = s.draws := rfl
@[simp] theorem State.modRegs_actor (s : State) (t : Nat) (f : Regs → Regs) : (s.modRegs t f).actor = s.actor := rfl
@[simp] theorem State.modRegs_actorChain (s : State) (t : Nat) (f : Regs → Regs) : (s.modRegs t f).actorChain = s.actorChain := rfl
@[simp] theorem State.modRegs_turnAt (s : State) (t : Nat) (f : Regs → Regs) : (s.modRegs t f).turnAt = s.turnAt := rfl
@[simp] theorem State.modRegs_mem (s : State) (t : Nat) (f : Regs → Regs) : (s.modRegs t f).mem = s.mem := rfl
@[simp] theorem State.modRegs_walls (s : State) (t : Nat) (f : Regs → Regs) : (s.modRegs t f).walls = s.walls := rfl
@[simp] theorem State.modRegs_plinth (s : State) (t : Nat) (f : Regs → Regs) : (s.modRegs t f).plinth = s.plinth := rfl
@[simp] theorem State.modRegs_mgmt (s : State) (t : Nat) (f : Regs → Regs) : (s.modRegs t f).mgmt = s.mgmt := rfl
@[simp] theorem State.modRegs_hw (s : State) (t : Nat) (f : Regs → Regs) : (s.modRegs t f).hw = s.hw := rfl
@[simp] theorem State.modRegs_copies (s : State) (t : Nat) (f : Regs → Regs) : (s.modRegs t f).copies = s.copies := rfl
@[simp] theorem State.modRegs_due (s : State) (t : Nat) (f : Regs → Regs) : (s.modRegs t f).due = s.due := rfl
@[simp] theorem State.modRegs_sched (s : State) (t : Nat) (f : Regs → Regs) : (s.modRegs t f).sched = s.sched := rfl
@[simp] theorem State.modRegs_out (s : State) (t : Nat) (f : Regs → Regs) : (s.modRegs t f).out = s.out := rfl
@[simp] theorem State.modRegs_stamp (s : State) (t : Nat) (f : Regs → Regs) : (s.modRegs t f).stamp = s.stamp := rfl
@[simp] theorem State.modRegs_was (s : State) (t : Nat) (f : Regs → Regs) : (s.modRegs t f).was = s.was := rfl
@[simp] theorem State.modRegs_xbar (s : State) (t : Nat) (f : Regs → Regs) : (s.modRegs t f).xbar = s.xbar := rfl
@[simp] theorem State.modRegs_net (s : State) (t : Nat) (f : Regs → Regs) : (s.modRegs t f).net = s.net := rfl
@[simp] theorem State.modRegs_strike (s : State) (t : Nat) (f : Regs → Regs) : (s.modRegs t f).strike = s.strike := rfl
@[simp] theorem State.modRegs_held (s : State) (t : Nat) (f : Regs → Regs) : (s.modRegs t f).held = s.held := rfl
@[simp] theorem State.modRegs_signals (s : State) (t : Nat) (f : Regs → Regs) : (s.modRegs t f).signals = s.signals := rfl
@[simp] theorem State.modSys_cyc (s : State) (t : Nat) (f : TileSys → TileSys) : (s.modSys t f).cyc = s.cyc := rfl
@[simp] theorem State.modSys_agenda (s : State) (t : Nat) (f : TileSys → TileSys) : (s.modSys t f).agenda = s.agenda := rfl
@[simp] theorem State.modSys_draws (s : State) (t : Nat) (f : TileSys → TileSys) : (s.modSys t f).draws = s.draws := rfl
@[simp] theorem State.modSys_actor (s : State) (t : Nat) (f : TileSys → TileSys) : (s.modSys t f).actor = s.actor := rfl
@[simp] theorem State.modSys_actorChain (s : State) (t : Nat) (f : TileSys → TileSys) : (s.modSys t f).actorChain = s.actorChain := rfl
@[simp] theorem State.modSys_turnAt (s : State) (t : Nat) (f : TileSys → TileSys) : (s.modSys t f).turnAt = s.turnAt := rfl
@[simp] theorem State.modSys_mem (s : State) (t : Nat) (f : TileSys → TileSys) : (s.modSys t f).mem = s.mem := rfl
@[simp] theorem State.modSys_walls (s : State) (t : Nat) (f : TileSys → TileSys) : (s.modSys t f).walls = s.walls := rfl
@[simp] theorem State.modSys_plinth (s : State) (t : Nat) (f : TileSys → TileSys) : (s.modSys t f).plinth = s.plinth := rfl
@[simp] theorem State.modSys_mgmt (s : State) (t : Nat) (f : TileSys → TileSys) : (s.modSys t f).mgmt = s.mgmt := rfl
@[simp] theorem State.modSys_hw (s : State) (t : Nat) (f : TileSys → TileSys) : (s.modSys t f).hw = s.hw := rfl
@[simp] theorem State.modSys_copies (s : State) (t : Nat) (f : TileSys → TileSys) : (s.modSys t f).copies = s.copies := rfl
@[simp] theorem State.modSys_due (s : State) (t : Nat) (f : TileSys → TileSys) : (s.modSys t f).due = s.due := rfl
@[simp] theorem State.modSys_sched (s : State) (t : Nat) (f : TileSys → TileSys) : (s.modSys t f).sched = s.sched := rfl
@[simp] theorem State.modSys_out (s : State) (t : Nat) (f : TileSys → TileSys) : (s.modSys t f).out = s.out := rfl
@[simp] theorem State.modSys_stamp (s : State) (t : Nat) (f : TileSys → TileSys) : (s.modSys t f).stamp = s.stamp := rfl
@[simp] theorem State.modSys_was (s : State) (t : Nat) (f : TileSys → TileSys) : (s.modSys t f).was = s.was := rfl
@[simp] theorem State.modSys_xbar (s : State) (t : Nat) (f : TileSys → TileSys) : (s.modSys t f).xbar = s.xbar := rfl
@[simp] theorem State.modSys_net (s : State) (t : Nat) (f : TileSys → TileSys) : (s.modSys t f).net = s.net := rfl
@[simp] theorem State.modSys_strike (s : State) (t : Nat) (f : TileSys → TileSys) : (s.modSys t f).strike = s.strike := rfl
@[simp] theorem State.modSys_held (s : State) (t : Nat) (f : TileSys → TileSys) : (s.modSys t f).held = s.held := rfl
@[simp] theorem State.modSys_signals (s : State) (t : Nat) (f : TileSys → TileSys) : (s.modSys t f).signals = s.signals := rfl
@[simp] theorem State.modMem_cyc (s : State) (t : Nat) (f : TileMem → TileMem) : (s.modMem t f).cyc = s.cyc := rfl
@[simp] theorem State.modMem_agenda (s : State) (t : Nat) (f : TileMem → TileMem) : (s.modMem t f).agenda = s.agenda := rfl
@[simp] theorem State.modMem_draws (s : State) (t : Nat) (f : TileMem → TileMem) : (s.modMem t f).draws = s.draws := rfl
@[simp] theorem State.modMem_actor (s : State) (t : Nat) (f : TileMem → TileMem) : (s.modMem t f).actor = s.actor := rfl
@[simp] theorem State.modMem_actorChain (s : State) (t : Nat) (f : TileMem → TileMem) : (s.modMem t f).actorChain = s.actorChain := rfl
@[simp] theorem State.modMem_turnAt (s : State) (t : Nat) (f : TileMem → TileMem) : (s.modMem t f).turnAt = s.turnAt := rfl
@[simp] theorem State.modMem_mem (s : State) (t : Nat) (f : TileMem → TileMem) : (s.modMem t f).mem = s.mem := rfl
@[simp] theorem State.modMem_walls (s : State) (t : Nat) (f : TileMem → TileMem) : (s.modMem t f).walls = s.walls := rfl
@[simp] theorem State.modMem_plinth (s : State) (t : Nat) (f : TileMem → TileMem) : (s.modMem t f).plinth = s.plinth := rfl
@[simp] theorem State.modMem_mgmt (s : State) (t : Nat) (f : TileMem → TileMem) : (s.modMem t f).mgmt = s.mgmt := rfl
@[simp] theorem State.modMem_hw (s : State) (t : Nat) (f : TileMem → TileMem) : (s.modMem t f).hw = s.hw := rfl
@[simp] theorem State.modMem_copies (s : State) (t : Nat) (f : TileMem → TileMem) : (s.modMem t f).copies = s.copies := rfl
@[simp] theorem State.modMem_due (s : State) (t : Nat) (f : TileMem → TileMem) : (s.modMem t f).due = s.due := rfl
@[simp] theorem State.modMem_sched (s : State) (t : Nat) (f : TileMem → TileMem) : (s.modMem t f).sched = s.sched := rfl
@[simp] theorem State.modMem_out (s : State) (t : Nat) (f : TileMem → TileMem) : (s.modMem t f).out = s.out := rfl
@[simp] theorem State.modMem_stamp (s : State) (t : Nat) (f : TileMem → TileMem) : (s.modMem t f).stamp = s.stamp := rfl
@[simp] theorem State.modMem_was (s : State) (t : Nat) (f : TileMem → TileMem) : (s.modMem t f).was = s.was := rfl
@[simp] theorem State.modMem_xbar (s : State) (t : Nat) (f : TileMem → TileMem) : (s.modMem t f).xbar = s.xbar := rfl
@[simp] theorem State.modMem_net (s : State) (t : Nat) (f : TileMem → TileMem) : (s.modMem t f).net = s.net := rfl
@[simp] theorem State.modMem_strike (s : State) (t : Nat) (f : TileMem → TileMem) : (s.modMem t f).strike = s.strike := rfl
@[simp] theorem State.modMem_held (s : State) (t : Nat) (f : TileMem → TileMem) : (s.modMem t f).held = s.held := rfl
@[simp] theorem State.modMem_signals (s : State) (t : Nat) (f : TileMem → TileMem) : (s.modMem t f).signals = s.signals := rfl
@[simp] theorem State.modRing_cyc (s : State) (t : Nat) (f : RingStop → RingStop) : (s.modRing t f).cyc = s.cyc := rfl
@[simp] theorem State.modRing_agenda (s : State) (t : Nat) (f : RingStop → RingStop) : (s.modRing t f).agenda = s.agenda := rfl
@[simp] theorem State.modRing_draws (s : State) (t : Nat) (f : RingStop → RingStop) : (s.modRing t f).draws = s.draws := rfl
@[simp] theorem State.modRing_actor (s : State) (t : Nat) (f : RingStop → RingStop) : (s.modRing t f).actor = s.actor := rfl
@[simp] theorem State.modRing_actorChain (s : State) (t : Nat) (f : RingStop → RingStop) : (s.modRing t f).actorChain = s.actorChain := rfl
@[simp] theorem State.modRing_turnAt (s : State) (t : Nat) (f : RingStop → RingStop) : (s.modRing t f).turnAt = s.turnAt := rfl
@[simp] theorem State.modRing_mem (s : State) (t : Nat) (f : RingStop → RingStop) : (s.modRing t f).mem = s.mem := rfl
@[simp] theorem State.modRing_walls (s : State) (t : Nat) (f : RingStop → RingStop) : (s.modRing t f).walls = s.walls := rfl
@[simp] theorem State.modRing_plinth (s : State) (t : Nat) (f : RingStop → RingStop) : (s.modRing t f).plinth = s.plinth := rfl
@[simp] theorem State.modRing_mgmt (s : State) (t : Nat) (f : RingStop → RingStop) : (s.modRing t f).mgmt = s.mgmt := rfl
@[simp] theorem State.modRing_hw (s : State) (t : Nat) (f : RingStop → RingStop) : (s.modRing t f).hw = s.hw := rfl
@[simp] theorem State.modRing_copies (s : State) (t : Nat) (f : RingStop → RingStop) : (s.modRing t f).copies = s.copies := rfl
@[simp] theorem State.modRing_due (s : State) (t : Nat) (f : RingStop → RingStop) : (s.modRing t f).due = s.due := rfl
@[simp] theorem State.modRing_sched (s : State) (t : Nat) (f : RingStop → RingStop) : (s.modRing t f).sched = s.sched := rfl
@[simp] theorem State.modRing_out (s : State) (t : Nat) (f : RingStop → RingStop) : (s.modRing t f).out = s.out := rfl
@[simp] theorem State.modRing_stamp (s : State) (t : Nat) (f : RingStop → RingStop) : (s.modRing t f).stamp = s.stamp := rfl
@[simp] theorem State.modRing_was (s : State) (t : Nat) (f : RingStop → RingStop) : (s.modRing t f).was = s.was := rfl
@[simp] theorem State.modRing_xbar (s : State) (t : Nat) (f : RingStop → RingStop) : (s.modRing t f).xbar = s.xbar := rfl
@[simp] theorem State.modRing_net (s : State) (t : Nat) (f : RingStop → RingStop) : (s.modRing t f).net = s.net := rfl
@[simp] theorem State.modRing_strike (s : State) (t : Nat) (f : RingStop → RingStop) : (s.modRing t f).strike = s.strike := rfl
@[simp] theorem State.modRing_held (s : State) (t : Nat) (f : RingStop → RingStop) : (s.modRing t f).held = s.held := rfl
@[simp] theorem State.modRing_signals (s : State) (t : Nat) (f : RingStop → RingStop) : (s.modRing t f).signals = s.signals := rfl
@[simp] theorem State.modSeq_cyc (s : State) (t : Nat) (f : Seq → Seq) : (s.modSeq t f).cyc = s.cyc := rfl
@[simp] theorem State.modSeq_agenda (s : State) (t : Nat) (f : Seq → Seq) : (s.modSeq t f).agenda = s.agenda := rfl
@[simp] theorem State.modSeq_draws (s : State) (t : Nat) (f : Seq → Seq) : (s.modSeq t f).draws = s.draws := rfl
@[simp] theorem State.modSeq_actor (s : State) (t : Nat) (f : Seq → Seq) : (s.modSeq t f).actor = s.actor := rfl
@[simp] theorem State.modSeq_actorChain (s : State) (t : Nat) (f : Seq → Seq) : (s.modSeq t f).actorChain = s.actorChain := rfl
@[simp] theorem State.modSeq_turnAt (s : State) (t : Nat) (f : Seq → Seq) : (s.modSeq t f).turnAt = s.turnAt := rfl
@[simp] theorem State.modSeq_mem (s : State) (t : Nat) (f : Seq → Seq) : (s.modSeq t f).mem = s.mem := rfl
@[simp] theorem State.modSeq_walls (s : State) (t : Nat) (f : Seq → Seq) : (s.modSeq t f).walls = s.walls := rfl
@[simp] theorem State.modSeq_plinth (s : State) (t : Nat) (f : Seq → Seq) : (s.modSeq t f).plinth = s.plinth := rfl
@[simp] theorem State.modSeq_mgmt (s : State) (t : Nat) (f : Seq → Seq) : (s.modSeq t f).mgmt = s.mgmt := rfl
@[simp] theorem State.modSeq_hw (s : State) (t : Nat) (f : Seq → Seq) : (s.modSeq t f).hw = s.hw := rfl
@[simp] theorem State.modSeq_copies (s : State) (t : Nat) (f : Seq → Seq) : (s.modSeq t f).copies = s.copies := rfl
@[simp] theorem State.modSeq_due (s : State) (t : Nat) (f : Seq → Seq) : (s.modSeq t f).due = s.due := rfl
@[simp] theorem State.modSeq_sched (s : State) (t : Nat) (f : Seq → Seq) : (s.modSeq t f).sched = s.sched := rfl
@[simp] theorem State.modSeq_out (s : State) (t : Nat) (f : Seq → Seq) : (s.modSeq t f).out = s.out := rfl
@[simp] theorem State.modSeq_stamp (s : State) (t : Nat) (f : Seq → Seq) : (s.modSeq t f).stamp = s.stamp := rfl
@[simp] theorem State.modSeq_was (s : State) (t : Nat) (f : Seq → Seq) : (s.modSeq t f).was = s.was := rfl
@[simp] theorem State.modSeq_xbar (s : State) (t : Nat) (f : Seq → Seq) : (s.modSeq t f).xbar = s.xbar := rfl
@[simp] theorem State.modSeq_net (s : State) (t : Nat) (f : Seq → Seq) : (s.modSeq t f).net = s.net := rfl
@[simp] theorem State.modSeq_strike (s : State) (t : Nat) (f : Seq → Seq) : (s.modSeq t f).strike = s.strike := rfl
@[simp] theorem State.modSeq_held (s : State) (t : Nat) (f : Seq → Seq) : (s.modSeq t f).held = s.held := rfl
@[simp] theorem State.modSeq_signals (s : State) (t : Nat) (f : Seq → Seq) : (s.modSeq t f).signals = s.signals := rfl
@[simp] theorem State.modChain_cyc (s : State) (t c : Nat) (f : Chain → Chain) : (s.modChain t c f).cyc = s.cyc := rfl
@[simp] theorem State.modChain_agenda (s : State) (t c : Nat) (f : Chain → Chain) : (s.modChain t c f).agenda = s.agenda := rfl
@[simp] theorem State.modChain_draws (s : State) (t c : Nat) (f : Chain → Chain) : (s.modChain t c f).draws = s.draws := rfl
@[simp] theorem State.modChain_actor (s : State) (t c : Nat) (f : Chain → Chain) : (s.modChain t c f).actor = s.actor := rfl
@[simp] theorem State.modChain_actorChain (s : State) (t c : Nat) (f : Chain → Chain) : (s.modChain t c f).actorChain = s.actorChain := rfl
@[simp] theorem State.modChain_turnAt (s : State) (t c : Nat) (f : Chain → Chain) : (s.modChain t c f).turnAt = s.turnAt := rfl
@[simp] theorem State.modChain_mem (s : State) (t c : Nat) (f : Chain → Chain) : (s.modChain t c f).mem = s.mem := rfl
@[simp] theorem State.modChain_walls (s : State) (t c : Nat) (f : Chain → Chain) : (s.modChain t c f).walls = s.walls := rfl
@[simp] theorem State.modChain_plinth (s : State) (t c : Nat) (f : Chain → Chain) : (s.modChain t c f).plinth = s.plinth := rfl
@[simp] theorem State.modChain_mgmt (s : State) (t c : Nat) (f : Chain → Chain) : (s.modChain t c f).mgmt = s.mgmt := rfl
@[simp] theorem State.modChain_hw (s : State) (t c : Nat) (f : Chain → Chain) : (s.modChain t c f).hw = s.hw := rfl
@[simp] theorem State.modChain_copies (s : State) (t c : Nat) (f : Chain → Chain) : (s.modChain t c f).copies = s.copies := rfl
@[simp] theorem State.modChain_due (s : State) (t c : Nat) (f : Chain → Chain) : (s.modChain t c f).due = s.due := rfl
@[simp] theorem State.modChain_sched (s : State) (t c : Nat) (f : Chain → Chain) : (s.modChain t c f).sched = s.sched := rfl
@[simp] theorem State.modChain_out (s : State) (t c : Nat) (f : Chain → Chain) : (s.modChain t c f).out = s.out := rfl
@[simp] theorem State.modChain_stamp (s : State) (t c : Nat) (f : Chain → Chain) : (s.modChain t c f).stamp = s.stamp := rfl
@[simp] theorem State.modChain_was (s : State) (t c : Nat) (f : Chain → Chain) : (s.modChain t c f).was = s.was := rfl
@[simp] theorem State.modChain_xbar (s : State) (t c : Nat) (f : Chain → Chain) : (s.modChain t c f).xbar = s.xbar := rfl
@[simp] theorem State.modChain_net (s : State) (t c : Nat) (f : Chain → Chain) : (s.modChain t c f).net = s.net := rfl
@[simp] theorem State.modChain_strike (s : State) (t c : Nat) (f : Chain → Chain) : (s.modChain t c f).strike = s.strike := rfl
@[simp] theorem State.modChain_held (s : State) (t c : Nat) (f : Chain → Chain) : (s.modChain t c f).held = s.held := rfl
@[simp] theorem State.modChain_signals (s : State) (t c : Nat) (f : Chain → Chain) : (s.modChain t c f).signals = s.signals := rfl
@[simp] theorem State.modLaunch_cyc (s : State) (t lid : Nat) (f : Launch → Launch) : (s.modLaunch t lid f).cyc = s.cyc := rfl
@[simp] theorem State.modLaunch_agenda (s : State) (t lid : Nat) (f : Launch → Launch) : (s.modLaunch t lid f).agenda = s.agenda := rfl
@[simp] theorem State.modLaunch_draws (s : State) (t lid : Nat) (f : Launch → Launch) : (s.modLaunch t lid f).draws = s.draws := rfl
@[simp] theorem State.modLaunch_actor (s : State) (t lid : Nat) (f : Launch → Launch) : (s.modLaunch t lid f).actor = s.actor := rfl
@[simp] theorem State.modLaunch_actorChain (s : State) (t lid : Nat) (f : Launch → Launch) : (s.modLaunch t lid f).actorChain = s.actorChain := rfl
@[simp] theorem State.modLaunch_turnAt (s : State) (t lid : Nat) (f : Launch → Launch) : (s.modLaunch t lid f).turnAt = s.turnAt := rfl
@[simp] theorem State.modLaunch_mem (s : State) (t lid : Nat) (f : Launch → Launch) : (s.modLaunch t lid f).mem = s.mem := rfl
@[simp] theorem State.modLaunch_walls (s : State) (t lid : Nat) (f : Launch → Launch) : (s.modLaunch t lid f).walls = s.walls := rfl
@[simp] theorem State.modLaunch_plinth (s : State) (t lid : Nat) (f : Launch → Launch) : (s.modLaunch t lid f).plinth = s.plinth := rfl
@[simp] theorem State.modLaunch_mgmt (s : State) (t lid : Nat) (f : Launch → Launch) : (s.modLaunch t lid f).mgmt = s.mgmt := rfl
@[simp] theorem State.modLaunch_hw (s : State) (t lid : Nat) (f : Launch → Launch) : (s.modLaunch t lid f).hw = s.hw := rfl
@[simp] theorem State.modLaunch_copies (s : State) (t lid : Nat) (f : Launch → Launch) : (s.modLaunch t lid f).copies = s.copies := rfl
@[simp] theorem State.modLaunch_due (s : State) (t lid : Nat) (f : Launch → Launch) : (s.modLaunch t lid f).due = s.due := rfl
@[simp] theorem State.modLaunch_sched (s : State) (t lid : Nat) (f : Launch → Launch) : (s.modLaunch t lid f).sched = s.sched := rfl
@[simp] theorem State.modLaunch_out (s : State) (t lid : Nat) (f : Launch → Launch) : (s.modLaunch t lid f).out = s.out := rfl
@[simp] theorem State.modLaunch_stamp (s : State) (t lid : Nat) (f : Launch → Launch) : (s.modLaunch t lid f).stamp = s.stamp := rfl
@[simp] theorem State.modLaunch_was (s : State) (t lid : Nat) (f : Launch → Launch) : (s.modLaunch t lid f).was = s.was := rfl
@[simp] theorem State.modLaunch_xbar (s : State) (t lid : Nat) (f : Launch → Launch) : (s.modLaunch t lid f).xbar = s.xbar := rfl
@[simp] theorem State.modLaunch_net (s : State) (t lid : Nat) (f : Launch → Launch) : (s.modLaunch t lid f).net = s.net := rfl
@[simp] theorem State.modLaunch_strike (s : State) (t lid : Nat) (f : Launch → Launch) : (s.modLaunch t lid f).strike = s.strike := rfl
@[simp] theorem State.modLaunch_held (s : State) (t lid : Nat) (f : Launch → Launch) : (s.modLaunch t lid f).held = s.held := rfl
@[simp] theorem State.modLaunch_signals (s : State) (t lid : Nat) (f : Launch → Launch) : (s.modLaunch t lid f).signals = s.signals := rfl
@[simp] theorem State.modWall_cyc (s : State) (w : Nat) (f : Wall → Wall) : (s.modWall w f).cyc = s.cyc := rfl
@[simp] theorem State.modWall_agenda (s : State) (w : Nat) (f : Wall → Wall) : (s.modWall w f).agenda = s.agenda := rfl
@[simp] theorem State.modWall_draws (s : State) (w : Nat) (f : Wall → Wall) : (s.modWall w f).draws = s.draws := rfl
@[simp] theorem State.modWall_actor (s : State) (w : Nat) (f : Wall → Wall) : (s.modWall w f).actor = s.actor := rfl
@[simp] theorem State.modWall_actorChain (s : State) (w : Nat) (f : Wall → Wall) : (s.modWall w f).actorChain = s.actorChain := rfl
@[simp] theorem State.modWall_turnAt (s : State) (w : Nat) (f : Wall → Wall) : (s.modWall w f).turnAt = s.turnAt := rfl
@[simp] theorem State.modWall_mem (s : State) (w : Nat) (f : Wall → Wall) : (s.modWall w f).mem = s.mem := rfl
@[simp] theorem State.modWall_tiles (s : State) (w : Nat) (f : Wall → Wall) : (s.modWall w f).tiles = s.tiles := rfl
@[simp] theorem State.modWall_plinth (s : State) (w : Nat) (f : Wall → Wall) : (s.modWall w f).plinth = s.plinth := rfl
@[simp] theorem State.modWall_mgmt (s : State) (w : Nat) (f : Wall → Wall) : (s.modWall w f).mgmt = s.mgmt := rfl
@[simp] theorem State.modWall_hw (s : State) (w : Nat) (f : Wall → Wall) : (s.modWall w f).hw = s.hw := rfl
@[simp] theorem State.modWall_copies (s : State) (w : Nat) (f : Wall → Wall) : (s.modWall w f).copies = s.copies := rfl
@[simp] theorem State.modWall_due (s : State) (w : Nat) (f : Wall → Wall) : (s.modWall w f).due = s.due := rfl
@[simp] theorem State.modWall_sched (s : State) (w : Nat) (f : Wall → Wall) : (s.modWall w f).sched = s.sched := rfl
@[simp] theorem State.modWall_out (s : State) (w : Nat) (f : Wall → Wall) : (s.modWall w f).out = s.out := rfl
@[simp] theorem State.modWall_stamp (s : State) (w : Nat) (f : Wall → Wall) : (s.modWall w f).stamp = s.stamp := rfl
@[simp] theorem State.modWall_was (s : State) (w : Nat) (f : Wall → Wall) : (s.modWall w f).was = s.was := rfl
@[simp] theorem State.modWall_xbar (s : State) (w : Nat) (f : Wall → Wall) : (s.modWall w f).xbar = s.xbar := rfl
@[simp] theorem State.modWall_net (s : State) (w : Nat) (f : Wall → Wall) : (s.modWall w f).net = s.net := rfl
@[simp] theorem State.modWall_strike (s : State) (w : Nat) (f : Wall → Wall) : (s.modWall w f).strike = s.strike := rfl
@[simp] theorem State.modWall_held (s : State) (w : Nat) (f : Wall → Wall) : (s.modWall w f).held = s.held := rfl
@[simp] theorem State.modWall_signals (s : State) (w : Nat) (f : Wall → Wall) : (s.modWall w f).signals = s.signals := rfl
@[simp] theorem State.modPlinth_cyc (s : State) (f : Plinth → Plinth) : (s.modPlinth f).cyc = s.cyc := rfl
@[simp] theorem State.modPlinth_agenda (s : State) (f : Plinth → Plinth) : (s.modPlinth f).agenda = s.agenda := rfl
@[simp] theorem State.modPlinth_draws (s : State) (f : Plinth → Plinth) : (s.modPlinth f).draws = s.draws := rfl
@[simp] theorem State.modPlinth_actor (s : State) (f : Plinth → Plinth) : (s.modPlinth f).actor = s.actor := rfl
@[simp] theorem State.modPlinth_actorChain (s : State) (f : Plinth → Plinth) : (s.modPlinth f).actorChain = s.actorChain := rfl
@[simp] theorem State.modPlinth_turnAt (s : State) (f : Plinth → Plinth) : (s.modPlinth f).turnAt = s.turnAt := rfl
@[simp] theorem State.modPlinth_mem (s : State) (f : Plinth → Plinth) : (s.modPlinth f).mem = s.mem := rfl
@[simp] theorem State.modPlinth_tiles (s : State) (f : Plinth → Plinth) : (s.modPlinth f).tiles = s.tiles := rfl
@[simp] theorem State.modPlinth_walls (s : State) (f : Plinth → Plinth) : (s.modPlinth f).walls = s.walls := rfl
@[simp] theorem State.modPlinth_mgmt (s : State) (f : Plinth → Plinth) : (s.modPlinth f).mgmt = s.mgmt := rfl
@[simp] theorem State.modPlinth_hw (s : State) (f : Plinth → Plinth) : (s.modPlinth f).hw = s.hw := rfl
@[simp] theorem State.modPlinth_copies (s : State) (f : Plinth → Plinth) : (s.modPlinth f).copies = s.copies := rfl
@[simp] theorem State.modPlinth_due (s : State) (f : Plinth → Plinth) : (s.modPlinth f).due = s.due := rfl
@[simp] theorem State.modPlinth_sched (s : State) (f : Plinth → Plinth) : (s.modPlinth f).sched = s.sched := rfl
@[simp] theorem State.modPlinth_out (s : State) (f : Plinth → Plinth) : (s.modPlinth f).out = s.out := rfl
@[simp] theorem State.modPlinth_stamp (s : State) (f : Plinth → Plinth) : (s.modPlinth f).stamp = s.stamp := rfl
@[simp] theorem State.modPlinth_was (s : State) (f : Plinth → Plinth) : (s.modPlinth f).was = s.was := rfl
@[simp] theorem State.modPlinth_xbar (s : State) (f : Plinth → Plinth) : (s.modPlinth f).xbar = s.xbar := rfl
@[simp] theorem State.modPlinth_net (s : State) (f : Plinth → Plinth) : (s.modPlinth f).net = s.net := rfl
@[simp] theorem State.modPlinth_strike (s : State) (f : Plinth → Plinth) : (s.modPlinth f).strike = s.strike := rfl
@[simp] theorem State.modPlinth_held (s : State) (f : Plinth → Plinth) : (s.modPlinth f).held = s.held := rfl
@[simp] theorem State.modPlinth_signals (s : State) (f : Plinth → Plinth) : (s.modPlinth f).signals = s.signals := rfl
@[simp] theorem State.modMgmt_cyc (s : State) (f : Mgmt → Mgmt) : (s.modMgmt f).cyc = s.cyc := rfl
@[simp] theorem State.modMgmt_agenda (s : State) (f : Mgmt → Mgmt) : (s.modMgmt f).agenda = s.agenda := rfl
@[simp] theorem State.modMgmt_draws (s : State) (f : Mgmt → Mgmt) : (s.modMgmt f).draws = s.draws := rfl
@[simp] theorem State.modMgmt_actor (s : State) (f : Mgmt → Mgmt) : (s.modMgmt f).actor = s.actor := rfl
@[simp] theorem State.modMgmt_actorChain (s : State) (f : Mgmt → Mgmt) : (s.modMgmt f).actorChain = s.actorChain := rfl
@[simp] theorem State.modMgmt_turnAt (s : State) (f : Mgmt → Mgmt) : (s.modMgmt f).turnAt = s.turnAt := rfl
@[simp] theorem State.modMgmt_mem (s : State) (f : Mgmt → Mgmt) : (s.modMgmt f).mem = s.mem := rfl
@[simp] theorem State.modMgmt_tiles (s : State) (f : Mgmt → Mgmt) : (s.modMgmt f).tiles = s.tiles := rfl
@[simp] theorem State.modMgmt_walls (s : State) (f : Mgmt → Mgmt) : (s.modMgmt f).walls = s.walls := rfl
@[simp] theorem State.modMgmt_plinth (s : State) (f : Mgmt → Mgmt) : (s.modMgmt f).plinth = s.plinth := rfl
@[simp] theorem State.modMgmt_hw (s : State) (f : Mgmt → Mgmt) : (s.modMgmt f).hw = s.hw := rfl
@[simp] theorem State.modMgmt_copies (s : State) (f : Mgmt → Mgmt) : (s.modMgmt f).copies = s.copies := rfl
@[simp] theorem State.modMgmt_due (s : State) (f : Mgmt → Mgmt) : (s.modMgmt f).due = s.due := rfl
@[simp] theorem State.modMgmt_sched (s : State) (f : Mgmt → Mgmt) : (s.modMgmt f).sched = s.sched := rfl
@[simp] theorem State.modMgmt_out (s : State) (f : Mgmt → Mgmt) : (s.modMgmt f).out = s.out := rfl
@[simp] theorem State.modMgmt_stamp (s : State) (f : Mgmt → Mgmt) : (s.modMgmt f).stamp = s.stamp := rfl
@[simp] theorem State.modMgmt_was (s : State) (f : Mgmt → Mgmt) : (s.modMgmt f).was = s.was := rfl
@[simp] theorem State.modMgmt_xbar (s : State) (f : Mgmt → Mgmt) : (s.modMgmt f).xbar = s.xbar := rfl
@[simp] theorem State.modMgmt_net (s : State) (f : Mgmt → Mgmt) : (s.modMgmt f).net = s.net := rfl
@[simp] theorem State.modMgmt_strike (s : State) (f : Mgmt → Mgmt) : (s.modMgmt f).strike = s.strike := rfl
@[simp] theorem State.modMgmt_held (s : State) (f : Mgmt → Mgmt) : (s.modMgmt f).held = s.held := rfl
@[simp] theorem State.modMgmt_signals (s : State) (f : Mgmt → Mgmt) : (s.modMgmt f).signals = s.signals := rfl
@[simp] theorem State.modCopy_cyc (s : State) (c : CopyRef) (f : Copy → Copy) : (s.modCopy c f).cyc = s.cyc := rfl
@[simp] theorem State.modCopy_agenda (s : State) (c : CopyRef) (f : Copy → Copy) : (s.modCopy c f).agenda = s.agenda := rfl
@[simp] theorem State.modCopy_draws (s : State) (c : CopyRef) (f : Copy → Copy) : (s.modCopy c f).draws = s.draws := rfl
@[simp] theorem State.modCopy_actor (s : State) (c : CopyRef) (f : Copy → Copy) : (s.modCopy c f).actor = s.actor := rfl
@[simp] theorem State.modCopy_actorChain (s : State) (c : CopyRef) (f : Copy → Copy) : (s.modCopy c f).actorChain = s.actorChain := rfl
@[simp] theorem State.modCopy_turnAt (s : State) (c : CopyRef) (f : Copy → Copy) : (s.modCopy c f).turnAt = s.turnAt := rfl
@[simp] theorem State.modCopy_mem (s : State) (c : CopyRef) (f : Copy → Copy) : (s.modCopy c f).mem = s.mem := rfl
@[simp] theorem State.modCopy_tiles (s : State) (c : CopyRef) (f : Copy → Copy) : (s.modCopy c f).tiles = s.tiles := rfl
@[simp] theorem State.modCopy_walls (s : State) (c : CopyRef) (f : Copy → Copy) : (s.modCopy c f).walls = s.walls := rfl
@[simp] theorem State.modCopy_plinth (s : State) (c : CopyRef) (f : Copy → Copy) : (s.modCopy c f).plinth = s.plinth := rfl
@[simp] theorem State.modCopy_mgmt (s : State) (c : CopyRef) (f : Copy → Copy) : (s.modCopy c f).mgmt = s.mgmt := rfl
@[simp] theorem State.modCopy_hw (s : State) (c : CopyRef) (f : Copy → Copy) : (s.modCopy c f).hw = s.hw := rfl
@[simp] theorem State.modCopy_due (s : State) (c : CopyRef) (f : Copy → Copy) : (s.modCopy c f).due = s.due := rfl
@[simp] theorem State.modCopy_sched (s : State) (c : CopyRef) (f : Copy → Copy) : (s.modCopy c f).sched = s.sched := rfl
@[simp] theorem State.modCopy_out (s : State) (c : CopyRef) (f : Copy → Copy) : (s.modCopy c f).out = s.out := rfl
@[simp] theorem State.modCopy_stamp (s : State) (c : CopyRef) (f : Copy → Copy) : (s.modCopy c f).stamp = s.stamp := rfl
@[simp] theorem State.modCopy_was (s : State) (c : CopyRef) (f : Copy → Copy) : (s.modCopy c f).was = s.was := rfl
@[simp] theorem State.modCopy_xbar (s : State) (c : CopyRef) (f : Copy → Copy) : (s.modCopy c f).xbar = s.xbar := rfl
@[simp] theorem State.modCopy_net (s : State) (c : CopyRef) (f : Copy → Copy) : (s.modCopy c f).net = s.net := rfl
@[simp] theorem State.modCopy_strike (s : State) (c : CopyRef) (f : Copy → Copy) : (s.modCopy c f).strike = s.strike := rfl
@[simp] theorem State.modCopy_held (s : State) (c : CopyRef) (f : Copy → Copy) : (s.modCopy c f).held = s.held := rfl
@[simp] theorem State.modCopy_signals (s : State) (c : CopyRef) (f : Copy → Copy) : (s.modCopy c f).signals = s.signals := rfl
@[simp] theorem State.dropCopy_cyc (s : State) (c : CopyRef) : (s.dropCopy c).cyc = s.cyc := rfl
@[simp] theorem State.dropCopy_agenda (s : State) (c : CopyRef) : (s.dropCopy c).agenda = s.agenda := rfl
@[simp] theorem State.dropCopy_draws (s : State) (c : CopyRef) : (s.dropCopy c).draws = s.draws := rfl
@[simp] theorem State.dropCopy_actor (s : State) (c : CopyRef) : (s.dropCopy c).actor = s.actor := rfl
@[simp] theorem State.dropCopy_actorChain (s : State) (c : CopyRef) : (s.dropCopy c).actorChain = s.actorChain := rfl
@[simp] theorem State.dropCopy_turnAt (s : State) (c : CopyRef) : (s.dropCopy c).turnAt = s.turnAt := rfl
@[simp] theorem State.dropCopy_mem (s : State) (c : CopyRef) : (s.dropCopy c).mem = s.mem := rfl
@[simp] theorem State.dropCopy_tiles (s : State) (c : CopyRef) : (s.dropCopy c).tiles = s.tiles := rfl
@[simp] theorem State.dropCopy_walls (s : State) (c : CopyRef) : (s.dropCopy c).walls = s.walls := rfl
@[simp] theorem State.dropCopy_plinth (s : State) (c : CopyRef) : (s.dropCopy c).plinth = s.plinth := rfl
@[simp] theorem State.dropCopy_mgmt (s : State) (c : CopyRef) : (s.dropCopy c).mgmt = s.mgmt := rfl
@[simp] theorem State.dropCopy_hw (s : State) (c : CopyRef) : (s.dropCopy c).hw = s.hw := rfl
@[simp] theorem State.dropCopy_due (s : State) (c : CopyRef) : (s.dropCopy c).due = s.due := rfl
@[simp] theorem State.dropCopy_sched (s : State) (c : CopyRef) : (s.dropCopy c).sched = s.sched := rfl
@[simp] theorem State.dropCopy_out (s : State) (c : CopyRef) : (s.dropCopy c).out = s.out := rfl
@[simp] theorem State.dropCopy_stamp (s : State) (c : CopyRef) : (s.dropCopy c).stamp = s.stamp := rfl
@[simp] theorem State.dropCopy_was (s : State) (c : CopyRef) : (s.dropCopy c).was = s.was := rfl
@[simp] theorem State.dropCopy_xbar (s : State) (c : CopyRef) : (s.dropCopy c).xbar = s.xbar := rfl
@[simp] theorem State.dropCopy_net (s : State) (c : CopyRef) : (s.dropCopy c).net = s.net := rfl
@[simp] theorem State.dropCopy_strike (s : State) (c : CopyRef) : (s.dropCopy c).strike = s.strike := rfl
@[simp] theorem State.dropCopy_held (s : State) (c : CopyRef) : (s.dropCopy c).held = s.held := rfl
@[simp] theorem State.dropCopy_signals (s : State) (c : CopyRef) : (s.dropCopy c).signals = s.signals := rfl
@[simp] theorem State.send_cyc (s : State) (m : OutMsg) : (s.send m).cyc = s.cyc := rfl
@[simp] theorem State.send_agenda (s : State) (m : OutMsg) : (s.send m).agenda = s.agenda := rfl
@[simp] theorem State.send_draws (s : State) (m : OutMsg) : (s.send m).draws = s.draws := rfl
@[simp] theorem State.send_actor (s : State) (m : OutMsg) : (s.send m).actor = s.actor := rfl
@[simp] theorem State.send_actorChain (s : State) (m : OutMsg) : (s.send m).actorChain = s.actorChain := rfl
@[simp] theorem State.send_turnAt (s : State) (m : OutMsg) : (s.send m).turnAt = s.turnAt := rfl
@[simp] theorem State.send_mem (s : State) (m : OutMsg) : (s.send m).mem = s.mem := rfl
@[simp] theorem State.send_tiles (s : State) (m : OutMsg) : (s.send m).tiles = s.tiles := rfl
@[simp] theorem State.send_walls (s : State) (m : OutMsg) : (s.send m).walls = s.walls := rfl
@[simp] theorem State.send_plinth (s : State) (m : OutMsg) : (s.send m).plinth = s.plinth := rfl
@[simp] theorem State.send_mgmt (s : State) (m : OutMsg) : (s.send m).mgmt = s.mgmt := rfl
@[simp] theorem State.send_hw (s : State) (m : OutMsg) : (s.send m).hw = s.hw := rfl
@[simp] theorem State.send_copies (s : State) (m : OutMsg) : (s.send m).copies = s.copies := rfl
@[simp] theorem State.send_due (s : State) (m : OutMsg) : (s.send m).due = s.due := rfl
@[simp] theorem State.send_sched (s : State) (m : OutMsg) : (s.send m).sched = s.sched := rfl
@[simp] theorem State.modPlinth_plinth (s : State) (f : Plinth → Plinth) : (s.modPlinth f).plinth = f s.plinth := rfl
@[simp] theorem State.modMgmt_mgmt (s : State) (f : Mgmt → Mgmt) : (s.modMgmt f).mgmt = f s.mgmt := rfl
@[simp] theorem State.send_out (s : State) (m : OutMsg) : (s.send m).out = s.out ++ [m] := rfl
@[simp] theorem schedule_cyc (s : State) (n : Nat) (i : Instr) : (schedule s n i).cyc = s.cyc := rfl
@[simp] theorem addDue_cyc (s : State) (d : Due) : (addDue s d).cyc = s.cyc := rfl
@[simp] theorem schedule_agenda (s : State) (n : Nat) (i : Instr) : (schedule s n i).agenda = s.agenda := rfl
@[simp] theorem addDue_agenda (s : State) (d : Due) : (addDue s d).agenda = s.agenda := rfl
@[simp] theorem schedule_draws (s : State) (n : Nat) (i : Instr) : (schedule s n i).draws = s.draws := rfl
@[simp] theorem addDue_draws (s : State) (d : Due) : (addDue s d).draws = s.draws := rfl
@[simp] theorem schedule_actor (s : State) (n : Nat) (i : Instr) : (schedule s n i).actor = s.actor := rfl
@[simp] theorem addDue_actor (s : State) (d : Due) : (addDue s d).actor = s.actor := rfl
@[simp] theorem schedule_actorChain (s : State) (n : Nat) (i : Instr) : (schedule s n i).actorChain = s.actorChain := rfl
@[simp] theorem addDue_actorChain (s : State) (d : Due) : (addDue s d).actorChain = s.actorChain := rfl
@[simp] theorem schedule_turnAt (s : State) (n : Nat) (i : Instr) : (schedule s n i).turnAt = s.turnAt := rfl
@[simp] theorem addDue_turnAt (s : State) (d : Due) : (addDue s d).turnAt = s.turnAt := rfl
@[simp] theorem schedule_mem (s : State) (n : Nat) (i : Instr) : (schedule s n i).mem = s.mem := rfl
@[simp] theorem addDue_mem (s : State) (d : Due) : (addDue s d).mem = s.mem := rfl
@[simp] theorem schedule_tiles (s : State) (n : Nat) (i : Instr) : (schedule s n i).tiles = s.tiles := rfl
@[simp] theorem addDue_tiles (s : State) (d : Due) : (addDue s d).tiles = s.tiles := rfl
@[simp] theorem schedule_walls (s : State) (n : Nat) (i : Instr) : (schedule s n i).walls = s.walls := rfl
@[simp] theorem addDue_walls (s : State) (d : Due) : (addDue s d).walls = s.walls := rfl
@[simp] theorem schedule_plinth (s : State) (n : Nat) (i : Instr) : (schedule s n i).plinth = s.plinth := rfl
@[simp] theorem addDue_plinth (s : State) (d : Due) : (addDue s d).plinth = s.plinth := rfl
@[simp] theorem schedule_mgmt (s : State) (n : Nat) (i : Instr) : (schedule s n i).mgmt = s.mgmt := rfl
@[simp] theorem addDue_mgmt (s : State) (d : Due) : (addDue s d).mgmt = s.mgmt := rfl
@[simp] theorem schedule_hw (s : State) (n : Nat) (i : Instr) : (schedule s n i).hw = s.hw := rfl
@[simp] theorem addDue_hw (s : State) (d : Due) : (addDue s d).hw = s.hw := rfl
@[simp] theorem schedule_copies (s : State) (n : Nat) (i : Instr) : (schedule s n i).copies = s.copies := rfl
@[simp] theorem addDue_copies (s : State) (d : Due) : (addDue s d).copies = s.copies := rfl
@[simp] theorem schedule_due (s : State) (n : Nat) (i : Instr) : (schedule s n i).due = s.due := rfl
@[simp] theorem addDue_sched (s : State) (d : Due) : (addDue s d).sched = s.sched := rfl
@[simp] theorem schedule_out (s : State) (n : Nat) (i : Instr) : (schedule s n i).out = s.out := rfl
@[simp] theorem schedule_stamp (s : State) (n : Nat) (i : Instr) : (schedule s n i).stamp = s.stamp := rfl
@[simp] theorem schedule_was (s : State) (n : Nat) (i : Instr) : (schedule s n i).was = s.was := rfl
@[simp] theorem schedule_xbar (s : State) (n : Nat) (i : Instr) : (schedule s n i).xbar = s.xbar := rfl
@[simp] theorem schedule_net (s : State) (n : Nat) (i : Instr) : (schedule s n i).net = s.net := rfl
@[simp] theorem schedule_strike (s : State) (n : Nat) (i : Instr) : (schedule s n i).strike = s.strike := rfl
@[simp] theorem schedule_held (s : State) (n : Nat) (i : Instr) : (schedule s n i).held = s.held := rfl
@[simp] theorem schedule_signals (s : State) (n : Nat) (i : Instr) : (schedule s n i).signals = s.signals := rfl
@[simp] theorem addDue_out (s : State) (d : Due) : (addDue s d).out = s.out := rfl
@[simp] theorem addDue_stamp (s : State) (d : Due) : (addDue s d).stamp = s.stamp := rfl
@[simp] theorem addDue_was (s : State) (d : Due) : (addDue s d).was = s.was := rfl
@[simp] theorem addDue_xbar (s : State) (d : Due) : (addDue s d).xbar = s.xbar := rfl
@[simp] theorem addDue_net (s : State) (d : Due) : (addDue s d).net = s.net := rfl
@[simp] theorem addDue_strike (s : State) (d : Due) : (addDue s d).strike = s.strike := rfl
@[simp] theorem addDue_held (s : State) (d : Due) : (addDue s d).held = s.held := rfl
@[simp] theorem addDue_signals (s : State) (d : Due) : (addDue s d).signals = s.signals := rfl
@[simp] theorem addDue_due (s : State) (d : Due) : (addDue s d).due = s.due ++ [d] := rfl

/-! ## Tiles -/

/-- A tile after one tile was changed. -/
theorem State.tile_modTile (s : State) (t u : Nat) (f : Tile → Tile) :
    (s.modTile t f).tile u = if u = t then f (s.tile t) else s.tile u := Tab.get_set ..

@[simp] theorem State.tile_modTile_self (s : State) (t : Nat) (f : Tile → Tile) :
    (s.modTile t f).tile t = f (s.tile t) := Tab.get_set_self ..

theorem State.tile_modTile_ne (s : State) {t u : Nat} (f : Tile → Tile) (h : u ≠ t) :
    (s.modTile t f).tile u = s.tile u := Tab.get_set_ne _ _ h

@[simp] theorem State.tile_modBk_self (s : State) (t : Nat) (f : Banker → Banker) :
    (s.modBk t f).tile t = { s.tile t with bk := f (s.tile t).bk } := Tab.get_set_self ..
theorem State.tile_modBk_ne (s : State) {t u : Nat} (f : Banker → Banker) (h : u ≠ t) :
    (s.modBk t f).tile u = s.tile u := Tab.get_set_ne _ _ h
@[simp] theorem State.tile_modSys_self (s : State) (t : Nat) (f : TileSys → TileSys) :
    (s.modSys t f).tile t = { s.tile t with sys := f (s.tile t).sys } := Tab.get_set_self ..
theorem State.tile_modSys_ne (s : State) {t u : Nat} (f : TileSys → TileSys) (h : u ≠ t) :
    (s.modSys t f).tile u = s.tile u := Tab.get_set_ne _ _ h
@[simp] theorem State.tile_modMem_self (s : State) (t : Nat) (f : TileMem → TileMem) :
    (s.modMem t f).tile t = { s.tile t with mem := f (s.tile t).mem } := Tab.get_set_self ..
theorem State.tile_modMem_ne (s : State) {t u : Nat} (f : TileMem → TileMem) (h : u ≠ t) :
    (s.modMem t f).tile u = s.tile u := Tab.get_set_ne _ _ h
@[simp] theorem State.tile_modRing_self (s : State) (t : Nat) (f : RingStop → RingStop) :
    (s.modRing t f).tile t = { s.tile t with ring := f (s.tile t).ring } := Tab.get_set_self ..
theorem State.tile_modRing_ne (s : State) {t u : Nat} (f : RingStop → RingStop) (h : u ≠ t) :
    (s.modRing t f).tile u = s.tile u := Tab.get_set_ne _ _ h
@[simp] theorem State.tile_modSeq_self (s : State) (t : Nat) (f : Seq → Seq) :
    (s.modSeq t f).tile t = { s.tile t with seq := f (s.tile t).seq } := Tab.get_set_self ..
theorem State.tile_modSeq_ne (s : State) {t u : Nat} (f : Seq → Seq) (h : u ≠ t) :
    (s.modSeq t f).tile u = s.tile u := Tab.get_set_ne _ _ h
@[simp] theorem State.tile_modRegs_self (s : State) (t : Nat) (f : Regs → Regs) :
    (s.modRegs t f).tile t = { s.tile t with bk := { (s.tile t).bk with r := f (s.tile t).bk.r } } := Tab.get_set_self ..
theorem State.tile_modRegs_ne (s : State) {t u : Nat} (f : Regs → Regs) (h : u ≠ t) :
    (s.modRegs t f).tile u = s.tile u := Tab.get_set_ne _ _ h
@[simp] theorem State.tile_modChain_self (s : State) (t c : Nat) (f : Chain → Chain) :
    (s.modChain t c f).tile t = { s.tile t with chains := Tab.modify (s.tile t).chains c f } := Tab.get_set_self ..
theorem State.tile_modChain_ne (s : State) {t u : Nat} (c : Nat) (f : Chain → Chain) (h : u ≠ t) :
    (s.modChain t c f).tile u = s.tile u := Tab.get_set_ne _ _ h
@[simp] theorem State.tile_modLaunch_self (s : State) (t l : Nat) (f : Launch → Launch) :
    (s.modLaunch t l f).tile t = { s.tile t with launches := Tab.modify (s.tile t).launches l f } := Tab.get_set_self ..
theorem State.tile_modLaunch_ne (s : State) {t u : Nat} (l : Nat) (f : Launch → Launch) (h : u ≠ t) :
    (s.modLaunch t l f).tile u = s.tile u := Tab.get_set_ne _ _ h
@[simp] theorem State.wall_modWall_self (s : State) (w : Nat) (f : Wall → Wall) :
    (s.modWall w f).wall w = f (s.wall w) := Tab.get_set_self ..
theorem State.wall_modWall_ne (s : State) {w v : Nat} (f : Wall → Wall) (h : v ≠ w) :
    (s.modWall w f).wall v = s.wall v := Tab.get_set_ne _ _ h

@[simp] theorem State.tile_modPlinth (s : State) (f : Plinth → Plinth) (t : Nat) : (s.modPlinth f).tile t = s.tile t := rfl
@[simp] theorem State.tile_modMgmt (s : State) (f : Mgmt → Mgmt) (t : Nat) : (s.modMgmt f).tile t = s.tile t := rfl
@[simp] theorem State.tile_modWall (s : State) (w : Nat) (f : Wall → Wall) (t : Nat) : (s.modWall w f).tile t = s.tile t := rfl
@[simp] theorem State.tile_modCopy (s : State) (c : CopyRef) (f : Copy → Copy) (t : Nat) : (s.modCopy c f).tile t = s.tile t := rfl
@[simp] theorem State.tile_dropCopy (s : State) (c : CopyRef) (t : Nat) : (s.dropCopy c).tile t = s.tile t := rfl
@[simp] theorem State.tile_send (s : State) (m : OutMsg) (t : Nat) : (s.send m).tile t = s.tile t := rfl
@[simp] theorem tile_addDue (s : State) (d : Due) (t : Nat) : (addDue s d).tile t = s.tile t := rfl
@[simp] theorem tile_schedule (s : State) (n : Nat) (i : Instr) (t : Nat) : (schedule s n i).tile t = s.tile t := rfl

/-! ## Semaphores (spec/10_ordering.md R240, R254) -/

@[simp] theorem semAdd_cyc (s : State) (t i n : Nat) : (semAdd s t i n).cyc = s.cyc := rfl
@[simp] theorem semAdd_agenda (s : State) (t i n : Nat) : (semAdd s t i n).agenda = s.agenda := rfl
@[simp] theorem semAdd_draws (s : State) (t i n : Nat) : (semAdd s t i n).draws = s.draws := rfl
@[simp] theorem semAdd_actor (s : State) (t i n : Nat) : (semAdd s t i n).actor = s.actor := rfl
@[simp] theorem semAdd_actorChain (s : State) (t i n : Nat) : (semAdd s t i n).actorChain = s.actorChain := rfl
@[simp] theorem semAdd_turnAt (s : State) (t i n : Nat) : (semAdd s t i n).turnAt = s.turnAt := rfl
@[simp] theorem semAdd_mem (s : State) (t i n : Nat) : (semAdd s t i n).mem = s.mem := rfl
@[simp] theorem semAdd_walls (s : State) (t i n : Nat) : (semAdd s t i n).walls = s.walls := rfl
@[simp] theorem semAdd_plinth (s : State) (t i n : Nat) : (semAdd s t i n).plinth = s.plinth := rfl
@[simp] theorem semAdd_mgmt (s : State) (t i n : Nat) : (semAdd s t i n).mgmt = s.mgmt := rfl
@[simp] theorem semAdd_hw (s : State) (t i n : Nat) : (semAdd s t i n).hw = s.hw := rfl
@[simp] theorem semAdd_copies (s : State) (t i n : Nat) : (semAdd s t i n).copies = s.copies := rfl
@[simp] theorem semAdd_due (s : State) (t i n : Nat) : (semAdd s t i n).due = s.due := rfl
@[simp] theorem semAdd_stamp (s : State) (t i n : Nat) : (semAdd s t i n).stamp = s.stamp := rfl
@[simp] theorem semAdd_was (s : State) (t i n : Nat) : (semAdd s t i n).was = s.was := rfl
@[simp] theorem semAdd_xbar (s : State) (t i n : Nat) : (semAdd s t i n).xbar = s.xbar := rfl
@[simp] theorem semAdd_net (s : State) (t i n : Nat) : (semAdd s t i n).net = s.net := rfl
@[simp] theorem semAdd_strike (s : State) (t i n : Nat) : (semAdd s t i n).strike = s.strike := rfl
@[simp] theorem semAdd_held (s : State) (t i n : Nat) : (semAdd s t i n).held = s.held := rfl
@[simp] theorem semAdd_signals (s : State) (t i n : Nat) : (semAdd s t i n).signals = s.signals := rfl
@[simp] theorem semAdd_sched (s : State) (t i n : Nat) : (semAdd s t i n).sched = s.sched := rfl
@[simp] theorem semAdd_out (s : State) (t i n : Nat) : (semAdd s t i n).out = s.out := rfl
@[simp] theorem semTake_cyc (s : State) (t i n : Nat) : (semTake s t i n).cyc = s.cyc := rfl
@[simp] theorem semTake_agenda (s : State) (t i n : Nat) : (semTake s t i n).agenda = s.agenda := rfl
@[simp] theorem semTake_draws (s : State) (t i n : Nat) : (semTake s t i n).draws = s.draws := rfl
@[simp] theorem semTake_actor (s : State) (t i n : Nat) : (semTake s t i n).actor = s.actor := rfl
@[simp] theorem semTake_actorChain (s : State) (t i n : Nat) : (semTake s t i n).actorChain = s.actorChain := rfl
@[simp] theorem semTake_turnAt (s : State) (t i n : Nat) : (semTake s t i n).turnAt = s.turnAt := rfl
@[simp] theorem semTake_mem (s : State) (t i n : Nat) : (semTake s t i n).mem = s.mem := rfl
@[simp] theorem semTake_walls (s : State) (t i n : Nat) : (semTake s t i n).walls = s.walls := rfl
@[simp] theorem semTake_plinth (s : State) (t i n : Nat) : (semTake s t i n).plinth = s.plinth := rfl
@[simp] theorem semTake_mgmt (s : State) (t i n : Nat) : (semTake s t i n).mgmt = s.mgmt := rfl
@[simp] theorem semTake_hw (s : State) (t i n : Nat) : (semTake s t i n).hw = s.hw := rfl
@[simp] theorem semTake_copies (s : State) (t i n : Nat) : (semTake s t i n).copies = s.copies := rfl
@[simp] theorem semTake_due (s : State) (t i n : Nat) : (semTake s t i n).due = s.due := rfl
@[simp] theorem semTake_stamp (s : State) (t i n : Nat) : (semTake s t i n).stamp = s.stamp := rfl
@[simp] theorem semTake_was (s : State) (t i n : Nat) : (semTake s t i n).was = s.was := rfl
@[simp] theorem semTake_xbar (s : State) (t i n : Nat) : (semTake s t i n).xbar = s.xbar := rfl
@[simp] theorem semTake_net (s : State) (t i n : Nat) : (semTake s t i n).net = s.net := rfl
@[simp] theorem semTake_strike (s : State) (t i n : Nat) : (semTake s t i n).strike = s.strike := rfl
@[simp] theorem semTake_held (s : State) (t i n : Nat) : (semTake s t i n).held = s.held := rfl
@[simp] theorem semTake_signals (s : State) (t i n : Nat) : (semTake s t i n).signals = s.signals := rfl
@[simp] theorem semTake_sched (s : State) (t i n : Nat) : (semTake s t i n).sched = s.sched := rfl
@[simp] theorem semTake_out (s : State) (t i n : Nat) : (semTake s t i n).out = s.out := rfl
@[simp] theorem semRaise_cyc (s : State) (t i n : Nat) : (semRaise s t i n).cyc = s.cyc := rfl
@[simp] theorem semRaise_agenda (s : State) (t i n : Nat) : (semRaise s t i n).agenda = s.agenda := rfl
@[simp] theorem semRaise_draws (s : State) (t i n : Nat) : (semRaise s t i n).draws = s.draws := rfl
@[simp] theorem semRaise_actor (s : State) (t i n : Nat) : (semRaise s t i n).actor = s.actor := rfl
@[simp] theorem semRaise_actorChain (s : State) (t i n : Nat) : (semRaise s t i n).actorChain = s.actorChain := rfl
@[simp] theorem semRaise_turnAt (s : State) (t i n : Nat) : (semRaise s t i n).turnAt = s.turnAt := rfl
@[simp] theorem semRaise_mem (s : State) (t i n : Nat) : (semRaise s t i n).mem = s.mem := rfl
@[simp] theorem semRaise_tiles (s : State) (t i n : Nat) : (semRaise s t i n).tiles = s.tiles := rfl
@[simp] theorem semRaise_walls (s : State) (t i n : Nat) : (semRaise s t i n).walls = s.walls := rfl
@[simp] theorem semRaise_plinth (s : State) (t i n : Nat) : (semRaise s t i n).plinth = s.plinth := rfl
@[simp] theorem semRaise_mgmt (s : State) (t i n : Nat) : (semRaise s t i n).mgmt = s.mgmt := rfl
@[simp] theorem semRaise_hw (s : State) (t i n : Nat) : (semRaise s t i n).hw = s.hw := rfl
@[simp] theorem semRaise_copies (s : State) (t i n : Nat) : (semRaise s t i n).copies = s.copies := rfl
@[simp] theorem semRaise_stamp (s : State) (t i n : Nat) : (semRaise s t i n).stamp = s.stamp := rfl
@[simp] theorem semRaise_was (s : State) (t i n : Nat) : (semRaise s t i n).was = s.was := rfl
@[simp] theorem semRaise_xbar (s : State) (t i n : Nat) : (semRaise s t i n).xbar = s.xbar := rfl
@[simp] theorem semRaise_net (s : State) (t i n : Nat) : (semRaise s t i n).net = s.net := rfl
@[simp] theorem semRaise_strike (s : State) (t i n : Nat) : (semRaise s t i n).strike = s.strike := rfl
@[simp] theorem semRaise_held (s : State) (t i n : Nat) : (semRaise s t i n).held = s.held := rfl
@[simp] theorem semRaise_signals (s : State) (t i n : Nat) : (semRaise s t i n).signals = s.signals := rfl
@[simp] theorem semRaise_sched (s : State) (t i n : Nat) : (semRaise s t i n).sched = s.sched := rfl
@[simp] theorem semRaise_out (s : State) (t i n : Nat) : (semRaise s t i n).out = s.out := rfl

/-- An increment lands in one semaphore, modulo 2^32, and in no other (R240). -/
theorem semOf_semAdd (s : State) (t i n u j : Nat) :
    (semAdd s t i n).semOf u j = if u = t ∧ j = i then (s.semOf t i + n) % 2 ^ 32 else s.semOf u j := by
  by_cases hu : u = t
  · subst hu
    by_cases hj : j = i
    · subst hj; simp [semAdd, State.semOf, Tab.modify]
    · simp [semAdd, State.semOf, Tab.modify, hj, Tab.get_set_ne]
  · simp [semAdd, State.semOf, hu, State.tile_modTile_ne]

/-- A release that waits for accesses changes nothing but what is due and what waits (R254). -/
theorem raiseAfter_frame (s : State) (t i : Nat) (w : List (Nat × Nat)) :
    ∃ d g, raiseAfter s t i w = { s with due := d, signals := g } := by
  unfold raiseAfter
  split
  · exact ⟨_, _, rfl⟩
  · exact ⟨_, _, rfl⟩

/-- Raising semaphores one after another changes nothing but what is due. -/
theorem raises_frame (l : List Signal) (s : State) :
    ∃ d, l.foldl (fun s g => semRaise s g.tile g.sem 1) s = { s with due := d } := by
  induction l generalizing s with
  | nil => exact ⟨s.due, rfl⟩
  | cons g l ih =>
    obtain ⟨d, h⟩ := ih (semRaise s g.tile g.sem 1)
    exact ⟨d, by rw [List.foldl_cons, h]; rfl⟩

/-- The end of an access changes nothing but what is due and what waits (R254). -/
theorem accessOver_frame (s : State) (t id : Nat) : ∃ d g, accessOver s t id = { s with due := d, signals := g } := by
  obtain ⟨d, h⟩ := raises_frame _ { s with signals := _ }
  exact ⟨d, _, h⟩

end Sys2Proof.Machine
end

