-- ==== Sys2Proof/Laws/Operands.lean ====
section
/-!
SUPPORT. What the frame of banker instructions does: the issue conditions open the gate, an instruction in layout form comes
to its body's result, and what retiring and writing a register change.
-/
namespace Sys2Proof.Machine

theorem gate_go {s : State} {g : Guard} {d : BDst} {need : List Nat} {srcs srcs' : List PReg}
    (h : Issues s g d need srcs') (hs : ∀ p ∈ srcs, p ∈ srcs') : gate s s.actor g need d srcs = .go := by
  obtain ⟨h1, h2, h3, h4, h5, h6⟩ := h
  have hn : (need.any fun i => decide (s.cyc < s.banker.readyAt i)) = false := by
    rw [List.any_eq_false]
    intro i hi
    simpa using h4 i hi
  have hf : srcs.find? (·.poison) = none := by
    rw [List.find?_eq_none]
    intro p hp
    simp [h6 p (hs p hp)]
  unfold gate
  rw [if_neg (by exact Nat.not_lt.mpr h1), if_neg (by rw [h2]; exact Bool.false_ne_true),
    if_neg (by rw [h3]; cases g.neg <;> simp), if_neg (by rw [hn]; simpa using h5), hf]

/-- An instruction outside rows 0x0 to 0x2 that issues comes to its body's result. -/
theorem runBanker_go {s : State} {row4 : Bool} {g : Guard} {d : BDst} {need : List Nat} {srcs srcs' : List PReg}
    {body : State → Nat → BRes} (h : Issues s g d need srcs') (hs : ∀ p ∈ srcs, p ∈ srcs') :
    runBanker row4 g d need srcs body s = settle s s.actor row4 d (body s s.actor) := by
  unfold runBanker; simp only; rw [gate_go h hs]

/-- An instruction of rows 0x0 to 0x2 that issues comes to its body's result. -/
theorem runSoft_go {s : State} {g : Guard} {d : BDst} {need : List Nat} {srcs srcs' : List PReg} {lat : Nat}
    {body : State → Nat → BRes} (h : Issues s g d need srcs') (hs : ∀ p ∈ srcs, p ∈ srcs') :
    runSoft g d need srcs lat body s = settle s s.actor false d (body s s.actor) := by
  unfold runSoft; simp only; rw [gate_go h hs]

/-- A form that issues comes to its body's result on the values of A and B. -/
theorem runForm_go {s : State} {f : BForm} {body : State → Nat → Word → Word → BRes} (h : IssuesForm s f) :
    runForm f s body = .next (settle s s.actor false f.dst (body s s.actor (srcA s f) (srcB s f))) := by
  unfold runForm
  simp only
  rw [runBanker_go h (by simp)]
  rfl

theorem runAlu_go {s : State} {op : AluOp} {m : AluMods} {f : BForm} (h : IssuesForm s f) :
    runAlu op m f s = .next (wrote s s f.dst (aluResult op m (srcA s f) (srcB s f) (srcC s f)) (bankerLatency op m)) := by
  unfold runAlu
  simp only
  rw [runSoft_go h (by simp)]
  rfl

/-! ## What a result comes to -/

@[simp] theorem settle_val (s u : State) (row4 : Bool) (d : BDst) (v : Word) (lat : Nat) :
    settle s s.actor row4 d (.val u v lat) = retire (writeB u s.actor d { v := v } (s.cyc + lat)) s.actor row4 none := rfl

@[simp] theorem settle_nat (s u : State) (row4 : Bool) (d : BDst) (v lat : Nat) :
    settle s s.actor row4 d (.nat u v lat) =
      retire (writeB u s.actor d { v := BitVec.ofNat 64 v } (s.cyc + lat)) s.actor row4 none := rfl

@[simp] theorem settle_done (s u : State) (row4 : Bool) (d : BDst) (lat : Nat) :
    settle s s.actor row4 d (.done u none lat) = retire u s.actor row4 none := rfl

@[simp] theorem settle_keep (s u : State) (row4 : Bool) (d : BDst) : settle s s.actor row4 d (.keep u) = u := rfl

/-- A fault is taken once nothing is awaited from outside. -/
theorem settle_fault {s : State} {row4 : Bool} {d : BDst} {tr : TrapInfo} (h : s.banker.hasPending s.cyc = false) :
    settle s s.actor row4 d (.fault tr) = preciseFault s s.actor tr s.banker.pc := by
  simp [settle, h]

/-- Retiring changes only the banker of its own tile. -/
theorem tile_retire_ne (s : State) {a u : Nat} (row4 : Bool) (j : Option Word) (h : u ≠ a) :
    (retire s a row4 j).tile u = s.tile u := State.tile_modBk_ne _ _ h

theorem tile_retire_self (s : State) (a : Nat) (row4 : Bool) (j : Option Word) :
    ∃ b, (retire s a row4 j).tile a = { s.tile a with bk := b } ∧
      b.r = (if row4 then (s.tile a).bk.r else (endTest (s.tile a).bk.r (s.tile a).bk.pc 3).1) := by
  refine ⟨_, State.tile_modBk_self .., ?_⟩
  dsimp only
  cases row4 <;> cases (s.tile a).bk.emul <;> simp

end Sys2Proof.Machine
end

