-- ==== Sys2Proof/Laws/Integer.lean ====
section
/-!
SUPPORT. The integer operations against the reading and delivery of spec/04_integer.md R109 said in bit patterns.
-/
namespace Sys2Proof.Machine

theorem size_bits_pos (z : Size) : 0 < z.bits := by cases z <;> decide

theorem size_bits_le (z : Size) : z.bits ≤ 64 := by cases z <;> decide

/-- Two's complement of the low bits of a number. -/
theorem sextNat_eq {w : Nat} (x : BitVec w) (n : Nat) : sextNat x.toNat n = (x.setWidth n).toInt := by
  unfold sextNat
  rw [BitVec.toInt_eq_toNat_cond, BitVec.toNat_setWidth]

theorem wrapInt_eq (v : Int) (n : Nat) : wrapInt v n = (BitVec.ofInt n v).toNat := by
  simp [wrapInt, BitVec.toNat_ofInt]

/-- The model reads a source as R109 does. -/
theorem aluRead_eq (m : AluMods) (x : Word) : aluRead m x = intOf m x := by
  unfold aluRead intOf
  rw [sextNat_eq, BitVec.toNat_setWidth]

theorem aluBits_eq (m : AluMods) (x : Word) : aluBits m x = (x.setWidth m.size.bits).toNat := by
  simp [aluBits, BitVec.toNat_setWidth]

theorem ofNat_toNat_setWidth {w : Nat} (x : BitVec w) : BitVec.ofNat 64 x.toNat = x.setWidth 64 := by
  apply BitVec.eq_of_toNat_eq
  simp [BitVec.toNat_setWidth]

theorem ofNat_wrapInt_sext {w : Nat} (x : BitVec w) : BitVec.ofNat 64 (wrapInt (sextNat x.toNat w) 64) = x.signExtend 64 := by
  rw [sextNat_eq, wrapInt_eq, BitVec.ofNat_toNat, BitVec.setWidth_eq, BitVec.setWidth_eq]
  rfl

/-- A pattern delivered is extended as U says. -/
theorem extend_bits (m : AluMods) (x : BitVec m.size.bits) :
    (if m.uns then BitVec.ofNat 64 x.toNat else BitVec.ofNat 64 (wrapInt (sextNat x.toNat m.size.bits) 64)) = extended m x := by
  unfold extended
  rw [ofNat_toNat_setWidth, ofNat_wrapInt_sext]

/-- The model delivers a result as R109 does. -/
theorem aluDeliver_eq (m : AluMods) (v : Int) : aluDeliver m v = delivered m v := by
  have h (v : Int) : (if m.uns then BitVec.ofNat 64 (wrapInt v m.size.bits)
      else BitVec.ofNat 64 (wrapInt (sextNat (wrapInt v m.size.bits) m.size.bits) 64)) = extended m (BitVec.ofInt m.size.bits v) := by
    rw [wrapInt_eq]; exact extend_bits m _
  unfold aluDeliver delivered aluLo aluHi
  simp only [h]
  congr 2

/-- An exact result whose low bits are those of a pattern is delivered as that pattern, where nothing saturates. -/
theorem aluDeliver_bits (m : AluMods) (hm : m.sat = false) (v : Int) (x : BitVec m.size.bits)
    (h : BitVec.ofInt m.size.bits v = x) : aluDeliver m v = extended m x := by
  rw [aluDeliver_eq]; unfold delivered; simp [hm, h]

end Sys2Proof.Machine
end

