-- ==== Sys2Proof/Laws/Memory.lean ====
section
/-!
SUPPORT. Laws of the byte memory: a byte reads back, every other byte is as before, and every operation keeps the canonical
form.
-/
namespace Sys2Proof.Machine

theorem readByte_putByte (m : List Host.Cell) (a j : Nat) (b : Byte) :
    readByte (putByte m a b) j = if j = a then b else readByte m j := by
  induction m with
  | nil => simp [putByte, readByte, eq_comm]
  | cons p m ih =>
    obtain ⟨k, w⟩ := p
    unfold putByte
    split
    · simp [readByte, eq_comm]
    · split
      · subst k
        by_cases h : j = a
        · simp [readByte, h]
        · simp [readByte, h, Ne.symm h]
      · rename_i h1 h2
        simp only [readByte, ih]
        by_cases h : k = j
        · subst h; simp [h2]
        · simp [h]

theorem readByte_dropByte (m : List Host.Cell) (a j : Nat) :
    readByte (dropByte m a) j = if j = a then 0 else readByte m j := by
  induction m with
  | nil => simp [dropByte, readByte]
  | cons p m ih =>
    obtain ⟨k, w⟩ := p
    unfold dropByte
    split
    · subst k; rw [ih]
      by_cases h : j = a
      · simp [h]
      · simp [readByte, h, Ne.symm h]
    · rename_i h2
      simp only [readByte, ih]
      by_cases h : k = j
      · subst h; simp [h2]
      · simp [h]

/-- What a byte of memory reads after one byte was written. -/
theorem readByte_writeByte (m : List Host.Cell) (a j : Nat) (b : Byte) :
    readByte (writeByte m a b) j = if j = a then b else readByte m j := by
  unfold writeByte
  split
  · rename_i h; rw [readByte_dropByte, h]
  · exact readByte_putByte ..

/-- A byte outside the bytes written is as before. -/
theorem readByte_writeBytes_out (l : List Byte) (m : List Host.Cell) (a j : Nat) (h : j < a ∨ a + l.length ≤ j) :
    readByte (writeBytes m a l) j = readByte m j := by
  induction l generalizing m a with
  | nil => rfl
  | cons b l ih =>
    simp only [List.length_cons] at h
    rw [writeBytes, ih _ _ (by omega), readByte_writeByte]
    simp; omega

/-- Bytes written read back. -/
theorem readByte_writeBytes_in (l : List Byte) (m : List Host.Cell) (a i : Nat) (h : i < l.length) :
    readByte (writeBytes m a l) (a + i) = l[i] := by
  induction l generalizing m a i with
  | nil => simp at h
  | cons b l ih =>
    cases i with
    | zero =>
      rw [writeBytes, readByte_writeBytes_out _ _ _ _ (by omega), readByte_writeByte]; simp
    | succ i =>
      have := ih (writeByte m a b) (a + 1) i (by simpa using h)
      rw [writeBytes]; simpa [Nat.add_assoc, Nat.add_comm 1] using this

theorem readBytes_length (m : List Host.Cell) (a n : Nat) : (readBytes m a n).length = n := by
  induction n generalizing a with
  | zero => rfl
  | succ n ih => simp [readBytes, ih]

/-- An area that was written reads back whole. -/
theorem readBytes_writeBytes (l : List Byte) (m : List Host.Cell) (a : Nat) :
    readBytes (writeBytes m a l) a l.length = l := by
  induction l generalizing m a with
  | nil => rfl
  | cons b l ih =>
    simp only [List.length_cons, readBytes, writeBytes]
    rw [ih, readByte_writeBytes_out _ _ _ _ (by omega), readByte_writeByte]; simp

theorem cellsFrom_mono {lo lo' : Nat} (h : lo' ≤ lo) (m : List Host.Cell) (hm : cellsFrom lo m = true) :
    cellsFrom lo' m = true := by
  cases m with
  | nil => rfl
  | cons p m =>
    obtain ⟨k, v⟩ := p
    simp only [cellsFrom, Bool.and_eq_true, decide_eq_true_eq] at *
    exact ⟨⟨Nat.le_trans h hm.1.1, hm.1.2⟩, hm.2⟩

theorem cellsFrom_putByte (m : List Host.Cell) (a : Nat) (b : Byte) (hb : b ≠ 0) (lo : Nat) (hlo : lo ≤ a)
    (hm : cellsFrom lo m = true) : cellsFrom lo (putByte m a b) = true := by
  induction m generalizing lo with
  | nil =>
    simp only [putByte, cellsFrom, Bool.and_eq_true, decide_eq_true_eq]
    exact ⟨⟨hlo, hb⟩, trivial⟩
  | cons p m ih =>
    obtain ⟨k, v⟩ := p
    simp only [cellsFrom, Bool.and_eq_true, decide_eq_true_eq] at hm
    unfold putByte
    split
    · rename_i h
      simp only [cellsFrom, Bool.and_eq_true, decide_eq_true_eq]
      exact ⟨⟨hlo, hb⟩, ⟨by omega, hm.1.2⟩, hm.2⟩
    · split
      · subst k
        simp only [cellsFrom, Bool.and_eq_true, decide_eq_true_eq]
        exact ⟨⟨hlo, hb⟩, hm.2⟩
      · simp only [cellsFrom, Bool.and_eq_true, decide_eq_true_eq]
        exact ⟨hm.1, ih _ (by omega) hm.2⟩

theorem cellsFrom_dropByte (m : List Host.Cell) (a lo : Nat) (hm : cellsFrom lo m = true) :
    cellsFrom lo (dropByte m a) = true := by
  induction m generalizing lo with
  | nil => rfl
  | cons p m ih =>
    obtain ⟨k, v⟩ := p
    simp only [cellsFrom, Bool.and_eq_true, decide_eq_true_eq] at hm
    unfold dropByte
    split
    · exact ih _ (cellsFrom_mono (by omega) m hm.2)
    · simp only [cellsFrom, Bool.and_eq_true, decide_eq_true_eq]
      exact ⟨hm.1, ih _ hm.2⟩

/-- Writing a byte keeps the canonical form. -/
theorem wf_writeByte (m : List Host.Cell) (a : Nat) (b : Byte) (hm : Memory.wf m = true) :
    Memory.wf (writeByte m a b) = true := by
  unfold writeByte
  split
  · exact cellsFrom_dropByte m a 0 hm
  · rename_i h; exact cellsFrom_putByte m a b h 0 (Nat.zero_le _) hm

/-- Writing bytes keeps the canonical form. -/
theorem wf_writeBytes (l : List Byte) (m : List Host.Cell) (a : Nat) (hm : Memory.wf m = true) :
    Memory.wf (writeBytes m a l) = true := by
  induction l generalizing m a with
  | nil => exact hm
  | cons b l ih => exact ih _ _ (wf_writeByte m a b hm)

theorem cellsFrom_clearCells (lo hi : Nat) (m : List Host.Cell) (from' : Nat) (hm : cellsFrom from' m = true) :
    cellsFrom from' (clearCells lo hi m) = true := by
  induction m generalizing from' with
  | nil => rfl
  | cons p m ih =>
    obtain ⟨k, v⟩ := p
    simp only [cellsFrom, Bool.and_eq_true, decide_eq_true_eq] at hm
    unfold clearCells
    split
    · exact ih _ (cellsFrom_mono (by omega) m hm.2)
    · simp only [cellsFrom, Bool.and_eq_true, decide_eq_true_eq]
      exact ⟨hm.1, ih _ hm.2⟩

/-- Zero-filling an area keeps the canonical form. -/
theorem wf_clearCells (lo hi : Nat) (m : List Host.Cell) (hm : Memory.wf m = true) :
    Memory.wf (clearCells lo hi m) = true := cellsFrom_clearCells lo hi m 0 hm

/-- What a byte reads after an area was zero-filled. -/
theorem readByte_clearCells (lo hi : Nat) (m : List Host.Cell) (j : Nat) :
    readByte (clearCells lo hi m) j = if lo ≤ j ∧ j < hi then 0 else readByte m j := by
  induction m with
  | nil => simp [clearCells, readByte]
  | cons p m ih =>
    obtain ⟨k, v⟩ := p
    unfold clearCells
    split
    · rename_i h
      rw [ih]
      by_cases hj : lo ≤ j ∧ j < hi
      · simp [hj]
      · simp only [hj, if_false, readByte]
        have : k ≠ j := by rintro rfl; exact hj h
        simp [this]
    · rename_i h
      simp only [readByte, ih]
      by_cases hj : k = j
      · subst hj; simp [h]
      · simp [hj]

/-- Writing cells keeps the canonical form. -/
theorem wf_writeCells (base : Nat) (l : List (Nat × Byte)) (m : List Host.Cell) (hm : Memory.wf m = true) :
    Memory.wf (writeCells base l m) = true := by
  induction l generalizing m with
  | nil => exact hm
  | cons p l ih => obtain ⟨k, v⟩ := p; exact ih _ (wf_writeByte m _ v hm)

/-- A little-endian number has as many bytes as asked for. -/
@[simp] theorem leBytes_length (n v : Nat) : (leBytes n v).length = n := by
  induction n generalizing v with
  | zero => rfl
  | succ n ih => simp [leBytes, ih]

/-- Little-endian bytes give back the number they hold. -/
theorem leNat_leBytes (n v : Nat) : leNat (leBytes n v) = v % 256 ^ n := by
  induction n generalizing v with
  | zero => simp [leBytes, leNat, Nat.mod_one]
  | succ n ih =>
    rw [leBytes, leNat, ih, Nat.pow_succ', Nat.mod_mul]
    simp [BitVec.toNat_ofNat]

/-- A number written to memory reads back. -/
theorem readNat_writeBytes (m : List Host.Cell) (a n v : Nat) :
    readNat (writeBytes m a (leBytes n v)) a n = v % 256 ^ n := by
  have := readBytes_writeBytes (leBytes n v) m a
  rw [leBytes_length] at this
  rw [readNat, this, leNat_leBytes]

end Sys2Proof.Machine
end

