-- ==== Sys2Proof/Laws/Net.lean ====
section
/-!
SUPPORT. What each update of the rings leaves: one lemma per field per update.
-/
namespace Sys2Proof.Machine

@[simp] theorem State.modNet_cyc (s : State) (f : Net → Net) : (s.modNet f).cyc = s.cyc := rfl
@[simp] theorem State.modNet_agenda (s : State) (f : Net → Net) : (s.modNet f).agenda = s.agenda := rfl
@[simp] theorem State.modNet_draws (s : State) (f : Net → Net) : (s.modNet f).draws = s.draws := rfl
@[simp] theorem State.modNet_actor (s : State) (f : Net → Net) : (s.modNet f).actor = s.actor := rfl
@[simp] theorem State.modNet_actorChain (s : State) (f : Net → Net) : (s.modNet f).actorChain = s.actorChain := rfl
@[simp] theorem State.modNet_turnAt (s : State) (f : Net → Net) : (s.modNet f).turnAt = s.turnAt := rfl
@[simp] theorem State.modNet_mem (s : State) (f : Net → Net) : (s.modNet f).mem = s.mem := rfl
@[simp] theorem State.modNet_tiles (s : State) (f : Net → Net) : (s.modNet f).tiles = s.tiles := rfl
@[simp] theorem State.modNet_walls (s : State) (f : Net → Net) : (s.modNet f).walls = s.walls := rfl
@[simp] theorem State.modNet_plinth (s : State) (f : Net → Net) : (s.modNet f).plinth = s.plinth := rfl
@[simp] theorem State.modNet_mgmt (s : State) (f : Net → Net) : (s.modNet f).mgmt = s.mgmt := rfl
@[simp] theorem State.modNet_hw (s : State) (f : Net → Net) : (s.modNet f).hw = s.hw := rfl
@[simp] theorem State.modNet_copies (s : State) (f : Net → Net) : (s.modNet f).copies = s.copies := rfl
@[simp] theorem State.modNet_due (s : State) (f : Net → Net) : (s.modNet f).due = s.due := rfl
@[simp] theorem State.modNet_stamp (s : State) (f : Net → Net) : (s.modNet f).stamp = s.stamp := rfl
@[simp] theorem State.modNet_was (s : State) (f : Net → Net) : (s.modNet f).was = s.was := rfl
@[simp] theorem State.modNet_xbar (s : State) (f : Net → Net) : (s.modNet f).xbar = s.xbar := rfl
@[simp] theorem State.modNet_strike (s : State) (f : Net → Net) : (s.modNet f).strike = s.strike := rfl
@[simp] theorem State.modNet_signals (s : State) (f : Net → Net) : (s.modNet f).signals = s.signals := rfl
@[simp] theorem State.modNet_sched (s : State) (f : Net → Net) : (s.modNet f).sched = s.sched := rfl
@[simp] theorem State.modNet_out (s : State) (f : Net → Net) : (s.modNet f).out = s.out := rfl
@[simp] theorem State.setSlot_cyc (s : State) (r d p : Nat) (x : Option RSlot) : (s.setSlot r d p x).cyc = s.cyc := rfl
@[simp] theorem State.setSlot_agenda (s : State) (r d p : Nat) (x : Option RSlot) : (s.setSlot r d p x).agenda = s.agenda := rfl
@[simp] theorem State.setSlot_draws (s : State) (r d p : Nat) (x : Option RSlot) : (s.setSlot r d p x).draws = s.draws := rfl
@[simp] theorem State.setSlot_actor (s : State) (r d p : Nat) (x : Option RSlot) : (s.setSlot r d p x).actor = s.actor := rfl
@[simp] theorem State.setSlot_actorChain (s : State) (r d p : Nat) (x : Option RSlot) : (s.setSlot r d p x).actorChain = s.actorChain := rfl
@[simp] theorem State.setSlot_turnAt (s : State) (r d p : Nat) (x : Option RSlot) : (s.setSlot r d p x).turnAt = s.turnAt := rfl
@[simp] theorem State.setSlot_mem (s : State) (r d p : Nat) (x : Option RSlot) : (s.setSlot r d p x).mem = s.mem := rfl
@[simp] theorem State.setSlot_tiles (s : State) (r d p : Nat) (x : Option RSlot) : (s.setSlot r d p x).tiles = s.tiles := rfl
@[simp] theorem State.setSlot_walls (s : State) (r d p : Nat) (x : Option RSlot) : (s.setSlot r d p x).walls = s.walls := rfl
@[simp] theorem State.setSlot_plinth (s : State) (r d p : Nat) (x : Option RSlot) : (s.setSlot r d p x).plinth = s.plinth := rfl
@[simp] theorem State.setSlot_mgmt (s : State) (r d p : Nat) (x : Option RSlot) : (s.setSlot r d p x).mgmt = s.mgmt := rfl
@[simp] theorem State.setSlot_hw (s : State) (r d p : Nat) (x : Option RSlot) : (s.setSlot r d p x).hw = s.hw := rfl
@[simp] theorem State.setSlot_copies (s : State) (r d p : Nat) (x : Option RSlot) : (s.setSlot r d p x).copies = s.copies := rfl
@[simp] theorem State.setSlot_due (s : State) (r d p : Nat) (x : Option RSlot) : (s.setSlot r d p x).due = s.due := rfl
@[simp] theorem State.setSlot_stamp (s : State) (r d p : Nat) (x : Option RSlot) : (s.setSlot r d p x).stamp = s.stamp := rfl
@[simp] theorem State.setSlot_was (s : State) (r d p : Nat) (x : Option RSlot) : (s.setSlot r d p x).was = s.was := rfl
@[simp] theorem State.setSlot_xbar (s : State) (r d p : Nat) (x : Option RSlot) : (s.setSlot r d p x).xbar = s.xbar := rfl
@[simp] theorem State.setSlot_strike (s : State) (r d p : Nat) (x : Option RSlot) : (s.setSlot r d p x).strike = s.strike := rfl
@[simp] theorem State.setSlot_signals (s : State) (r d p : Nat) (x : Option RSlot) : (s.setSlot r d p x).signals = s.signals := rfl
@[simp] theorem State.setSlot_sched (s : State) (r d p : Nat) (x : Option RSlot) : (s.setSlot r d p x).sched = s.sched := rfl
@[simp] theorem State.setSlot_out (s : State) (r d p : Nat) (x : Option RSlot) : (s.setSlot r d p x).out = s.out := rfl
@[simp] theorem State.modStop_cyc (s : State) (r d p : Nat) (f : RStop → RStop) : (s.modStop r d p f).cyc = s.cyc := rfl
@[simp] theorem State.modStop_agenda (s : State) (r d p : Nat) (f : RStop → RStop) : (s.modStop r d p f).agenda = s.agenda := rfl
@[simp] theorem State.modStop_draws (s : State) (r d p : Nat) (f : RStop → RStop) : (s.modStop r d p f).draws = s.draws := rfl
@[simp] theorem State.modStop_actor (s : State) (r d p : Nat) (f : RStop → RStop) : (s.modStop r d p f).actor = s.actor := rfl
@[simp] theorem State.modStop_actorChain (s : State) (r d p : Nat) (f : RStop → RStop) : (s.modStop r d p f).actorChain = s.actorChain := rfl
@[simp] theorem State.modStop_turnAt (s : State) (r d p : Nat) (f : RStop → RStop) : (s.modStop r d p f).turnAt = s.turnAt := rfl
@[simp] theorem State.modStop_mem (s : State) (r d p : Nat) (f : RStop → RStop) : (s.modStop r d p f).mem = s.mem := rfl
@[simp] theorem State.modStop_tiles (s : State) (r d p : Nat) (f : RStop → RStop) : (s.modStop r d p f).tiles = s.tiles := rfl
@[simp] theorem State.modStop_walls (s : State) (r d p : Nat) (f : RStop → RStop) : (s.modStop r d p f).walls = s.walls := rfl
@[simp] theorem State.modStop_plinth (s : State) (r d p : Nat) (f : RStop → RStop) : (s.modStop r d p f).plinth = s.plinth := rfl
@[simp] theorem State.modStop_mgmt (s : State) (r d p : Nat) (f : RStop → RStop) : (s.modStop r d p f).mgmt = s.mgmt := rfl
@[simp] theorem State.modStop_hw (s : State) (r d p : Nat) (f : RStop → RStop) : (s.modStop r d p f).hw = s.hw := rfl
@[simp] theorem State.modStop_copies (s : State) (r d p : Nat) (f : RStop → RStop) : (s.modStop r d p f).copies = s.copies := rfl
@[simp] theorem State.modStop_due (s : State) (r d p : Nat) (f : RStop → RStop) : (s.modStop r d p f).due = s.due := rfl
@[simp] theorem State.modStop_stamp (s : State) (r d p : Nat) (f : RStop → RStop) : (s.modStop r d p f).stamp = s.stamp := rfl
@[simp] theorem State.modStop_was (s : State) (r d p : Nat) (f : RStop → RStop) : (s.modStop r d p f).was = s.was := rfl
@[simp] theorem State.modStop_xbar (s : State) (r d p : Nat) (f : RStop → RStop) : (s.modStop r d p f).xbar = s.xbar := rfl
@[simp] theorem State.modStop_strike (s : State) (r d p : Nat) (f : RStop → RStop) : (s.modStop r d p f).strike = s.strike := rfl
@[simp] theorem State.modStop_signals (s : State) (r d p : Nat) (f : RStop → RStop) : (s.modStop r d p f).signals = s.signals := rfl
@[simp] theorem State.modStop_sched (s : State) (r d p : Nat) (f : RStop → RStop) : (s.modStop r d p f).sched = s.sched := rfl
@[simp] theorem State.modStop_out (s : State) (r d p : Nat) (f : RStop → RStop) : (s.modStop r d p f).out = s.out := rfl
@[simp] theorem State.modMsg_cyc (s : State) (id : Nat) (f : RingMsg → RingMsg) : (s.modMsg id f).cyc = s.cyc := rfl
@[simp] theorem State.modMsg_agenda (s : State) (id : Nat) (f : RingMsg → RingMsg) : (s.modMsg id f).agenda = s.agenda := rfl
@[simp] theorem State.modMsg_draws (s : State) (id : Nat) (f : RingMsg → RingMsg) : (s.modMsg id f).draws = s.draws := rfl
@[simp] theorem State.modMsg_actor (s : State) (id : Nat) (f : RingMsg → RingMsg) : (s.modMsg id f).actor = s.actor := rfl
@[simp] theorem State.modMsg_actorChain (s : State) (id : Nat) (f : RingMsg → RingMsg) : (s.modMsg id f).actorChain = s.actorChain := rfl
@[simp] theorem State.modMsg_turnAt (s : State) (id : Nat) (f : RingMsg → RingMsg) : (s.modMsg id f).turnAt = s.turnAt := rfl
@[simp] theorem State.modMsg_mem (s : State) (id : Nat) (f : RingMsg → RingMsg) : (s.modMsg id f).mem = s.mem := rfl
@[simp] theorem State.modMsg_tiles (s : State) (id : Nat) (f : RingMsg → RingMsg) : (s.modMsg id f).tiles = s.tiles := rfl
@[simp] theorem State.modMsg_walls (s : State) (id : Nat) (f : RingMsg → RingMsg) : (s.modMsg id f).walls = s.walls := rfl
@[simp] theorem State.modMsg_plinth (s : State) (id : Nat) (f : RingMsg → RingMsg) : (s.modMsg id f).plinth = s.plinth := rfl
@[simp] theorem State.modMsg_mgmt (s : State) (id : Nat) (f : RingMsg → RingMsg) : (s.modMsg id f).mgmt = s.mgmt := rfl
@[simp] theorem State.modMsg_hw (s : State) (id : Nat) (f : RingMsg → RingMsg) : (s.modMsg id f).hw = s.hw := rfl
@[simp] theorem State.modMsg_copies (s : State) (id : Nat) (f : RingMsg → RingMsg) : (s.modMsg id f).copies = s.copies := rfl
@[simp] theorem State.modMsg_due (s : State) (id : Nat) (f : RingMsg → RingMsg) : (s.modMsg id f).due = s.due := rfl
@[simp] theorem State.modMsg_stamp (s : State) (id : Nat) (f : RingMsg → RingMsg) : (s.modMsg id f).stamp = s.stamp := rfl
@[simp] theorem State.modMsg_was (s : State) (id : Nat) (f : RingMsg → RingMsg) : (s.modMsg id f).was = s.was := rfl
@[simp] theorem State.modMsg_xbar (s : State) (id : Nat) (f : RingMsg → RingMsg) : (s.modMsg id f).xbar = s.xbar := rfl
@[simp] theorem State.modMsg_strike (s : State) (id : Nat) (f : RingMsg → RingMsg) : (s.modMsg id f).strike = s.strike := rfl
@[simp] theorem State.modMsg_signals (s : State) (id : Nat) (f : RingMsg → RingMsg) : (s.modMsg id f).signals = s.signals := rfl
@[simp] theorem State.modMsg_sched (s : State) (id : Nat) (f : RingMsg → RingMsg) : (s.modMsg id f).sched = s.sched := rfl
@[simp] theorem State.modMsg_out (s : State) (id : Nat) (f : RingMsg → RingMsg) : (s.modMsg id f).out = s.out := rfl
@[simp] theorem dropRing_cyc (s : State) (id : Nat) : (dropRing s id).cyc = s.cyc := rfl
@[simp] theorem dropRing_agenda (s : State) (id : Nat) : (dropRing s id).agenda = s.agenda := rfl
@[simp] theorem dropRing_draws (s : State) (id : Nat) : (dropRing s id).draws = s.draws := rfl
@[simp] theorem dropRing_actor (s : State) (id : Nat) : (dropRing s id).actor = s.actor := rfl
@[simp] theorem dropRing_actorChain (s : State) (id : Nat) : (dropRing s id).actorChain = s.actorChain := rfl
@[simp] theorem dropRing_turnAt (s : State) (id : Nat) : (dropRing s id).turnAt = s.turnAt := rfl
@[simp] theorem dropRing_mem (s : State) (id : Nat) : (dropRing s id).mem = s.mem := rfl
@[simp] theorem dropRing_tiles (s : State) (id : Nat) : (dropRing s id).tiles = s.tiles := rfl
@[simp] theorem dropRing_walls (s : State) (id : Nat) : (dropRing s id).walls = s.walls := rfl
@[simp] theorem dropRing_plinth (s : State) (id : Nat) : (dropRing s id).plinth = s.plinth := rfl
@[simp] theorem dropRing_mgmt (s : State) (id : Nat) : (dropRing s id).mgmt = s.mgmt := rfl
@[simp] theorem dropRing_hw (s : State) (id : Nat) : (dropRing s id).hw = s.hw := rfl
@[simp] theorem dropRing_copies (s : State) (id : Nat) : (dropRing s id).copies = s.copies := rfl
@[simp] theorem dropRing_due (s : State) (id : Nat) : (dropRing s id).due = s.due := rfl
@[simp] theorem dropRing_stamp (s : State) (id : Nat) : (dropRing s id).stamp = s.stamp := rfl
@[simp] theorem dropRing_was (s : State) (id : Nat) : (dropRing s id).was = s.was := rfl
@[simp] theorem dropRing_xbar (s : State) (id : Nat) : (dropRing s id).xbar = s.xbar := rfl
@[simp] theorem dropRing_strike (s : State) (id : Nat) : (dropRing s id).strike = s.strike := rfl
@[simp] theorem dropRing_signals (s : State) (id : Nat) : (dropRing s id).signals = s.signals := rfl
@[simp] theorem dropRing_sched (s : State) (id : Nat) : (dropRing s id).sched = s.sched := rfl
@[simp] theorem dropRing_out (s : State) (id : Nat) : (dropRing s id).out = s.out := rfl

@[simp] theorem State.net_modNet (s : State) (f : Net → Net) : (s.modNet f).net = f s.net := rfl

/-- The slot written is the one read there. -/
@[simp] theorem State.slot_setSlot (s : State) (r d p : Nat) (x : Option RSlot) : (s.setSlot r d p x).net.slot r d p = x :=
  Tab.get_set_self ..

/-- A change of a stop is seen there. -/
@[simp] theorem State.stop_modStop (s : State) (r d p : Nat) (f : RStop → RStop) :
    (s.modStop r d p f).net.stop r d p = f (s.net.stop r d p) := Tab.get_set_self ..

end Sys2Proof.Machine
end

