-- ==== Sys2Proof/Laws/PerInstr.lean ====
section
/-!
SUPPORT. Statements made per instruction, one lemma per constructor of `Instr`. The family `Encoding` says in which space, and
so in how many bits, an instruction that has a word is encoded (spec/02_words.md R46, R60, R61).
-/
namespace Sys2Proof.Laws

/-- An encoded instruction is a banker word of 48 bits, a microword of 32 bits or a command record of 256 bits, as the encoder
of that space gives it. -/
def Encoding.Statement (i : Instr) : Prop :=
  ∀ n w, encode i = some (n, w) →
    (n = 48 ∧ encodeB i = some w) ∨ (n = 32 ∧ encodeM i = some w) ∨ (n = 256 ∧ encodeC i = some w)

/-- The encoder of all spaces asks those of the three spaces in turn. -/
theorem encode_space (i : Instr) : Encoding.Statement i := by
  intro n w h
  unfold encode at h
  cases hb : encodeB i with
  | some v => rw [hb] at h; cases h; exact .inl ⟨rfl, rfl⟩
  | none =>
    rw [hb] at h
    cases hm : encodeM i with
    | some v => rw [hm] at h; cases h; exact .inr (.inl ⟨rfl, rfl⟩)
    | none =>
      rw [hm] at h
      cases hc : encodeC i with
      | some v => rw [hc] at h; cases h; exact .inr (.inr ⟨rfl, rfl⟩)
      | none => rw [hc] at h; cases h

theorem Encoding.regionFire (x0 : CopyRef) : Encoding.Statement (.regionFire x0) := encode_space _
theorem Encoding.bPoisonWord (x0 : BitVec 64) : Encoding.Statement (.bPoisonWord x0) := encode_space _
theorem Encoding.bNop (x0 : Guard) : Encoding.Statement (.bNop x0) := encode_space _
theorem Encoding.bMov (x0 : AluMods) (x1 : BForm) : Encoding.Statement (.bMov x0 x1) := encode_space _
theorem Encoding.bAdd (x0 : AluMods) (x1 : BForm) : Encoding.Statement (.bAdd x0 x1) := encode_space _
theorem Encoding.bSub (x0 : AluMods) (x1 : BForm) : Encoding.Statement (.bSub x0 x1) := encode_space _
theorem Encoding.bNeg (x0 : AluMods) (x1 : BForm) : Encoding.Statement (.bNeg x0 x1) := encode_space _
theorem Encoding.bAbs (x0 : AluMods) (x1 : BForm) : Encoding.Statement (.bAbs x0 x1) := encode_space _
theorem Encoding.bMul (x0 : AluMods) (x1 : BForm) : Encoding.Statement (.bMul x0 x1) := encode_space _
theorem Encoding.bMulh (x0 : AluMods) (x1 : BForm) : Encoding.Statement (.bMulh x0 x1) := encode_space _
theorem Encoding.bMad (x0 : AluMods) (x1 : BForm) : Encoding.Statement (.bMad x0 x1) := encode_space _
theorem Encoding.bMin (x0 : AluMods) (x1 : BForm) : Encoding.Statement (.bMin x0 x1) := encode_space _
theorem Encoding.bMax (x0 : AluMods) (x1 : BForm) : Encoding.Statement (.bMax x0 x1) := encode_space _
theorem Encoding.div (x0 : AluMods) (x1 : BForm) : Encoding.Statement (.div x0 x1) := encode_space _
theorem Encoding.rem (x0 : AluMods) (x1 : BForm) : Encoding.Statement (.rem x0 x1) := encode_space _
theorem Encoding.bClamp (x0 : AluMods) (x1 : BForm) : Encoding.Statement (.bClamp x0 x1) := encode_space _
theorem Encoding.bMovi (x0 : BWide) : Encoding.Statement (.bMovi x0) := encode_space _
theorem Encoding.bMovhi (x0 : BWide) : Encoding.Statement (.bMovhi x0) := encode_space _
theorem Encoding.bAnd (x0 : AluMods) (x1 : BForm) : Encoding.Statement (.bAnd x0 x1) := encode_space _
theorem Encoding.bOr (x0 : AluMods) (x1 : BForm) : Encoding.Statement (.bOr x0 x1) := encode_space _
theorem Encoding.bXor (x0 : AluMods) (x1 : BForm) : Encoding.Statement (.bXor x0 x1) := encode_space _
theorem Encoding.bAndn (x0 : AluMods) (x1 : BForm) : Encoding.Statement (.bAndn x0 x1) := encode_space _
theorem Encoding.bNot (x0 : AluMods) (x1 : BForm) : Encoding.Statement (.bNot x0 x1) := encode_space _
theorem Encoding.bShl (x0 : AluMods) (x1 : BForm) : Encoding.Statement (.bShl x0 x1) := encode_space _
theorem Encoding.bShr (x0 : AluMods) (x1 : BForm) : Encoding.Statement (.bShr x0 x1) := encode_space _
theorem Encoding.bSar (x0 : AluMods) (x1 : BForm) : Encoding.Statement (.bSar x0 x1) := encode_space _
theorem Encoding.bRol (x0 : AluMods) (x1 : BForm) : Encoding.Statement (.bRol x0 x1) := encode_space _
theorem Encoding.bCmpeq (x0 : AluMods) (x1 : BForm) : Encoding.Statement (.bCmpeq x0 x1) := encode_space _
theorem Encoding.bCmpne (x0 : AluMods) (x1 : BForm) : Encoding.Statement (.bCmpne x0 x1) := encode_space _
theorem Encoding.bCmplt (x0 : AluMods) (x1 : BForm) : Encoding.Statement (.bCmplt x0 x1) := encode_space _
theorem Encoding.bCmple (x0 : AluMods) (x1 : BForm) : Encoding.Statement (.bCmple x0 x1) := encode_space _
theorem Encoding.bSel (x0 : AluMods) (x1 : BForm) : Encoding.Statement (.bSel x0 x1) := encode_space _
theorem Encoding.bClz (x0 : AluMods) (x1 : BForm) : Encoding.Statement (.bClz x0 x1) := encode_space _
theorem Encoding.bPopc (x0 : AluMods) (x1 : BForm) : Encoding.Statement (.bPopc x0 x1) := encode_space _
theorem Encoding.bCtz (x0 : AluMods) (x1 : BForm) : Encoding.Statement (.bCtz x0 x1) := encode_space _
theorem Encoding.bAgen (x0 : AluMods) (x1 : BForm) : Encoding.Statement (.bAgen x0 x1) := encode_space _
theorem Encoding.bWrap (x0 : AluMods) (x1 : BForm) : Encoding.Statement (.bWrap x0 x1) := encode_space _
theorem Encoding.bSext (x0 : AluMods) (x1 : BForm) : Encoding.Statement (.bSext x0 x1) := encode_space _
theorem Encoding.bZext (x0 : AluMods) (x1 : BForm) : Encoding.Statement (.bZext x0 x1) := encode_space _
theorem Encoding.bBswap (x0 : AluMods) (x1 : BForm) : Encoding.Statement (.bBswap x0 x1) := encode_space _
theorem Encoding.br (x0 : BWide) : Encoding.Statement (.br x0) := encode_space _
theorem Encoding.brr (x0 : BForm) : Encoding.Statement (.brr x0) := encode_space _
theorem Encoding.call (x0 : BWide) : Encoding.Statement (.call x0) := encode_space _
theorem Encoding.callr (x0 : BForm) : Encoding.Statement (.callr x0) := encode_space _
theorem Encoding.ret (x0 : BForm) : Encoding.Statement (.ret x0) := encode_space _
theorem Encoding.jtab (x0 : BForm) : Encoding.Statement (.jtab x0) := encode_space _
theorem Encoding.loop (x0 : BForm) : Encoding.Statement (.loop x0) := encode_space _
theorem Encoding.loopi (x0 : BWide) : Encoding.Statement (.loopi x0) := encode_space _
theorem Encoding.lbload (x0 : BForm) : Encoding.Statement (.lbload x0) := encode_space _
theorem Encoding.lbrun (x0 : BForm) : Encoding.Statement (.lbrun x0) := encode_space _
theorem Encoding.launch (x0 : BForm) : Encoding.Statement (.launch x0) := encode_space _
theorem Encoding.launcht (x0 : BForm) : Encoding.Statement (.launcht x0) := encode_space _
theorem Encoding.cfgload (x0 : BForm) : Encoding.Statement (.cfgload x0) := encode_space _
theorem Encoding.lintel (x0 : BForm) : Encoding.Statement (.lintel x0) := encode_space _
theorem Encoding.compact (x0 : BForm) : Encoding.Statement (.compact x0) := encode_space _
theorem Encoding.lqstat (x0 : BForm) : Encoding.Statement (.lqstat x0) := encode_space _
theorem Encoding.lcancel (x0 : BForm) : Encoding.Statement (.lcancel x0) := encode_space _
theorem Encoding.ctxpri (x0 : BForm) : Encoding.Statement (.ctxpri x0) := encode_space _
theorem Encoding.ctxevict (x0 : BForm) : Encoding.Statement (.ctxevict x0) := encode_space _
theorem Encoding.orphan (x0 : BForm) : Encoding.Statement (.orphan x0) := encode_space _
theorem Encoding.cfgfree (x0 : BForm) : Encoding.Statement (.cfgfree x0) := encode_space _
theorem Encoding.cfgstat (x0 : BForm) : Encoding.Statement (.cfgstat x0) := encode_space _
theorem Encoding.bLd (x0 : Bool) (x1 : Size) (x2 : BForm) : Encoding.Statement (.bLd x0 x1 x2) := encode_space _
theorem Encoding.bSt (x0 : Size) (x1 : BForm) : Encoding.Statement (.bSt x0 x1) := encode_space _
theorem Encoding.bLdg (x0 : MemMods) (x1 : BForm) : Encoding.Statement (.bLdg x0 x1) := encode_space _
theorem Encoding.bStg (x0 : MemMods) (x1 : BForm) : Encoding.Statement (.bStg x0 x1) := encode_space _
theorem Encoding.bPf (x0 : PfLevel) (x1 : BForm) : Encoding.Statement (.bPf x0 x1) := encode_space _
theorem Encoding.bTlook (x0 : BForm) : Encoding.Statement (.bTlook x0) := encode_space _
theorem Encoding.bTset (x0 : BForm) : Encoding.Statement (.bTset x0) := encode_space _
theorem Encoding.bTclr (x0 : BForm) : Encoding.Statement (.bTclr x0) := encode_space _
theorem Encoding.bStmw (x0 : MemMods) (x1 : BForm) : Encoding.Statement (.bStmw x0 x1) := encode_space _
theorem Encoding.flush (x0 : Scope) (x1 : BForm) : Encoding.Statement (.flush x0 x1) := encode_space _
theorem Encoding.inval (x0 : InvKind) (x1 : Scope) (x2 : BForm) : Encoding.Statement (.inval x0 x1 x2) := encode_space _
theorem Encoding.bAadd (x0 : MemMods) (x1 : BForm) : Encoding.Statement (.bAadd x0 x1) := encode_space _
theorem Encoding.bAand (x0 : MemMods) (x1 : BForm) : Encoding.Statement (.bAand x0 x1) := encode_space _
theorem Encoding.bAor (x0 : MemMods) (x1 : BForm) : Encoding.Statement (.bAor x0 x1) := encode_space _
theorem Encoding.bAxor (x0 : MemMods) (x1 : BForm) : Encoding.Statement (.bAxor x0 x1) := encode_space _
theorem Encoding.bAmin (x0 : MemMods) (x1 : BForm) : Encoding.Statement (.bAmin x0 x1) := encode_space _
theorem Encoding.bAmax (x0 : MemMods) (x1 : BForm) : Encoding.Statement (.bAmax x0 x1) := encode_space _
theorem Encoding.bAxchg (x0 : MemMods) (x1 : BForm) : Encoding.Statement (.bAxchg x0 x1) := encode_space _
theorem Encoding.bAcas (x0 : MemMods) (x1 : BForm) : Encoding.Statement (.bAcas x0 x1) := encode_space _
theorem Encoding.bAfadd (x0 : MemMods) (x1 : BForm) : Encoding.Statement (.bAfadd x0 x1) := encode_space _
theorem Encoding.bFence (x0 : Order) (x1 : Scope) (x2 : Guard) : Encoding.Statement (.bFence x0 x1 x2) := encode_space _
theorem Encoding.bSig (x0 : Bool) (x1 : Scope) (x2 : BForm) : Encoding.Statement (.bSig x0 x1 x2) := encode_space _
theorem Encoding.wait (x0 : Bool) (x1 : Bool) (x2 : Scope) (x3 : BForm) : Encoding.Statement (.wait x0 x1 x2 x3) := encode_space _
theorem Encoding.sbar (x0 : BForm) : Encoding.Statement (.sbar x0) := encode_space _
theorem Encoding.sigr (x0 : Bool) (x1 : Scope) (x2 : BForm) : Encoding.Statement (.sigr x0 x1 x2) := encode_space _
theorem Encoding.ecmd (x0 : BForm) : Encoding.Statement (.ecmd x0) := encode_space _
theorem Encoding.ecpy (x0 : BForm) : Encoding.Statement (.ecpy x0) := encode_space _
theorem Encoding.egath (x0 : BForm) : Encoding.Statement (.egath x0) := encode_space _
theorem Encoding.escat (x0 : BForm) : Encoding.Statement (.escat x0) := encode_space _
theorem Encoding.efetch (x0 : BForm) : Encoding.Statement (.efetch x0) := encode_space _
theorem Encoding.ecoll (x0 : BForm) : Encoding.Statement (.ecoll x0) := encode_space _
theorem Encoding.esig (x0 : BForm) : Encoding.Statement (.esig x0) := encode_space _
theorem Encoding.eexp (x0 : BForm) : Encoding.Statement (.eexp x0) := encode_space _
theorem Encoding.eseq (x0 : BForm) : Encoding.Statement (.eseq x0) := encode_space _
theorem Encoding.edrain (x0 : BForm) : Encoding.Statement (.edrain x0) := encode_space _
theorem Encoding.echainGo (x0 : BForm) : Encoding.Statement (.echainGo x0) := encode_space _
theorem Encoding.echainStop (x0 : BForm) : Encoding.Statement (.echainStop x0) := encode_space _
theorem Encoding.echainRetry (x0 : BForm) : Encoding.Statement (.echainRetry x0) := encode_space _
theorem Encoding.echainSkip (x0 : BForm) : Encoding.Statement (.echainSkip x0) := encode_space _
theorem Encoding.estat (x0 : BForm) : Encoding.Statement (.estat x0) := encode_space _
theorem Encoding.qform (x0 : BForm) : Encoding.Statement (.qform x0) := encode_space _
theorem Encoding.qinj (x0 : BForm) : Encoding.Statement (.qinj x0) := encode_space _
theorem Encoding.shset (x0 : BForm) : Encoding.Statement (.shset x0) := encode_space _
theorem Encoding.shget (x0 : BForm) : Encoding.Statement (.shget x0) := encode_space _
theorem Encoding.kvalloc (x0 : BForm) : Encoding.Statement (.kvalloc x0) := encode_space _
theorem Encoding.kvfree (x0 : BForm) : Encoding.Statement (.kvfree x0) := encode_space _
theorem Encoding.kvref (x0 : BForm) : Encoding.Statement (.kvref x0) := encode_space _
theorem Encoding.kvpin (x0 : BForm) : Encoding.Statement (.kvpin x0) := encode_space _
theorem Encoding.kvunpin (x0 : BForm) : Encoding.Statement (.kvunpin x0) := encode_space _
theorem Encoding.kvwr (x0 : BForm) : Encoding.Statement (.kvwr x0) := encode_space _
theorem Encoding.kvcommit (x0 : BForm) : Encoding.Statement (.kvcommit x0) := encode_space _
theorem Encoding.ringstRead (x0 : BForm) : Encoding.Statement (.ringstRead x0) := encode_space _
theorem Encoding.ringstWrite (x0 : BForm) : Encoding.Statement (.ringstWrite x0) := encode_space _
theorem Encoding.ringstClear (x0 : BForm) : Encoding.Statement (.ringstClear x0) := encode_space _
theorem Encoding.asld (x0 : BForm) : Encoding.Statement (.asld x0) := encode_space _
theorem Encoding.asgo (x0 : BForm) : Encoding.Statement (.asgo x0) := encode_space _
theorem Encoding.asstatRead (x0 : BForm) : Encoding.Statement (.asstatRead x0) := encode_space _
theorem Encoding.asstatClear (x0 : BForm) : Encoding.Statement (.asstatClear x0) := encode_space _
theorem Encoding.asstatStop (x0 : BForm) : Encoding.Statement (.asstatStop x0) := encode_space _
theorem Encoding.rqrd (x0 : BForm) : Encoding.Statement (.rqrd x0) := encode_space _
theorem Encoding.rqwr (x0 : BForm) : Encoding.Statement (.rqwr x0) := encode_space _
theorem Encoding.rqfault (x0 : BForm) : Encoding.Statement (.rqfault x0) := encode_space _
theorem Encoding.rqstateRead (x0 : BForm) : Encoding.Statement (.rqstateRead x0) := encode_space _
theorem Encoding.rqstateCancel (x0 : BForm) : Encoding.Statement (.rqstateCancel x0) := encode_space _
theorem Encoding.rqstateFaults (x0 : BForm) : Encoding.Statement (.rqstateFaults x0) := encode_space _
theorem Encoding.mfget (x0 : BForm) : Encoding.Statement (.mfget x0) := encode_space _
theorem Encoding.mfnext (x0 : BForm) : Encoding.Statement (.mfnext x0) := encode_space _
theorem Encoding.mfcnt (x0 : BForm) : Encoding.Statement (.mfcnt x0) := encode_space _
theorem Encoding.rqspill (x0 : BForm) : Encoding.Statement (.rqspill x0) := encode_space _
theorem Encoding.rqrecall (x0 : BForm) : Encoding.Statement (.rqrecall x0) := encode_space _
theorem Encoding.rqadmit (x0 : BForm) : Encoding.Statement (.rqadmit x0) := encode_space _
theorem Encoding.sacpt (x0 : BForm) : Encoding.Statement (.sacpt x0) := encode_space _
theorem Encoding.scommit (x0 : BForm) : Encoding.Statement (.scommit x0) := encode_space _
theorem Encoding.rngblk (x0 : BForm) : Encoding.Statement (.rngblk x0) := encode_space _
theorem Encoding.vocldLoad (x0 : BForm) : Encoding.Statement (.vocldLoad x0) := encode_space _
theorem Encoding.vocldUnload (x0 : BForm) : Encoding.Statement (.vocldUnload x0) := encode_space _
theorem Encoding.qrgo (x0 : BForm) : Encoding.Statement (.qrgo x0) := encode_space _
theorem Encoding.qrstat (x0 : BForm) : Encoding.Statement (.qrstat x0) := encode_space _
theorem Encoding.qrstop (x0 : BForm) : Encoding.Statement (.qrstop x0) := encode_space _
theorem Encoding.stgo (x0 : BForm) : Encoding.Statement (.stgo x0) := encode_space _
theorem Encoding.ststat (x0 : BForm) : Encoding.Statement (.ststat x0) := encode_space _
theorem Encoding.stclose (x0 : BForm) : Encoding.Statement (.stclose x0) := encode_space _
theorem Encoding.sysrd (x0 : BForm) : Encoding.Statement (.sysrd x0) := encode_space _
theorem Encoding.syswr (x0 : BForm) : Encoding.Statement (.syswr x0) := encode_space _
theorem Encoding.trap (x0 : BForm) : Encoding.Statement (.trap x0) := encode_space _
theorem Encoding.rfe (x0 : BForm) : Encoding.Statement (.rfe x0) := encode_space _
theorem Encoding.bBrk (x0 : BForm) : Encoding.Statement (.bBrk x0) := encode_space _
theorem Encoding.bcinv (x0 : BForm) : Encoding.Statement (.bcinv x0) := encode_space _
theorem Encoding.bTrig (x0 : BForm) : Encoding.Statement (.bTrig x0) := encode_space _
theorem Encoding.bTmark (x0 : BForm) : Encoding.Statement (.bTmark x0) := encode_space _
theorem Encoding.emul (x0 : BForm) : Encoding.Statement (.emul x0) := encode_space _
theorem Encoding.halt (x0 : BForm) : Encoding.Statement (.halt x0) := encode_space _
theorem Encoding.idle (x0 : BForm) : Encoding.Statement (.idle x0) := encode_space _
theorem Encoding.sysrdt (x0 : BForm) : Encoding.Statement (.sysrdt x0) := encode_space _
theorem Encoding.mPoisonWord (x0 : Word32) : Encoding.Statement (.mPoisonWord x0) := encode_space _
theorem Encoding.mNop : Encoding.Statement (.mNop) := encode_space _
theorem Encoding.mMov (x0 : Fin 16) (x1 : Fin 16) : Encoding.Statement (.mMov x0 x1) := encode_space _
theorem Encoding.mAdd (x0 : Fin 16) (x1 : Fin 16) (x2 : Fin 16) : Encoding.Statement (.mAdd x0 x1 x2) := encode_space _
theorem Encoding.mAddImm (x0 : Fin 16) (x1 : Fin 16) (x2 : BitVec 10) : Encoding.Statement (.mAddImm x0 x1 x2) := encode_space _
theorem Encoding.mSub (x0 : Fin 16) (x1 : Fin 16) (x2 : Fin 16) : Encoding.Statement (.mSub x0 x1 x2) := encode_space _
theorem Encoding.mSubImm (x0 : Fin 16) (x1 : Fin 16) (x2 : BitVec 10) : Encoding.Statement (.mSubImm x0 x1 x2) := encode_space _
theorem Encoding.mLi (x0 : Fin 16) (x1 : BitVec 22) : Encoding.Statement (.mLi x0 x1) := encode_space _
theorem Encoding.mBz (x0 : Fin 16) (x1 : BitVec 10) : Encoding.Statement (.mBz x0 x1) := encode_space _
theorem Encoding.mBnz (x0 : Fin 16) (x1 : BitVec 10) : Encoding.Statement (.mBnz x0 x1) := encode_space _
theorem Encoding.mJmp (x0 : BitVec 10) : Encoding.Statement (.mJmp x0) := encode_space _
theorem Encoding.mLoop (x0 : Fin 16) (x1 : BitVec 10) : Encoding.Statement (.mLoop x0 x1) := encode_space _
theorem Encoding.mWait (x0 : Bool) (x1 : Fin 16) (x2 : Fin 16) (x3 : BitVec 8) : Encoding.Statement (.mWait x0 x1 x2 x3) := encode_space _
theorem Encoding.mSig (x0 : Fin 16) (x1 : BitVec 8) : Encoding.Statement (.mSig x0 x1) := encode_space _
theorem Encoding.pgnext (x0 : Fin 16) : Encoding.Statement (.pgnext x0) := encode_space _
theorem Encoding.pgload (x0 : Fin 16) : Encoding.Statement (.pgload x0) := encode_space _
theorem Encoding.score : Encoding.Statement (.score) := encode_space _
theorem Encoding.bmax : Encoding.Statement (.bmax) := encode_space _
theorem Encoding.rescale : Encoding.Statement (.rescale) := encode_space _
theorem Encoding.expp : Encoding.Statement (.expp) := encode_space _
theorem Encoding.accpv : Encoding.Statement (.accpv) := encode_space _
theorem Encoding.fold (x0 : Fin 16) (x1 : Fin 16) : Encoding.Statement (.fold x0 x1) := encode_space _
theorem Encoding.rubmrg (x0 : Fin 16) : Encoding.Statement (.rubmrg x0) := encode_space _
theorem Encoding.fwd : Encoding.Statement (.fwd) := encode_space _
theorem Encoding.fin (x0 : Fin 16) : Encoding.Statement (.fin x0) := encode_space _
theorem Encoding.mHalt : Encoding.Statement (.mHalt) := encode_space _
theorem Encoding.mwaitPass (x0 : Nat) : Encoding.Statement (.mwaitPass x0) := encode_space _
theorem Encoding.sequencerStart (x0 : Nat) : Encoding.Statement (.sequencerStart x0) := encode_space _
theorem Encoding.cCopy (x0 : CHead) (x1 : BitVec 56) (x2 : BitVec 56) (x3 : BitVec 8) (x4 : BitVec 20) (x5 : Bool) (x6 : Bool) : Encoding.Statement (.cCopy x0 x1 x2 x3 x4 x5 x6) := encode_space _
theorem Encoding.cGather (x0 : CHead) (x1 : BitVec 56) (x2 : BitVec 56) (x3 : BitVec 8) (x4 : BitVec 20) (x5 : BitVec 14) (x6 : BitVec 2) : Encoding.Statement (.cGather x0 x1 x2 x3 x4 x5 x6) := encode_space _
theorem Encoding.cScatter (x0 : CHead) (x1 : BitVec 56) (x2 : BitVec 56) (x3 : BitVec 8) (x4 : BitVec 20) (x5 : Bool) (x6 : BitVec 14) (x7 : BitVec 2) : Encoding.Statement (.cScatter x0 x1 x2 x3 x4 x5 x6 x7) := encode_space _
theorem Encoding.cFetch (x0 : CHead) (x1 : BitVec 56) (x2 : BitVec 56) (x3 : BitVec 16) (x4 : BitVec 8) (x5 : BitVec 9) : Encoding.Statement (.cFetch x0 x1 x2 x3 x4 x5) := encode_space _
theorem Encoding.cFill (x0 : CHead) (x1 : Word) (x2 : BitVec 56) (x3 : BitVec 8) (x4 : BitVec 40) (x5 : Bool) : Encoding.Statement (.cFill x0 x1 x2 x3 x4 x5) := encode_space _
theorem Encoding.cRsig (x0 : CHead) (x1 : BitVec 27) (x2 : BitVec 32) : Encoding.Statement (.cRsig x0 x1 x2) := encode_space _
theorem Encoding.cVexp2 (x0 : CHead) (x1 : CExp) : Encoding.Statement (.cVexp2 x0 x1) := encode_space _
theorem Encoding.cVlog2 (x0 : CHead) (x1 : CExp) : Encoding.Statement (.cVlog2 x0 x1) := encode_space _
theorem Encoding.cVrcp (x0 : CHead) (x1 : CExp) : Encoding.Statement (.cVrcp x0 x1) := encode_space _
theorem Encoding.cVrsqrt (x0 : CHead) (x1 : CExp) : Encoding.Statement (.cVrsqrt x0 x1) := encode_space _
theorem Encoding.cAllred (x0 : CHead) (x1 : CColl) : Encoding.Statement (.cAllred x0 x1) := encode_space _
theorem Encoding.cAllgat (x0 : CHead) (x1 : CColl) : Encoding.Statement (.cAllgat x0 x1) := encode_space _
theorem Encoding.cRedsc (x0 : CHead) (x1 : CColl) : Encoding.Statement (.cRedsc x0 x1) := encode_space _
theorem Encoding.cBcast (x0 : CHead) (x1 : CColl) : Encoding.Statement (.cBcast x0 x1) := encode_space _
theorem Encoding.cQtok (x0 : CHead) (x1 : BitVec 56) (x2 : BitVec 56) (x3 : BitVec 8) (x4 : BitVec 20) (x5 : BitVec 24) (x6 : BitVec 20) : Encoding.Statement (.cQtok x0 x1 x2 x3 x4 x5 x6) := encode_space _
theorem Encoding.cSdet (x0 : CHead) (x1 : BitVec 56) (x2 : BitVec 56) (x3 : BitVec 8) (x4 : BitVec 20) (x5 : BitVec 20) (x6 : BitVec 24) : Encoding.Statement (.cSdet x0 x1 x2 x3 x4 x5 x6) := encode_space _
theorem Encoding.cBstep (x0 : CHead) (x1 : BitVec 6) (x2 : Bool) : Encoding.Statement (.cBstep x0 x1 x2) := encode_space _
theorem Encoding.cNull (x0 : CHead) : Encoding.Statement (.cNull x0) := encode_space _
theorem Encoding.engineCmdComplete (x0 : Nat) (x1 : Fin 4) : Encoding.Statement (.engineCmdComplete x0 x1) := encode_space _
theorem Encoding.collInstanceStart (x0 : Nat) (x1 : List CollPart) : Encoding.Statement (.collInstanceStart x0 x1) := encode_space _
theorem Encoding.placerPass (x0 : Nat) : Encoding.Statement (.placerPass x0) := encode_space _
theorem Encoding.copyLoadDone (x0 : CopyRef) : Encoding.Statement (.copyLoadDone x0) := encode_space _
theorem Encoding.copyStart (x0 : CopyRef) : Encoding.Statement (.copyStart x0) := encode_space _
theorem Encoding.wheelEpoch (x0 : Nat) : Encoding.Statement (.wheelEpoch x0) := encode_space _
theorem Encoding.countedEnd (x0 : CopyRef) : Encoding.Statement (.countedEnd x0) := encode_space _
theorem Encoding.launchEnd (x0 : Nat) (x1 : Nat) : Encoding.Statement (.launchEnd x0 x1) := encode_space _
theorem Encoding.portTokenArrival (x0 : PortSrc) : Encoding.Statement (.portTokenArrival x0) := encode_space _
theorem Encoding.snapshotCut (x0 : CopyRef) : Encoding.Statement (.snapshotCut x0) := encode_space _
theorem Encoding.cutComplete (x0 : CopyRef) : Encoding.Statement (.cutComplete x0) := encode_space _
theorem Encoding.cutWriteFault (x0 : CopyRef) : Encoding.Statement (.cutWriteFault x0) := encode_space _
theorem Encoding.lintelSweepStart (x0 : CopyRef) : Encoding.Statement (.lintelSweepStart x0) := encode_space _
theorem Encoding.lintelDiagonalSwitch (x0 : CopyRef) : Encoding.Statement (.lintelDiagonalSwitch x0) := encode_space _
theorem Encoding.sweepCommit (x0 : Nat) (x1 : Nat) : Encoding.Statement (.sweepCommit x0 x1) := encode_space _
theorem Encoding.sweepReversalDone (x0 : Nat) (x1 : Nat) : Encoding.Statement (.sweepReversalDone x0 x1) := encode_space _
theorem Encoding.expEngineResult (x0 : Nat) (x1 : Fin 4) : Encoding.Statement (.expEngineResult x0 x1) := encode_space _
theorem Encoding.loadDataReturn (x0 : Nat) (x1 : Nat) (x2 : Bool) : Encoding.Statement (.loadDataReturn x0 x1 x2) := encode_space _
theorem Encoding.storeAck (x0 : StoreSrc) (x1 : Bool) : Encoding.Statement (.storeAck x0 x1) := encode_space _
theorem Encoding.atomicReply (x0 : Nat) (x1 : Nat) (x2 : Bool) : Encoding.Statement (.atomicReply x0 x1 x2) := encode_space _
theorem Encoding.pageWalkComplete (x0 : Nat) (x1 : Nat) (x2 : Bool) : Encoding.Statement (.pageWalkComplete x0 x1 x2) := encode_space _
theorem Encoding.stmwArrival (x0 : Nat) (x1 : Nat) : Encoding.Statement (.stmwArrival x0 x1) := encode_space _
theorem Encoding.sigrArrival (x0 : SigSrc) : Encoding.Statement (.sigrArrival x0) := encode_space _
theorem Encoding.waitPass (x0 : Nat) : Encoding.Statement (.waitPass x0) := encode_space _
theorem Encoding.sbarArrival (x0 : Nat) : Encoding.Statement (.sbarArrival x0) := encode_space _
theorem Encoding.barrierRootArrival (x0 : Fin 16) : Encoding.Statement (.barrierRootArrival x0) := encode_space _
theorem Encoding.sbarResume (x0 : Nat) : Encoding.Statement (.sbarResume x0) := encode_space _
theorem Encoding.edrainDone (x0 : Nat) : Encoding.Statement (.edrainDone x0) := encode_space _
theorem Encoding.replyArrival (x0 : Nat) (x1 : Word) : Encoding.Statement (.replyArrival x0 x1) := encode_space _
theorem Encoding.ringSplice (x0 : Nat) (x1 : RingDir) : Encoding.Statement (.ringSplice x0 x1) := encode_space _
theorem Encoding.matchUnitExamine (x0 : TokSrc) : Encoding.Statement (.matchUnitExamine x0) := encode_space _
theorem Encoding.kvUnitOperation (x0 : Nat) (x1 : Option (Nat × KvRemote)) (x2 : Bool) : Encoding.Statement (.kvUnitOperation x0 x1 x2) := encode_space _
theorem Encoding.recordStoreOperation : Encoding.Statement (.recordStoreOperation) := encode_space _
theorem Encoding.setterWakeServe (x0 : Fin 16) : Encoding.Statement (.setterWakeServe x0) := encode_space _
theorem Encoding.requestFrame (x0 : Fin 4) (x1 : Word) (x2 : List Byte) : Encoding.Statement (.requestFrame x0 x1 x2) := encode_space _
theorem Encoding.cancelFrame (x0 : Fin 4) (x1 : Word) (x2 : List Byte) : Encoding.Statement (.cancelFrame x0 x1 x2) := encode_space _
theorem Encoding.objReadReply (x0 : List Byte) : Encoding.Statement (.objReadReply x0) := encode_space _
theorem Encoding.objReadTimeout (x0 : Word) : Encoding.Statement (.objReadTimeout x0) := encode_space _
theorem Encoding.trapEntry (x0 : Nat) : Encoding.Statement (.trapEntry x0) := encode_space _
theorem Encoding.traceFreeze (x0 : Nat) : Encoding.Statement (.traceFreeze x0) := encode_space _
theorem Encoding.hostMemoryRead (x0 : BitVec 48) (x1 : Nat) (x2 x3 : Bool) : Encoding.Statement (.hostMemoryRead x0 x1 x2 x3) := encode_space _
theorem Encoding.hostMemoryWrite (x0 : BitVec 48) (x1 : List Byte) (x2 : Bool) : Encoding.Statement (.hostMemoryWrite x0 x1 x2) := encode_space _
theorem Encoding.registerWrite (x0 : BitVec 32) (x1 : Word) : Encoding.Statement (.registerWrite x0 x1) := encode_space _
theorem Encoding.clearOnRead (x0 : BitVec 32) : Encoding.Statement (.clearOnRead x0) := encode_space _
theorem Encoding.evqRead : Encoding.Statement (.evqRead) := encode_space _
theorem Encoding.bkmtWrite (x0 : Nat) (x1 : Word) : Encoding.Statement (.bkmtWrite x0 x1) := encode_space _
theorem Encoding.chainEnable (x0 : Nat) (x1 : Fin 4) (x2 : Word) : Encoding.Statement (.chainEnable x0 x1 x2) := encode_space _
theorem Encoding.chainDisable (x0 : Nat) (x1 : Fin 4) (x2 : Word) : Encoding.Statement (.chainDisable x0 x1 x2) := encode_space _
theorem Encoding.mwinWrite (x0 : Nat) (x1 : Fin 4) (x2 : Word) : Encoding.Statement (.mwinWrite x0 x1 x2) := encode_space _
theorem Encoding.rscfgWrite (x0 : Nat) (x1 : Word) : Encoding.Statement (.rscfgWrite x0 x1) := encode_space _
theorem Encoding.kvpoolEnable (x0 : Nat) (x1 : Word) : Encoding.Statement (.kvpoolEnable x0 x1) := encode_space _
theorem Encoding.kvpoolDisable (x0 : Nat) (x1 : Word) : Encoding.Statement (.kvpoolDisable x0 x1) := encode_space _
theorem Encoding.ascfgWrite (x0 : Nat) (x1 : Word) : Encoding.Statement (.ascfgWrite x0 x1) := encode_space _
theorem Encoding.asstartGo (x0 : Nat) (x1 : Word) : Encoding.Statement (.asstartGo x0 x1) := encode_space _
theorem Encoding.resumeCopies (x0 : Nat) (x1 : Word) : Encoding.Statement (.resumeCopies x0 x1) := encode_space _
theorem Encoding.resumeCancel (x0 : Nat) (x1 : Word) : Encoding.Statement (.resumeCancel x0 x1) := encode_space _
theorem Encoding.snapbaseWrite (x0 : Nat) (x1 : Word) : Encoding.Statement (.snapbaseWrite x0 x1) := encode_space _
theorem Encoding.tracectlWrite (x0 : Nat) (x1 : Word) : Encoding.Statement (.tracectlWrite x0 x1) := encode_space _
theorem Encoding.trigctlWrite (x0 : Nat) (x1 : Word) : Encoding.Statement (.trigctlWrite x0 x1) := encode_space _
theorem Encoding.bctlRun (x0 : Nat) (x1 : Word) : Encoding.Statement (.bctlRun x0 x1) := encode_space _
theorem Encoding.wayresWrite (x0 : Nat) (x1 : Word) : Encoding.Statement (.wayresWrite x0 x1) := encode_space _
theorem Encoding.ordctlWrite (x0 : Word) : Encoding.Statement (.ordctlWrite x0) := encode_space _
theorem Encoding.orderModeChange : Encoding.Statement (.orderModeChange) := encode_space _
theorem Encoding.sbarRegWrite (x0 : Fin 16) (x1 : Word) : Encoding.Statement (.sbarRegWrite x0 x1) := encode_space _
theorem Encoding.cgrpWrite (x0 : Nat) (x1 : Word) : Encoding.Statement (.cgrpWrite x0 x1) := encode_space _
theorem Encoding.bfcfgWrite (x0 : BitVec 32) (x1 : Word) : Encoding.Statement (.bfcfgWrite x0 x1) := encode_space _
theorem Encoding.qrbufWrite (x0 : Word) : Encoding.Statement (.qrbufWrite x0) := encode_space _
theorem Encoding.sampcfgWrite (x0 : BitVec 32) (x1 : Word) : Encoding.Statement (.sampcfgWrite x0 x1) := encode_space _
theorem Encoding.arcStart (x0 : Word) : Encoding.Statement (.arcStart x0) := encode_space _
theorem Encoding.arcHello (x0 : List Nat) : Encoding.Statement (.arcHello x0) := encode_space _
theorem Encoding.coldReset : Encoding.Statement (.coldReset) := encode_space _
theorem Encoding.warmReset : Encoding.Statement (.warmReset) := encode_space _
theorem Encoding.pendingWarmReset : Encoding.Statement (.pendingWarmReset) := encode_space _
theorem Encoding.pwrReqWrite (x0 : Word) : Encoding.Statement (.pwrReqWrite x0) := encode_space _
theorem Encoding.powerStateChange : Encoding.Statement (.powerStateChange) := encode_space _
theorem Encoding.droopEpisode (x0 : Nat) : Encoding.Statement (.droopEpisode x0) := encode_space _
theorem Encoding.flashFirmware (x0 : Word) : Encoding.Statement (.flashFirmware x0) := encode_space _
theorem Encoding.flashConfigBlock (x0 : Word) : Encoding.Statement (.flashConfigBlock x0) := encode_space _
theorem Encoding.flashDegradationTable (x0 : Word) : Encoding.Statement (.flashDegradationTable x0) := encode_space _
theorem Encoding.flashDone : Encoding.Statement (.flashDone) := encode_space _
theorem Encoding.attestGo (x0 : Word) : Encoding.Statement (.attestGo x0) := encode_space _
theorem Encoding.attestDone : Encoding.Statement (.attestDone) := encode_space _
theorem Encoding.cxlEnable (x0 : Fin 6) (x1 : Word) : Encoding.Statement (.cxlEnable x0 x1) := encode_space _
theorem Encoding.cxlDisable (x0 : Fin 6) (x1 : Word) : Encoding.Statement (.cxlDisable x0 x1) := encode_space _
theorem Encoding.cxlLinkDown (x0 : Fin 6) : Encoding.Statement (.cxlLinkDown x0) := encode_space _
theorem Encoding.linkLaneError (x0 : Fin 16) (x1 : Bool) (x2 : Nat) (x3 : Nat) : Encoding.Statement (.linkLaneError x0 x1 x2 x3) := encode_space _
theorem Encoding.freeze : Encoding.Statement (.freeze) := encode_space _
theorem Encoding.unfreeze : Encoding.Statement (.unfreeze) := encode_space _
theorem Encoding.cxlLinkTrained (x0 : Fin 6) : Encoding.Statement (.cxlLinkTrained x0) := encode_space _
theorem Encoding.supplyRecovery : Encoding.Statement (.supplyRecovery) := encode_space _
theorem Encoding.frameOnUnimplementedMode (x0 : Fin 8) (x1 : List Byte) : Encoding.Statement (.frameOnUnimplementedMode x0 x1) := encode_space _
theorem Encoding.pfFillComplete (x0 : Nat) (x1 : Nat) (x2 : Bool) : Encoding.Statement (.pfFillComplete x0 x1 x2) := encode_space _

end Sys2Proof.Laws
end

