-- ==== Sys2Proof/Tests/Slice0.lean ====
section
/-!
SUPPORT. The package's own tests, each on one step of a small state: an ill-formed term for each check of `WellFormed`, words
written from the encodings of spec/, what an instruction leaves in one or two fields, and, for every statement that has
hypotheses, states and operands that meet them (`met_<statement>`), at the ends of the ranges its clauses name.
-/
open Sys2Proof Sys2Proof.Machine
namespace Sys2Proof.Tests

-- one theorem after another: many waiting for the kernel at once need much memory
set_option Elab.async false

/-! ## Small states -/

/-- The guard that is always true. -/
def on : Guard := ⟨false, 7⟩

/-- A form under it. -/
def form (d : BDst) (a b c : BSrc) : BForm := ⟨on, d, a, b, c⟩

/-- The form `g5, g1, g2`. -/
def f12 : BForm := form (.g 5) (.g 1) (.g 2) .none

/-- The form `g1, g2` without a destination. -/
def n12 : BForm := form .none (.g 1) (.g 2) .none

/-- A wide form under the guard that is always true. -/
def wide (d : BDst) (imm : BitVec 24) : BWide := ⟨on, d, imm⟩

/-- Reset with general registers of tile 0's banker set. -/
def regs (l : List (Nat × Word)) (s : State := .reset) : State := s.modRegs 0 fun r => { r with g := l.map fun p => (p.1, { v := p.2 }) }

/-- `g1` and `g2` set. -/
def ab (x y : Word) (s : State := .reset) : State := regs [(1, x), (2, y)] s

/-- Whether an instruction of the banker issues, as a computation. -/
def issues (s : State) (g : Guard) (d : BDst) (need : List Nat) (srcs : List PReg) : Bool :=
  decide (s.banker.readyAt (32 + g.idx.val) ≤ s.cyc) && !(s.banker.r.flag g.idx.val).poison &&
    (s.banker.r.flag g.idx.val).b == !g.neg && need.all (fun i => decide (s.banker.readyAt i ≤ s.cyc)) &&
    s.banker.readyAt (dstSlot d) != pendingReg && srcs.all fun p => !p.poison

theorem issues_of {s : State} {g : Guard} {d : BDst} {need : List Nat} {srcs : List PReg} (h : issues s g d need srcs = true) :
    Issues s g d need srcs := by
  simp only [issues, Bool.and_eq_true, decide_eq_true_eq, Bool.not_eq_true', beq_iff_eq, List.all_eq_true, bne_iff_ne] at h
  obtain ⟨⟨⟨⟨⟨a, b⟩, c⟩, d⟩, e⟩, f⟩ := h
  exact ⟨a, b, c, d, e, f⟩

theorem form_of {s : State} {f : BForm}
    (h : issues s f.guard f.dst (formRegs f) [readB s s.actor f.a, readB s s.actor f.b, readB s s.actor f.c] = true) :
    IssuesForm s f := issues_of h

theorem wide_of {s : State} {w : BWide} (h : issues s w.guard w.dst [] [] = true) : IssuesWide s w := issues_of h

theorem forms_of {l : List State} {f : BForm}
    (h : l.all (fun s => issues s f.guard f.dst (formRegs f) [readB s s.actor f.a, readB s s.actor f.b, readB s s.actor f.c]) = true) :
    ∀ s ∈ l, IssuesForm s f := fun s hs => form_of (List.all_eq_true.mp h s hs)

/-- Whether the banker's access to a memory tile is served, as a computation. -/
def served (s : State) (mt off n : Nat) (load : Bool) : Bool :=
  !localBlocked s s.actor mt off n load && (s.port s.actor mt).serves s.cyc 0

theorem port_of {s : State} {mt off n : Nat} {load : Bool} (h : served s mt off n load = true) : PortFree s mt off n load := by
  simp only [served, Bool.and_eq_true, Bool.not_eq_true'] at h
  exact ⟨h.1, h.2⟩

/-- Whether the home of an address is served, as a computation. -/
def homeServed (s : State) (pa : Nat) : Bool := match s.place pa with
  | .tileMem k mt _ => (s.port k mt).serves s.cyc 4
  | _ => true

theorem home_of {s : State} {pa : Nat} (h : homeServed s pa = true) : HomeServes s pa := by
  intro k mt off e
  simpa only [homeServed, e] using h
/-! ## Syntax and encodings -/

/-- Modifiers without SAT and U, of 64 bits. -/
def m64 : AluMods := ⟨false, false, .b64⟩

/-- A plain access of 64 bits at the scope of the tile. -/
def p64 : MemMods := ⟨false, .b64, .plain, .tile⟩

/-- A command head without wait and signal. -/
def head0 : CHead := ⟨false, false, 0, 0, 0, 0, .region⟩

/-- A slot form under the guard that is always true. -/
def eform (d : EDst) (a b c : ESrc) : EForm := ⟨on, d, a, b, c⟩

theorem test_illFormed_banker :
    [.bAdd m64 (form (.g 5) (.g 1) .none .none), .bAdd m64 (form (.g 5) (.g 1) (.g 2) (.g 3)), .bAdd m64 (form (.g 5) .none (.g 1) .none),
     .bMad m64 (form (.g 5) (.g 1) (.g 2) (.g 3)), .bAdd m64 (form (.f 1) (.g 1) (.g 2) .none), .bCmpeq m64 (form (.lc 1) (.g 1) (.g 2) .none),
     .bAnd { m64 with sat := true } f12, .bSext { m64 with uns := true } f12, .bZext m64 f12, .bBswap { m64 with size := .b8 } f12,
     .bMovi (wide (.f 0) 0), .bMovhi (wide .none 0), .br (wide (.g 1) 0), .brr (form .none (.imm6 1) .none .none),
     .brr (form (.g 5) (.g 1) .none .none), .call (wide .none 0), .callr (form .none (.g 1) .none .none),
     .jtab (form .none (.g 1) .none .none), .loop f12, .loopi (wide (.g 1) 0), .launch (form (.f 1) (.g 1) (.g 2) .none),
     .cfgload f12, .bSt .b64 f12, .bLdg { p64 with order := .release } f12, .bLdg p64 n12, .bStg { p64 with order := .acquire } n12,
     .bStg { p64 with uns := true } n12, .bTlook (form (.lc 1) (.g 1) (.g 2) .none), .bStmw { p64 with scope := .arcade } n12,
     .flush .arcade n12, .inval .xl .region n12, .bAadd { p64 with size := .b8 } f12, .bAfadd p64 f12, .bAcas p64 n12,
     .bFence .plain .tile on, .wait true true .tile (form (.f 1) (.g 1) (.g 2) .none), .sigr true .region n12,
     .ecmd (form (.g 5) (.g 1) (.g 2) .none), .ecpy (form (.g 5) (.imm6 0) .none .none), .sysrd (form .none (.g 1) .none .none),
     .syswr f12, .trap (form (.g 5) (.g 1) .none .none), .halt (form .none (.g 1) .none .none), .sysrdt n12,
     .bPoisonWord 0, .mPoisonWord 0, .cCopy { head0 with wsem := 1 } 0 0 0 0 false false, .cCopy head0 0 0 0 0 false true,
     .cNull { head0 with sinc := 1 }, .cFetch head0 0 0 0 0 0, .cFetch head0 0 0 0 0 257,
     .cVexp2 head0 ⟨0, .edge, .f32, .rne, 0, 0⟩, .cVexp2 head0 ⟨0, .f32, .edge, .rne, 0, 0⟩, .cBstep head0 1 true,
     .evqRead].all (fun i => !WellFormed i) = true := by decide +kernel

theorem test_illFormed_slot :
    [EInstr.alu .add m64 (eform (.p 1) (.s 1) (.s 2) .none), .alu .add m64 (eform (.k 1) (.s 1) .none .none),
     .alu .add m64 (eform (.k 1) (.imm12 0) (.s 2) .none), .alu .div m64 (eform (.k 1) (.s 1) (.s 2) .none),
     .alu .agen2 m64 (eform (.k 1) (.s 1) (.ch 0) (.ch 1)), .movi on (.p 0) 0, .movhi on (.ch 0) 0,
     .float .fadd .f32 .rne (eform (.p 1) (.s 1) (.s 2) .none), .float .fmin .f32 .rz (eform (.k 1) (.s 1) (.s 2) .none),
     .cvt .f32 .rne .f32 (eform (.p 1) (.s 1) .none .none), .scext (eform (.k 1) (.s 1) .none .none),
     .npack (eform (.ch 1) (.s 1) (.s 2) .none), .nunpk .edge .rne (eform (.k 1) (.s 1) (.s 2) .none),
     .expfn .exp2 .edge .rne .f32 (eform (.k 1) (.s 1) .none .none), .expfn .exp2 .f32 .rne .f32 (eform (.ch 1) (.s 1) .none .none),
     .bits .brev .b64 (eform (.p 1) (.s 1) .none .none), .stream .pop (eform (.k 1) (.ch 1) .none .none),
     .stream .push (eform (.k 1) (.s 1) (.s 2) .none), .stream .peek (eform (.k 1) (.s 1) .none .none),
     .stream .eos (eform .result .none .none .none), .stream .iseos (eform (.p 1) (.s 1) .none .none),
     .st .b64 (eform (.k 1) (.s 1) (.s 2) .none), .ldg p64 (eform .result (.s 1) (.s 2) .none),
     .stg { p64 with order := .acqRel } (eform .result (.s 1) (.s 2) .none), .stmw { p64 with scope := .arcade } (eform .result (.s 1) (.s 2) .none),
     .atomic .afadd p64 (eform (.k 1) (.s 1) (.s 2) .none), .atomic .aadd p64 (eform (.ch 1) (.s 1) (.s 2) .none), .fence .plain .tile on,
     .cell .sfeed (eform .result (.s 1) (.s 2) .none), .cell .skey (eform (.p 1) (.s 1) (.s 2) .none),
     .sample .rngu (eform (.p 1) (.s 1) (.s 2) .none), .sample .swin (eform (.k 1) (.s 1) (.s 2) .none),
     .tset (eform (.k 1) (.s 1) (.s 2) .none), .trig (eform (.k 1) (.s 1) .none .none)].all (fun e => !e.wf) = true := by decide +kernel

/-- spec/18_system.md R419 and R46, R57: `brk`, `rfe`, `emul g7, g6`, and a reserved opcode, which is poison. -/
theorem test_words_system : ∀ rd : BSrc → Nat,
    decodeB rd 0xF4000000001C = .bBrk (form .none .none .none .none) ∧ decodeB rd 0xF3000000001C = .rfe (form .none .none .none .none) ∧
    decodeB rd 0xF800011C601C = .emul (form (.g 7) (.g 6) .none .none) ∧ decodeB rd 0xFF000000001C = .bPoisonWord 0xFF000000001C :=
  fun _ => ⟨rfl, rfl, rfl, rfl⟩

/-- spec/16_sampling.md R362, spec/17_text.md R388, spec/07_control.md R164: `scommit g5, g8`, `vocld g1, g2, #0` (with
operand 1 the same word removes an image) and `loopi lc1, #2, #1`. -/
theorem test_words_requests :
    decodeB (fun _ => 0) 0xC1000114801C = .scommit (form (.g 5) (.g 8) .none .none) ∧
    decodeB (fun _ => 0) 0xD0008104201C = .vocldLoad (form (.g 1) (.g 2) (.imm6 0) .none) ∧
    decodeB (fun _ => 0x101) 0xD0008104201C = .vocldUnload (form (.g 1) (.g 2) (.imm6 0) .none) ∧
    decodeB (fun _ => 0) 0x47000304801C = .loopi (wide (.lc 1) 0x200) := by decide +kernel

/-- spec/09_memory.md R216 and spec/11_systolic.md R263: an acquire load of a CE at the scope of the wall, and `scmpx`. -/
theorem test_words_slots :
    decodeE 0x7244891C241E = some (.ldg ⟨false, .b32, .acquire, .wall⟩ (eform (.k 7) (.s 2) (.imm6 16) .none)) ∧
    (decodeE 0x97066800001C).isSome = true := by decide +kernel

/-! ## Integer instructions -/

/-- A signed form of 8 bits that saturates. -/
def s8 : AluMods := ⟨true, false, .b8⟩

theorem met_IntegerArithmeticIsExact : IssuesForm (ab 3 4) f12 ∧ s8.sat = true := ⟨form_of (by decide +kernel), rfl⟩

theorem met_LogicShiftsAndCounts :
    IssuesForm (ab 3 4) f12 ∧ m64.sat = false ∧ (s8.sat = true ∧ AluOp.and ≠ .shl) ∧ { m64 with uns := true : AluMods }.uns = true ∧
      m64.uns = false ∧ s8.size = .b8 := ⟨form_of (by decide +kernel), by decide⟩

/-- The divider of tile 0's banker is busy until cycle `n`. -/
def divBusy (n : Nat) (s : State) : State := s.modBk 0 fun b => { b with divBusy := n }

theorem met_ComparesSelectAndDivision :
    (IssuesForm (ab 7 0) f12 ∧ (ab 7 0).banker.divBusy ≤ (ab 7 0).cyc ∧ m64.sat = false) ∧
    (IssuesForm (divBusy 1 (ab 7 2)) f12 ∧ (divBusy 1 (ab 7 2)).cyc < (divBusy 1 (ab 7 2)).banker.divBusy) ∧ s8.sat = true :=
  ⟨⟨form_of (by decide +kernel), by decide +kernel⟩, ⟨form_of (by decide +kernel), by decide +kernel⟩, rfl⟩

theorem met_ConstantsAddressesAndIndexes :
    IssuesWide (ab 3 4) (wide (.g 31) 0x800000) ∧ Issues (ab 3 4) on (.g 1) [1] [Tab.get (ab 3 4).banker.r.g 1] ∧
    IssuesForm (ab 3 4) f12 ∧ (s8.sat = true ∨ (AluOp.agen2 = .agen2 ∧ s8.uns = false)) :=
  ⟨wide_of (by decide +kernel), issues_of (by decide +kernel), form_of (by decide +kernel), .inl rfl⟩

/-- Flag 3 of tile 0's banker is false, or poisoned. -/
def flag3 (poison : Bool) (s : State) : State := s.modRegs 0 fun r => { r with f := [(3, { poison := poison, b := poison })] }

/-- A form guarded by flag 3. -/
def g3 : BForm := { f12 with guard := ⟨false, 3⟩ }

/-- `g1`, or `g2`, of tile 0's banker is poisoned. -/
def bad (i : Nat) (s : State) : State := s.modRegs 0 fun r => { r with g := [(i, { v := 0x77, poison := true })] }

/-- Level 0 of tile 0's banker is active and ends at the pc, with two rounds left. -/
def atEnd (lc : Nat) (s : State) : State :=
  s.modBk 0 fun b => { b with pc := 0x108, r := { b.r with lc := [(0, lc)], start := [(0, 0x100)], stop := [(0, 0x108)], active := [(0, true)] } }

theorem met_RetiringWritesOnlyItsDestination :
    (BDst.g 5 = .g 5 ∧ NoLoopEnd (ab 3 4).banker) ∧
    (∃ t, exec (.bAdd m64 f12) (ab 3 4) = .next t ∧ (IssuesForm (ab 3 4) f12 ∨ ∀ i, f12.dst ≠ .lc i)) ∧
    (let s := flag3 false (ab 3 4)
     s.banker.readyAt (32 + g3.guard.idx.val) ≤ s.cyc ∧ (s.banker.r.flag 3).poison = false ∧ (s.banker.r.flag 3).b = g3.guard.neg) ∧
    ((∀ i, g3.dst ≠ .lc i) ∧ ((flag3 true (ab 3 4)).banker.r.flag 3).poison = true) ∧
    (let s := bad 1 .reset
     (s.banker.r.flag 7).poison = false ∧ (s.banker.r.flag 7).b = !f12.guard.neg ∧ (∀ i ∈ formRegs f12, s.banker.readyAt i ≤ s.cyc) ∧
       s.banker.readyAt (dstSlot f12.dst) ≠ pendingReg ∧ (readB s s.actor f12.c).poison = false ∧ (readB s s.actor f12.a).poison = true) ∧
    (let s := bad 2 .reset
     (readB s s.actor f12.c).poison = false ∧ (readB s s.actor f12.a).poison = false ∧ (readB s s.actor f12.b).poison = true) := by
  refine ⟨⟨rfl, by unfold NoLoopEnd; decide +kernel⟩, ⟨_, rfl, .inr fun i => by simp [f12, form]⟩, by decide +kernel, ⟨fun i => by simp [g3, f12,
      form], ?_⟩, by decide +kernel,
    by decide +kernel⟩
  decide +kernel

theorem met_poisonWord : let d := (bDstOf (wDk 0xFF0000000000001C) (wDi 0xFF0000000000001C)).getD .none
    (∀ i, d ≠ .lc i) ∧ (State.reset).banker.readyAt (dstSlot d) ≠ pendingReg := by
  refine ⟨fun i => ?_, by decide +kernel⟩
  revert i; decide +kernel

/-- The value that step leaves in a general register of tile 0's banker. -/
def gAfter (i : Instr) (s : State) (n : Nat) : Option Word := match exec i s with
  | .next t => some (Tab.get (t.tile 0).bk.r.g n).v
  | _ => none

/-- R109, R116: a sum of bytes that saturates, one that wraps, and the product's high half of −1 and 2. -/
theorem test_integer_arithmetic :
    gAfter (.bAdd s8 f12) (ab 0x7F 1) 5 = some 0x7F ∧ gAfter (.bAdd { s8 with sat := false } f12) (ab 0x7F 1) 5 = some 0xFFFFFFFFFFFFFF80 ∧
    gAfter (.bSub { m64 with uns := true, sat := true } f12) (ab 1 2) 5 = some 0 ∧
    gAfter (.bMulh m64 f12) (ab 0xFFFFFFFFFFFFFFFF 2) 5 = some 0xFFFFFFFFFFFFFFFF ∧
    gAfter (.bMulh { m64 with uns := true } f12) (ab 0xFFFFFFFFFFFFFFFF 2) 5 = some 1 ∧
    gAfter (.bAbs m64 f12) (ab 0x8000000000000000 0) 5 = some 0x8000000000000000 := by decide +kernel

/-- R118, R120: shifts by the width or more, a rotation, counts, and a byte swap of 16 bits. -/
theorem test_integer_bits :
    gAfter (.bShl { m64 with size := .b8 } f12) (ab 1 8) 5 = some 0 ∧ gAfter (.bSar m64 f12) (ab 0x8000000000000000 64) 5 = some 0xFFFFFFFFFFFFFFFF ∧
    gAfter (.bRol { m64 with size := .b8, uns := true } f12) (ab 0x81 1) 5 = some 3 ∧
    gAfter (.bClz { m64 with size := .b16 } f12) (ab 0 0) 5 = some 16 ∧ gAfter (.bCtz m64 f12) (ab 8 0) 5 = some 3 ∧
    gAfter (.bBswap { m64 with size := .b16, uns := true } f12) (ab 0x1234 0) 5 = some 0x3412 ∧
    gAfter (.bSext m64 f12) (ab 0x1FF 9) 5 = some 0xFFFFFFFFFFFFFFFF := by decide +kernel

/-- R119: compares by signedness, and the two borderline divisions. -/
theorem test_integer_division :
    gAfter (.bCmplt m64 f12) (ab 0xFFFFFFFFFFFFFFFF 0) 5 = some 1 ∧
        gAfter (.bCmplt { m64 with uns := true } f12) (ab 0xFFFFFFFFFFFFFFFF 0) 5 = some 0 ∧
    gAfter (.div m64 f12) (ab 7 0) 5 = some 0xFFFFFFFFFFFFFFFF ∧ gAfter (.rem m64 f12) (ab 7 0) 5 = some 7 ∧
    gAfter (.div m64 f12) (ab 0x8000000000000000 0xFFFFFFFFFFFFFFFF) 5 = some 0x8000000000000000 ∧
    gAfter (.div m64 f12) (ab 0xFFFFFFFFFFFFFFF9 2) 5 = some 0xFFFFFFFFFFFFFFFD ∧
    gAfter (.rem m64 f12) (ab 0xFFFFFFFFFFFFFFF9 2) 5 = some 0xFFFFFFFFFFFFFFFF := by decide +kernel

/-- R117: `movhi` moves bits 39:0 of its destination up and appends its immediate. -/
theorem test_movhi : gAfter (.bMovhi (wide (.g 1) 0xABCDEF)) (ab 0xFFFFFF1234567890 0) 1 = some 0x1234567890ABCDEF := by decide +kernel

/-- R109, with spec/06_bits.md's convention: a byte sum does not come out of the other operand's place. -/
theorem test_sub_order : gAfter (.bSub m64 f12) (ab 10 3) 5 = some 7 ∧ gAfter (.bAndn m64 f12) (ab 0xF 3) 5 = some 0xC := by decide +kernel

/-! ## Control flow -/

/-- The pc after a step of tile 0's banker. -/
def pcAfter (i : Instr) (s : State) : Option Word := match exec i s with
  | .next t => some (t.tile 0).bk.pc
  | _ => none

theorem met_TransfersReachTheirTarget :
    IssuesWide (atEnd 2 .reset) (wide .none 0xFFFFFF) ∧ ((atEnd 2 .reset).banker.pc + (0xFFFFFF : BitVec 24).signExtend 64 * 8).toNat % 8 = 0 ∧
    IssuesWide (atEnd 2 .reset) (wide (.g 31) 0) ∧ (IssuesForm (ab 0x208 1) n12 ∧ (srcA (ab 0x208 1) n12).toNat % 8 = 0) ∧
    (IssuesForm (ab 0x208 1) f12) ∧ (IssuesForm (ab 0 1) n12 ∧ (State.reset).banker.pc.toNat % 8 = 0) ∧
    IssuesForm (ab 0x20C 1) n12 ∧ (srcA (ab 0x20C 1) n12).toNat % 8 ≠ 0 ∧ (ab 0x20C 1).banker.hasPending 0 = false ∧
      (ab 0x20C 1).banker.emul = none :=
  ⟨wide_of (by decide +kernel), by decide +kernel, wide_of (by decide +kernel), ⟨form_of (by decide +kernel), by decide +kernel⟩,
    form_of (by decide +kernel), ⟨form_of (by decide +kernel), by decide +kernel⟩, form_of (by decide +kernel), by decide +kernel⟩

/-- A form that writes loop counter 0. -/
def lc0 : BForm := form (.lc 0) (.g 1) (.g 2) .none

/-- The loop buffer is filled from `g1` on, in `g2` words, by a copy that ends at once. -/
theorem met_HardwareLoopsRunTheirBodies :
    IssuesWide .reset (wide (.lc 2) 0x0001FF) ∧ (IssuesForm (ab 3 1) lc0 ∧ 1 ≤ (srcB (ab 3 1) lc0).toNat) ∧
    (IssuesForm (ab 3 256) lc0 ∧ (srcB (ab 3 256) lc0).toNat ≤ 256) ∧ (srcB (ab 3 0) lc0).toNat = 0 ∧ 256 < (srcB (ab 3 257) lc0).toNat ∧
    (let b := (atEnd 2 .reset).banker
     Tab.get b.r.active 0 = true ∧ Tab.get b.r.stop 0 = b.pc ∧ 1 < Tab.get b.r.lc 0) ∧
    (let b := (atEnd 1 .reset).banker
     Tab.get b.r.active 0 = true ∧ Tab.get b.r.stop 0 = b.pc ∧ ¬ 1 < Tab.get b.r.lc 0 ∧ ¬ Tab.get b.r.active 1 = true) ∧
    (let s := flag3 false .reset
     s.banker.readyAt 35 ≤ s.cyc ∧ (s.banker.r.flag 3).poison = false ∧ (s.banker.r.flag 3).b = false) ∧
    (IssuesForm (ab 0x100 0) n12 ∧ (srcA (ab 0x100 0) n12).toNat % 8 = 0 ∧ bankerBusy (ab 0x100 0) 0 = false ∧
      copyWords 0 0 ((ab 0x100 0).modBk 0 fun k => { k with lbvalid := false }) 0x100 =
        .ok ((ab 0x100 0).modBk 0 fun k => { k with lbvalid := false }, [])) :=
  ⟨wide_of (by decide +kernel), ⟨form_of (by decide +kernel), by decide +kernel⟩, ⟨form_of (by decide +kernel), by decide +kernel⟩,
    by decide +kernel, by decide +kernel, by decide +kernel, by decide +kernel, by decide +kernel, form_of (by decide +kernel),
        by decide +kernel, by decide +kernel, rfl⟩

/-- R161, R164, R165: a call links the next word, a body is entered, and the level with two rounds left loops back. -/
theorem test_control :
    gAfter (.call (wide (.g 31) 14)) (atEnd 2 .reset) 31 = some 0x110 ∧ pcAfter (.call (wide (.g 31) 14)) (atEnd 2 .reset) = some 0x178 ∧
    pcAfter (.br (wide .none 0xFFFFFF)) (atEnd 2 .reset) = some 0x100 ∧ pcAfter (.loopi (wide (.lc 0) 2)) .reset = some 32 ∧
    pcAfter (.bNop on) (atEnd 2 .reset) = some 0x100 ∧ pcAfter (.bNop on) (atEnd 1 .reset) = some 0x110 ∧
    pcAfter (.jtab n12) (ab 9 2) = some 24 := by decide +kernel

/-! ## Traps and the system instructions -/

/-- Traps are on in tile 0. -/
def traps (s : State := .reset) : State := s.modSys 0 fun x => { x with ten := true, tvec := 0x400 }

/-- What a step leaves, tested. -/
def left (i : Instr) (s : State) (p : State → Bool) : Bool := match exec i s with
  | .next t => p t
  | _ => false

theorem met_TrapEntryWritesTheFrame : ((traps (ab 3 4)).tile 0).sys.ten = true ∧
    (traps (ab 3 4)).reserved 0 ((traps (ab 3 4)).frameAt 0).1 = true := by decide +kernel

theorem met_ReturnRestoresWhatEntrySaved :
    let s := traps (atEnd 2 .reset)
    (s.tile 0).sys.ten = true ∧ s.reserved 0 (s.frameAt 0).1 = true ∧ ∀ n < 3, Tab.get (s.tile 0).bk.r.lc n < 2 ^ 32 := by decide +kernel

/-- A posted trap of tile 0. -/
def posted (s : State) : State := s.modSys 0 fun x => { x with posted := [{ trap := { cause := 0x40, posted := true } }] }

/-- Tile 0's banker runs. -/
def running (s : State := .reset) : State := s.modBk 0 fun b => { b with mode := 0 }

theorem met_DoubleFaultsPoisonAndPostedTraps :
    (((State.reset).tile 0).sys.ten = false ∧ (State.reset).mgmt.evq.length < 1024) ∧
    (let s := (traps .reset).modSys 0 fun x => { x with tfbase := 0x10000 }
     s.reserved 0 (s.frameAt 0).1 = false ∧ 1024 ≤ (s.modMgmt fun m => { m with evq := List.replicate 1024 (2, 0) }).mgmt.evq.length) ∧
    (let s := bad 1 .reset
     s.banker.readyAt 39 ≤ s.cyc ∧ (s.banker.r.flag 7).poison = false ∧ (s.banker.r.flag 7).b = !f12.guard.neg ∧
       (∀ i ∈ formRegs f12, s.banker.readyAt i ≤ s.cyc) ∧ s.banker.readyAt (dstSlot f12.dst) ≠ pendingReg ∧
       s.banker.hasPending 0 = false ∧ s.banker.emul = none ∧ (readB s s.actor f12.a).poison = true) ∧
    mayTakeTrap State.reset 0 = false ∧
    (let s := traps (posted running)
     mayTakeTrap s 0 = true ∧ (s.tile 0).sys.posted = [{ trap := { cause := 0x40, posted := true } }] ∧ (s.tile 0).sys.posters = []) ∧
    ((State.reset).tile 0).sys.post ≠ 1 := by decide +kernel

/-- The form of the system instructions that take nothing. -/
def f0 : BForm := form .none .none .none .none

/-- A state whose frame holds a misaligned pc. -/
def badFrame : State := { traps (.reset) with mem := writeBytes [] (mtAddr 0 0 8) (leBytes 8 0x104) }

theorem met_TrapBreakAndReturn :
    (IssuesForm (traps (ab 3 4)) n12 ∧ (traps (ab 3 4)).banker.hasPending 0 = false ∧ (traps (ab 3 4)).banker.emul = none) ∧
    (IssuesForm badFrame f0 ∧ readNat badFrame.mem (badFrame.frameBase 0 + 8) 8 % 8 ≠ 0) :=
  ⟨⟨form_of (by decide +kernel), by decide +kernel⟩, form_of (by decide +kernel), by decide +kernel⟩

/-- The trigger of tile 0 is armed for event ID 3. -/
def armed (s : State) : State := s.modSys 0 fun x => { x with trigctl := 0x8000000000000003 }

theorem met_HaltIdleInvalidationAndTraceMarks :
    (IssuesForm (ab 1 0) n12 ∧ ((ab 1 0).tile 0).sys.ten = false ∧ 1 ≤ (srcA (ab 1 0) n12).toNat ∧
      outstandingStores ((ab 1 0).tile 0).mem .banker = [] ∧ (ab 1 0).wallOf 1023 ≠ (ab 1 0).wallOf 0 ∧ (ab 1 0).wallOf 1 = (ab 1 0).wallOf 0) ∧
    (IssuesForm (traps (posted (ab 3 0))) n12 ∧ ((traps (posted (ab 3 0))).tile 0).sys.ten = true ∧
      ((traps (posted (ab 3 0))).tile 0).sys.posted ≠ [] ∧ (srcA (traps (posted (ab 3 0))) n12).toNat = 3) ∧
    (IssuesForm (ab 4 0) n12 ∧ 3 < (srcA (ab 4 0) n12).toNat ∧ (srcA (ab 0 0) n12).toNat = 0 ∧ (srcA (ab 2 0) n12).toNat = 2 ∧
      (ab 4 0).banker.hasPending 0 = false ∧ (ab 4 0).banker.emul = none) ∧
    (let x := ((armed (ab 3 0)).tile 0).sys
     IssuesForm (armed (ab 3 0)) n12 ∧ x.trigctl.getLsbD 63 = true ∧ (x.trigctl.extractLsb' 59 2).toNat = 0 ∧ (x.trigctl.setWidth 16).toNat = 3) ∧
    ¬ ((ab 3 0).tile 0).sys.trigctl.getLsbD 63 = true :=
  ⟨⟨form_of (by decide +kernel), by decide +kernel⟩, ⟨form_of (by decide +kernel), by decide +kernel⟩,
    ⟨form_of (by decide +kernel), by decide +kernel⟩, ⟨form_of (by decide +kernel), by decide +kernel⟩, by decide +kernel⟩

/-- Tile 0's banker waits in a stall. -/
def stalled (w : Stall) (s : State) : State := s.modBk 0 fun b => { b with stall := w }

theorem met_SystemRegisterAccessIsPerformedByTheReply :
    (IssuesForm (ab 0xF00088 1) f12 ∧ (srcA (ab 0xF00088 1) f12).toNat < 2 ^ 32 ∧ (srcA (ab 0xF00088 1) f12).toNat % 8 = 0 ∧
      sysRegAt (ab 0xF00088 1) (ownOffset (ab 0xF00088 1) 0 0xF00088) = some (.tile 0 0x88) ∧ (SysReg.tile 0 0x88).hostOnly = false) ∧
    (2 ^ 32 ≤ (srcA (ab 0x100000000 1) f12).toNat ∧ (srcA (ab 0xF00084 1) f12).toNat % 8 ≠ 0 ∧
      sysRegAt .reset (ownOffset .reset 0 0x000140) = none ∧ (∃ r, sysRegAt .reset (ownOffset .reset 0 0x0000C8) = some r ∧ r.hostOnly = true) ∧
      IssuesForm (ab 0xF00084 1) f12 ∧ (ab 0xF00084 1).banker.hasPending 0 = false ∧ (ab 0xF00084 1).banker.emul = none) ∧
    (IssuesForm (ab 0x7FF 0x7FFF) f12 ∧ (srcA (ab 0x7FF 0x7FFF) f12).toNat < 2 ^ 11 ∧ (srcB (ab 0x7FF 0x7FFF) f12).toNat < 2 ^ 15 ∧
      (srcA (ab 0x7FF 0x7FFF) f12).getLsbD 10 = true ∧ (ab 0x7FF 0x7FFF).tileOk 0 = true) ∧
    (let s := stalled (.sysreg true 0x500000 1 .none) .reset
     (s.tile 0).bk.stall = .sysreg true 0x500000 1 .none ∧ sysRegAt s 0x500000 = some (.plinth 0) ∧ ownBlock 0 (.plinth 0) = false) ∧
    (let s := stalled (.sysreg false 0x88 0 (.g 5)) .reset
     sysRegAt s 0x88 = some (.tile 0 0x88) ∧ ownBlock 0 (.tile 0 0x88) = true ∧ notYet s 0 = false) ∧
    ((stalled (.traceRead 1 0x4000 (.g 5)) .reset).tile 0).bk.stall = .traceRead 1 0x4000 (.g 5) :=
  ⟨⟨form_of (by decide +kernel), by decide +kernel⟩,
    ⟨by decide +kernel, by decide +kernel, by decide +kernel, ⟨.tile 0 0xC8, by decide +kernel, by decide +kernel⟩, form_of (by decide +kernel),
        by decide +kernel⟩,
    ⟨form_of (by decide +kernel), by decide +kernel⟩, by decide +kernel, by decide +kernel, by decide +kernel⟩

theorem met_EmulationTakesUpTheFrame :
    (let s := ab 0x01400130B01C 0
     Issues s f12.guard f12.dst (formRegs f12) [] ∧ (srcA s f12).toNat < 2 ^ 48 ∧ (srcA s f12).toNat / 2 ^ 40 % 256 = 1 ∧
         s.banker.hasPending 0 = false) ∧
    (let s := ab 0x0001000000000000 0
     Issues s f12.guard f12.dst (formRegs f12) [] ∧ 2 ^ 48 ≤ (srcA s f12).toNat) ∧
    0xF0 ≤ (srcA (ab 0xF00000000000 0) f12).toNat / 2 ^ 40 % 256 ∧ (srcA (ab 0x480000000000 0) f12).toNat / 2 ^ 40 % 256 = 0x48 :=
  ⟨⟨issues_of (by decide +kernel), by decide +kernel⟩, ⟨issues_of (by decide +kernel), by decide +kernel⟩, by decide +kernel⟩

/-- R393, R394: cause, EPC, INFO and g1 in the frame of a `trap`, and the vector. -/
theorem test_trap : left (.trap n12) (traps (ab 0x55 4)) (fun t =>
    (readNat t.mem (mtAddr 0 0 0) 8, readNat t.mem (mtAddr 0 0 8) 8, readNat t.mem (mtAddr 0 0 0x10) 8, readNat t.mem (mtAddr 0 0 0x88) 8,
     (t.tile 0).bk.pc, (t.tile 0).sys.ten) == (0x20, 8, 0x55, 0x55, 0x500, false)) = true := by decide +kernel

/-- R398: the same trap while traps are off. -/
theorem test_doubleFault : left (.trap n12) (ab 0x55 4) (fun t => ((t.tile 0).bk.mode, t.mgmt.evq) == (3, [(4, 0)])) = true := by decide +kernel

/-- R397: a return from the frame with the pc 0x104. -/
theorem test_rfe : left (.rfe f0) badFrame (fun t => ((t.tile 0).bk.pc, (t.tile 0).sys.ten, (t.tile 0).bk.nextIssue) == (0x104, true,
    50)) = true := by
  decide +kernel

/-- R391: a misaligned `brr` takes BAD_TARGET with its own address. -/
theorem test_badTarget : left (.brr n12) (traps (ab 0x20C 4)) (fun t =>
    (readNat t.mem (mtAddr 0 0 0) 8, readNat t.mem (mtAddr 0 0 8) 8, readNat t.mem (mtAddr 0 0 0x10) 8) == (0x18, 0,
        0x20C)) = true := by decide +kernel

/-! ## Launches -/

/-- A configuration image of one page and one table entry: use and FIFO masks, slot words and edges (spec/08_launch.md R182, R183). -/
def image (use fifo : Nat) (words edges : List Nat) : List Byte :=
  let body := words ++ edges
  leBytes 32 (0x0A1EC0F6 + 2 ^ 32 + 2 ^ 64 + use * 2 ^ 80 + fifo * 2 ^ 96 + edges.length * 2 ^ 136 + (32 + 8 * body.length) * 2 ^ 192) ++
    body.flatMap (leBytes 8)

/-- Sixteen slots without effect. -/
def nops : List Nat := List.replicate 16 0

/-- An image without edges, and one whose memory tile 0 is a sink fed by CE 0, channel 0. -/
def img0 : List Byte := image 0 0 nops []
@[inherit_doc img0] def img1 : List Byte := image 1 1 nops [0x200 * 2 ^ 10 + 0x1C * 2 ^ 20]

/-- A configuration store: two good images, and two that failed their checks. -/
def store (s : State := .reset) : State := s.modPlinth fun p =>
  { p with cfg := [(1, { live := true, bytes := img0 }), (2, { live := true, bytes := img1 }), (3, { live := true, check := 3 }),
                   (4, { live := true, check := 7 })] }

/-- An entry of tile 0's launch table. -/
def launched (lid : Nat) (l : Launch) (s : State) : State := s.modTile 0 fun x => { x with launches := Tab.set x.launches lid l }

/-- A launch of the first image. -/
def job (st : LState) : Launch := { used := true, handle := 1, state := st, trip := 3, csem := 9, offs := [(0, 0)] }

/-- A resident copy of the first image for launch `lid` of tile 0. -/
def copy (lid : Nat) (ph : CopyPhase) : Copy :=
  { ref := ⟨0, lid, 0⟩, pages := [0], kern := kernelOf img0, phase := ph, table := kernelTables (kernelOf img0) }

/-- A copy is resident. -/
def resident (c : Copy) (s : State) : State := { s with copies := s.copies ++ [c] }

theorem test_images : checkImage img0 = 0 ∧ checkImage img1 = 0 ∧ checkImage (img0.drop 8) = 1 ∧ checkImage (image 0 1 nops []) = 4 ∧
    checkImage (image 0 0 (0xFF000000001C :: nops.tail) []) = 0 := by decide +kernel

/-- Sixteen launches are queued. -/
def queueFull (s : State) : State := (List.range 16).foldl (fun s i => launched i (job .queued) s) s

/-- A device whose degradation table leaves no tile. -/
def noTiles (s : State) : State := { s with hw := { shape := List.replicate 384 0xFF } }

/-- What `checkLaunch` accepts. -/
def accepts (s : State) : Bool := match checkLaunch s 0 (srcA s f12).toNat (srcB s f12).toNat with
  | .ok (u, _) => decide ((queuedLids (u.tile 0)).length < 16) && (tableRoom (u.tile 0).launches).isSome
  | _ => false

theorem met_LaunchEntersTheQueueOrChangesNothing :
    (let s := store (ab 0x0000000100000001 0)
     IssuesForm s f12 ∧ (Tab.get s.plinth.cfg 1).live = true ∧ (Tab.get s.plinth.cfg 1).check = 0 ∧
       ((srcA s f12).extractLsb' 28 4).toNat = 0 ∧ (findRegions (fun _ => 0) (wallTiles s (s.wallOf 0)) (s.kernel 1) 1 []).isSome = true ∧
       ((srcA s f12).extractLsb' 32 32).toNat ≠ 0 ∧ (srcA s f12).getLsbD 27 = false ∧ srcB s f12 = 0 ∧ accepts s = true) ∧
    (let s := store (ab 0x0000000000000002 0)
     IssuesForm s f12 ∧ (s.kernel 2).sinks ≠ []) ∧
    (store .reset).banker.hasPending 0 = false ∧ (store .reset).banker.emul = none ∧ (Tab.get (store .reset).plinth.cfg 5).live = false ∧
    (Tab.get (store .reset).plinth.cfg 3).check = 3 ∧ (Tab.get (store .reset).plinth.cfg 4).check ≠ 3 ∧
    (let s := store (ab 0x0000000010000001 0)
     IssuesForm s f12 ∧ ((srcA s f12).extractLsb' 28 4).toNat ≠ 0) ∧
    (let s := store (ab 0x0000000000000001 0)
     IssuesForm s f12 ∧ ((srcA s f12).extractLsb' 32 32).toNat = 0 ∧ (s.kernel 1).sinks = []) ∧
    (let s := noTiles (store (ab 0x000000010001F001 0))
     IssuesForm s f12 ∧ findRegions (fun _ => 0) (wallTiles s (s.wallOf 0)) (s.kernel 1) 32 [] = none) ∧
    (let s := queueFull (store (ab 0x0000000100000001 0))
     IssuesForm s f12 ∧ 16 ≤ (queuedLids (s.tile 0)).length ∧
       (match checkLaunch s 0 (srcA s f12).toNat (srcB s f12).toNat with | .ok (u, _) => u == s | _ => false) = true) :=
  ⟨⟨form_of (by decide +kernel), by decide +kernel⟩, ⟨form_of (by decide +kernel), by decide +kernel⟩, by decide +kernel, by decide +kernel,
    by decide +kernel, by decide +kernel, by decide +kernel, ⟨form_of (by decide +kernel), by decide +kernel⟩,
    ⟨form_of (by decide +kernel), by decide +kernel⟩, ⟨form_of (by decide +kernel), by decide +kernel⟩, form_of (by decide +kernel),
        by decide +kernel⟩

/-- Translation is on, and tile 0's TLB maps the first 64 KiB to the start of HBM (spec/09_memory.md R231, R234). -/
def mapped (s : State) : State := (s.modPlinth fun p => { p with ptroot := 1 }).modMem 0 fun m => { m with tlb := [{ w := true, x := true }] }

/-- Bytes of memory. -/
def bytesAt (a : Nat) (l : List Byte) (s : State) : State := { s with mem := writeBytes s.mem a l }

theorem met_ConfigurationStore :
    (let s := store (ab 1 0)
     IssuesForm s f12 ∧ (srcA s f12).toNat < 4096 ∧ (srcA s f12).toNat ≠ 0 ∧ (Tab.get s.plinth.cfg 1).live = true ∧ usersOf s 1 = 0) ∧
    usersOf (launched 3 (job .running) (store (ab 1 0))) 1 ≠ 0 ∧ ¬ (srcA (ab 4096 0) f12).toNat < 4096 ∧ (srcA (ab 0 0) f12).toNat = 0 ∧
    (srcA (ab 0x1001 0) f12).toNat % 8 ≠ 0 ∧
    (let s := mapped (bytesAt 0x1000 img0 (ab 0x1000 0))
     IssuesForm s f12 ∧ (match readImage s 0 0x1000 with
       | some (u, l) => l == img0 && freeHandle u == some 1 && decide (storeUsed u + l.length ≤ 2 ^ 26)
       | none => false) = true) :=
  ⟨⟨form_of (by decide +kernel), by decide +kernel⟩, by decide +kernel, by decide +kernel, by decide +kernel, by decide +kernel,
    form_of (by decide +kernel), by decide +kernel⟩

/-- Cuts of tile 0 are written. -/
def snap (s : State) : State := s.modSys 0 fun x => { x with snapbase := 1 }

/-- Launch 1 runs in one copy. -/
def run1 (s : State) : State := resident (copy 1 .running) (launched 1 (job .running) s)

/-- Launch 2 is staged for launch 1. -/
def staged2 (st : LState) (s : State) : State := launched 2 { job st with staged := true, partner := 1 } s

/-- Launch 1 runs on page 1, so a compaction moves it. -/
def moving (s : State) : State := store (snap (resident { copy 1 .running with pages := [1] } (launched 1 (job .running) s)))

/-- A compaction of wall 0 is under way. -/
def compacting (s : State) : State := s.modWall 0 fun w => { w with compaction := some {} }

theorem met_LaunchControl :
    (∀ s ∈ [run1 (ab 1 0), snap (run1 (ab 1 3)), launched 1 (job .queued) (ab 1 4), launched 1 (job .evicted) (ab 1 0),
       launched 1 (job .ended) (ab 1 0), launched 1 (job .cancelled) (ab 1 0), ab 7 0, ab 0x10000 0, staged2 .staged (run1 (ab 1 2)),
       staged2 .sweeping (run1 (ab 1 2)), staged2 .staged (launched 1 (job .sweeping) (ab 1 2)), compacting (ab 0x105 0), ab 0x105 0,
       moving (ab 0x105 0)], IssuesForm s f12) ∧
    (let s := run1 (ab 1 0)
     (s.launch 0 1).used = true ∧ (s.launch 0 1).state = .running ∧ sweepOf s 0 1 = none ∧ (srcB s f12).toNat ≤ 3 ∧ canCut s 0 1 = false) ∧
    (srcB (snap (run1 (ab 1 3))) f12).toNat ≤ 3 ∧ canCut (snap (run1 (ab 1 3))) 0 1 = true ∧
    (let s := launched 1 (job .queued) (ab 1 4)
     (s.launch 0 1).state = .queued ∧ 3 < (srcB s f12).toNat) ∧
    ((launched 1 (job .evicted) (ab 1 0)).launch 0 1).state = .evicted ∧ ((launched 1 (job .ended) (ab 1 0)).launch 0 1).state = .ended ∧
    ((launched 1 (job .cancelled) (ab 1 0)).launch 0 1).state = .cancelled ∧ ((ab 7 0).launch 0 7).used = false ∧
    ¬ (srcA (ab 0x10000 0) f12).toNat < 65536 ∧
    (let y := (staged2 .staged (run1 (ab 1 2))).launch 0 2
     y.used = true ∧ y.staged = true ∧ y.partner = 1 ∧ y.state = .staged) ∧
    ¬ ((snap (run1 (ab 1 3))).launch 0 3).used = true ∧ ((staged2 .sweeping (run1 (ab 1 2))).launch 0 2).state = .sweeping ∧
    ¬ ((run1 (ab 1 1)).launch 0 1).staged = true ∧ ((compacting (ab 0x105 0)).wall 0).compaction ≠ none ∧
    ((ab 0x105 0).copies.filter (movable (ab 0x105 0) 0) = [] ∧ (srcA (ab 0x105 0) f12).getLsbD 8 = true) ∧
    (let s := moving (ab 0x105 0)
     ((((s.copies.filter (movable s 0)).foldl (fun acc c => insertBy moveBefore c acc) []).foldl (planMove 0) (s, [])).2.length = 1)) :=
  ⟨forms_of (by decide +kernel), by decide +kernel⟩

/-! ## Placement, endings and sweeps -/

/-- A resident copy of the second image, whose sink is memory tile 0. -/
def sinkCopy (lid : Nat) (ph : CopyPhase) : Copy := { copy lid ph with kern := kernelOf img1, table := kernelTables (kernelOf img1) }

/-- Launch 1 with its copy in a phase. -/
def one (st : LState) (c : Copy) (s : State) : State := store (resident c (launched 1 (job st) s))

/-- Launch 1 is being cancelled. -/
def cancelling (s : State) : State := s.modLaunch 0 1 fun l => { l with state := .cancelled, cancelling := true }

/-- Launch 1 sweeps to launch 2, which is staged beside it; the sweep of its one copy stands at `x`. -/
def sweeping (x : SweepCopy) (w : Sweep := {}) (s : State := .reset) : State :=
  one .sweeping (copy 1 .running) (resident { copy 2 .staged with slot := 1 } (launched 2 { job .sweeping with staged := true, partner := 1 } s))
    |>.modLaunch 0 1 fun l => { l with sweep := some { w with newLid := 2, copies := Tab.set [] 0 x } }

theorem met_PlacingLoadingAndEnding :
    wallQueue .reset 0 = [] ∧
    (let s := store (launched 1 (job .queued) .reset)
     wallQueue s 0 = [(0, 1)] ∧ (regionsFor s (claims s) 0 1).isSome = true) ∧
    (let s := one .loading (sinkCopy 1 .loading) .reset
     let c := sinkCopy 1 .loading
     s.copy? ⟨0, 1, 0⟩ = some c ∧ c.phase = .loading ∧ c.loadAt ≤ s.cyc ∧ c.restore = none ∧ c.kern.mtCache = 0 ∧ c.kern.data = [] ∧
       (s.launch 0 1).staged = false) ∧
    (one .running (copy 1 .waiting) .reset).copy? ⟨0, 1, 0⟩ = some (copy 1 .waiting) ∧
    launchEnds (one .running (copy 1 .stopped) .reset) 0 1 = true ∧ launchEnds (cancelling (one .running (copy 1 .stopped) .reset)) 0 1 = true ∧
    launchEnds .reset 0 1 = false ∧
    (let s := one .running (sinkCopy 1 .stopped) .reset
     s.copy? ⟨0, 1, 0⟩ = some (sinkCopy 1 .stopped) ∧ landed s (sinkCopy 1 .stopped) = true ∧ (s.launch 0 1).cancelling = false) := by
  decide +kernel

theorem met_WheelGivesEveryActiveSlotAPosition :
    slotPri (one .running (copy 1 .running) .reset) 0 0 ≠ none ∧ ∀ i < 4, slotPri .reset 0 i = none := by decide +kernel

/-- Which fetch of a sweep faults is free (log entry 11): the switch's two cases exclude each other and one of them holds. -/
theorem met_SweepSwitchesDiagonalByDiagonal :
    (let s := sweeping {}
     s.copy? ⟨0, 1, 0⟩ = some (copy 1 .running) ∧ sweepReady s (copy 1 .running) = true) ∧
    (let s := sweeping { started := true, diag := 6 }
     s.copy? ⟨0, 1, 0⟩ = some (copy 1 .running) ∧ (s.copy? ⟨0, 2, 0⟩).isSome = true ∧
       (match (s.launch 0 1).sweep with
        | some w => !w.reversing && (Tab.get w.copies 0).started && !(Tab.get w.copies 0).complete
        | none => false) = true) ∧
    (let s := sweeping { started := true, diag := 7, complete := true }
     sweepDone s 0 1 = true ∧ (match (s.launch 0 1).sweep with | some w => w.deferred == [] && w.newLid != 1 | none => false) = true) ∧
    (let s := sweeping { started := true } { reversing := true, loc := 0x55 }
     (s.tile 0).sys.posted.length < 32 ∧
       (match (s.launch 0 1).sweep with | some w => w.reversing && w.deferred == [] && w.newLid != 1 | none => false) = true) ∧
    (Config.cfgFetchFault 1 = none ∨ ∃ ce, Config.cfgFetchFault 1 = some ce) :=
  ⟨by decide +kernel, by decide +kernel, by decide +kernel, by decide +kernel, by cases Config.cfgFetchFault 1 <;> simp⟩

/-- R189: the first launch after reset gets identifier 0, and a cancelled queued one raises its semaphore in the next cycle (R197). -/
theorem test_launch :
    gAfter (.launch f12) (store (ab 0x0000000100000001 0)) 5 = some 0 ∧ gAfter (.launch f12) (store (ab 0x0000000100000000 0)) 5 = some 1 ∧
    left (.lcancel f12) (launched 1 (job .queued) (ab 1 0)) (fun t =>
      (t.due, (t.launch 0 1).state) == ([{ at' := 1, phase := 1, act := .semAdd 0 9 1 }], .cancelled)) = true := by
  decide +kernel

/-! ## Regions and slots -/

/-- An image with two edges of 64-bit integers: CE 1 to CE 0's channel 0, and CE 0's channel 1 to CE 2. -/
def img2 : List Byte := image 1 0 nops [0x08 + 0 * 2 ^ 10 + 0x1C * 2 ^ 20, 0x01 + 0x10 * 2 ^ 10 + 0x1C * 2 ^ 20]

/-- A token of that format. -/
def token (v : Val) (hdr : Nat := mkHeader 0x70000 0x1C 0 0 0 0) : Token := { val := v, hdr := hdr }

/-- A running copy whose CE 0 holds a slot word, tokens at its channel 0, registers and a predicate. -/
def slot (e : EInstr) (toks : List Token := []) (ce : Ce := {}) : Copy :=
  { copy 1 .running with kern := kernelOf img2, table := [(0, [BitVec.ofNat 48 (encodeE e)])],
                         ces := [(0, { ce with queue := if toks = [] then [] else [(0, toks)] })] }

/-- CE 0 adds k1 and k2 into k3. -/
def kAdd : EInstr := .alu .add m64 (eform (.k 3) (.k 1) (.k 2) .none)

/-- k1 and k2 of a CE. -/
def ks (x y : Val) : Ce := { k := [(1, x), (2, y)] }

theorem met_RegionsFireWhenReadyAndGranted :
    (let c := slot kAdd [] (ks { v := 3 } { v := 4 })
     let s := one .running c .reset
     s.copy? c.ref = some c ∧ s.ready c = true ∧ ((granted s (contenders s)).any fun x => x.ref == c.ref) = true ∧
       (match fireAll (passFence s c).1 (passFence s c).2 with
        | .ok f => f.faults == [] && f.brk == none && (f.s.copy? c.ref).isSome
        | _ => false) = true ∧ c.kern.ii ≤ c.v + 1) ∧
    (let c := { slot kAdd with kern := { (slot kAdd).kern with ii := 2 } }
     (one .running c .reset).ready c = true ∧ c.v + 1 < c.kern.ii) ∧
    (let c := slot (.ld false .b64 (eform (.k 1) (.imm6 1) (.imm6 0) .none))
     let s := one .running c .reset
     s.ready c = true ∧ (match fireAll (passFence s c).1 (passFence s c).2 with
        | .ok f => f.faults != [] && (match f.s.copy? c.ref with | some m => m.phase == .running | none => false)
        | _ => false) = true) ∧
    (let c := slot (.stream .pop (eform .result (.ch 0) .none .none))
     (one .running c .reset).ready c = false) := by decide +kernel

/-- Whether a slot's tokens are there and good, whether it has room, its guard's bits, and whether a register of it is leased. -/
def seen (c : Copy) : List Bool := match decodeE (slotWord c 0 0) with
  | none => []
  | some e => [(readChans c 0 e).all (fun ch => (c.head 0 ch).isSome), (readChans c 0 e).all (fun ch => !c.badHead 0 ch), hasRoom c 0 e,
               (slotGuard c 0 e).b, (slotGuard c 0 e).poison, leased c 0 (slotForm e), (badDecider c 0 e).isNone]

/-- A move to channel 1, whose queue is full. -/
def fullCh : Copy :=
  let c := slot (.alu .mov m64 (eform (.ch 1) (.k 1) .none .none))
  { c with ces := Tab.set c.ces 2 { queue := [(0, List.replicate 4 (token {}))] } }

/-- An addition under predicate 1. -/
def pAdd : EInstr := .alu .add m64 { eform (.k 3) (.k 1) (.k 2) .none with guard := ⟨false, 1⟩ }

theorem met_SlotsIssueAndCompute :
    seen (slot (.stream .pop (eform .result (.ch 0) .none .none))) = [false, true, true, true, false, false, true] ∧
    seen (slot (.stream .pop (eform .result (.ch 0) .none .none)) [token { v := 5 }]) = [true, true, true, true, false, false, true] ∧
    seen fullCh = [true, true, false, true, false, false, true] ∧
    seen (slot pAdd [] { p := [(1, { poison := true })] }) = [true, true, true, false, true, false, true] ∧
    seen (slot pAdd) = [true, true, true, false, false, false, true] ∧
    seen (slot kAdd [] { lease := [3] }) = [true, true, true, true, false, true, true] ∧
    seen (slot kAdd [] (ks { v := 3 } { v := 4, void := true })) = [true, true, true, true, false, false, true] ∧
    (computeOf (slot kAdd) 0 kAdd).isSome = true ∧ (srcVal (slot kAdd [] (ks { v := 3 } { v := 4, poison := true })) 0 (.k 2)).poison = true ∧
    (srcVal (slot kAdd [] (ks { v := 3 } { v := 4, void := true })) 0 (.k 2)).void = true ∧
    decodeE (slotWord (slot (.nop on)) 0 0) = some (.nop on) ∧
    (let c := { slot kAdd with table := [(0, [0xFF000000001C])] }
     decodeE (slotWord c 0 0) = none ∧ poisonDstE (slotWord c 0 0) = .result) ∧
    ((one .running (slot kAdd [] { lease := [3, 66] }) .reset).copy? ⟨0, 1, 0⟩ = some (slot kAdd [] { lease := [3, 66] }) ∧ 3 ∈ [3, 66] ∧
      64 + 2 ∈ [3, 66] ∧ 64 + 1 ∉ [3, 66]) := by decide +kernel

/-- A slot with two sources that is fed, free and under a true guard. -/
def both (e : EForm → EInstr) (d : EDst) (x y : Val) : Copy := slot (e (eform d (.k 1) (.k 2) .none)) [] (ks x y)

/-- A copy of a state in which the copy of launch 1 runs. -/
def inState (c : Copy) : State := mapped (one .running c .reset)

theorem met_SlotsMoveTokensAndReachMemory :
    [slot (.stream .pop (eform .result (.ch 0) .none .none)) [token { v := 5 }],
        slot (.stream .drop (eform .result (.ch 0) .none .none)) [token { v := 5 }],
     slot (.stream .peek (eform (.k 1) (.ch 0) .none .none)) [token { v := 5 }], slot (.stream .void (eform (.k 1) .none .none .none)),
     both (.stream .push) (.ch 1) { v := 3 } { v := 0 }, both (.stream .steer) (.ch 1) { v := 3 } { v := 2 },
     slot (.stream .merge (eform (.k 3) (.k 1) (.ch 0) (.k 2))) [token { v := 5 }] (ks { v := 3 } { v := 0 }),
     both (.ld false .b16) (.k 3) { v := 0x100 } { v := 6 }, both (.st .b32) .result { v := 0x100 } { v := 0x123456789 },
     both (.ldg p64) (.k 3) { v := 0x100 } { v := 8 }, both (.stg p64) .result { v := 0x100 } { v := 8 }].all
       (fun c => seen c == [true, true, true, true, false, false, true]) = true ∧
    (match slotCheck (slot kAdd) 0x106 2 2 with | .ok (mt, off) => (mt, off) == (0, 0x106) | _ => false) = true ∧
    (match slotCheck (slot kAdd) 0x107 2 2, slotCheck (slot kAdd) 0x102 4 4, slotCheck (slot kAdd) 0x10000 8 8,
        slotCheck (slot kAdd) 0x100000 8 8 with
      | .error a, .error b, .error c, .error d => (a, b, c, d) == (0x0D, 0x0D, 0x0C, 0x0B) | _, _, _, _ => false) = true ∧
    (State.reset).plinth.unord = false ∧ globalCheck 0x108 8 = none ∧ globalCheck 0x100 8 = none ∧ 2 ^ 56 ≤ (0x100000000000100 : Word).toNat := by
  decide +kernel

/-- R50, R112: the sum of a slot reaches k3 in the next cycle; R70: a poisoned guard faults. -/
theorem test_slot :
    (match runSlot (slot kAdd [] (ks { v := 3 } { v := 4 })) 0 0 .reset with
      | .go t => t.due.map (fun d => (d.at', d.act == .write ⟨0, 1, 0⟩ 0 (.k 3) { v := 7 } false)) == [(1, true)]
      | _ => false) = true ∧
    (match runSlot (slot pAdd [] { p := [(1, { poison := true })] }) 0 0 .reset with | .fault c _ => c == 1 | _ => false) = true := by
  decide +kernel

/-! ### Slots of rows 0x3 to 0x5, poison words, and what rows 0x6 and 0x8 to 0xF do -/

/-- The slot's tokens, guard, destination and channels let it act. -/
def acting (c : Copy) : Bool := match decodeE (slotWord c 0 0) with
  | some e => seen c == [true, true, true, true, false, false, true] && (readChans c 0 e).all fun ch => !c.headWaits 0 ch
  | none => false

/-- The values of its sources. -/
def sourcesOf (c : Copy) : List Val := match decodeE (slotWord c 0 0) with
  | some e => [srcVal c 0 (slotForm e).a, srcVal c 0 (slotForm e).b, srcVal c 0 (slotForm e).c]
  | none => []

/-- It acts, on plain values. -/
def plainly (c : Copy) : Bool := acting c && (sourcesOf c).all fun p => !p.poison && !p.void

/-- A slot of one, two or three sources: k1, k2 and the result of CE 1, which lies to the east. -/
def three (e : EForm → EInstr) (n : Nat) (d : EDst) (x y : Val) (z : Val := {}) : Copy :=
  let c := slot (e (eform d (.k 1) (if n < 2 then .none else .k 2) (if n < 3 then .none else .nb .e))) [] (ks x y)
  { c with ces := Tab.set c.ces 1 { result := z } }

/-- A slot whose channels carry other formats: CE 1 to channel 0, and channel 1 to CE 2. -/
def onEdges (a b : Nat) (c : Copy) : Copy := { c with kern := kernelOf (image 1 0 nops [0x08 + a * 2 ^ 20, 0x01 + 0x10 * 2 ^ 10 + b * 2 ^ 20]) }

/-- Plain values, a void one, a poisoned one. -/
def pl (v : Word) : Val := { v := v }
@[inherit_doc pl] def vd : Val := { v := 1, void := true }
@[inherit_doc pl] def po : Val := { v := 9, poison := true }

/-- A narrow descriptor: the format, a scale and a lane; E2M1 and E4M3. -/
def descr (fmt sc lane : Nat) : Val := pl (BitVec.ofNat 64 (fmt + sc * 2 ^ 16 + lane * 2 ^ 36))
@[inherit_doc descr] def e2m1 : Nat := 0xA206
@[inherit_doc descr] def e4m3 : Nat := 0xC61E

/-- A token of a narrow block. -/
def narrowTok (v : Word) : Token := { val := { v := v }, hdr := mkHeader 0x7F200 e2m1 0 0 0 0 }

/-- A word that stands for no slot and names a destination. -/
def pword (d : EDst) (ce : Ce := {}) : Copy :=
  { slot kAdd [] ce with table := [(0, [BitVec.ofNat 48 (encodeE (.alu .mov m64 (eform d (.k 1) .none .none)) % 2 ^ 40 + 0xFF * 2 ^ 40)])] }

/-- A short block at the head of channel 0, whose end is still to come. -/
def shortBlock : Copy := { slot (.stream .pop (eform .result (.ch 0) .none .none))
    [{ val := { v := 5 }, hdr := mkHeader 0x7F000 e2m1 15 7 0 0 }] with
  kern := kernelOf (image 1 0 nops [0x08 + e2m1 * 2 ^ 20 + 15 * 2 ^ 36, 0x01 + 0x10 * 2 ^ 10 + 0x1C * 2 ^ 20]) }

theorem met_SlotsIssueAndCompute_values :
    (shortBlock.headWaits 0 0 = true ∧ shortBlock.badHead 0 0 = false) ∧
    ([three (.float .fadd .f32 .rz) 2 (.k 3) (pl 0x3F800000) (pl 0x40000000), three (.float .fma .f32 .rne) 3 (.k 3) (pl 1) (pl 2) (pl 3),
      three (.float .fmin .f32 .rne) 2 (.k 3) (pl 0x80000000) (pl 0), three (.float .fmax .f32 .rne) 2 (.k 3) (pl 0x7FC00000) (pl 0),
      three (.float .frint .f32 .ru) 1 (.k 3) (pl 0x3FC00000) {}, three (.float .fclass .f32 .rne) 1 (.k 3) (pl 0x7F800000) {},
      three (.cvt .f16 .rne .f32) 1 (.k 3) (pl 0x3FC00000) {}, three (.cvti .s32 .rz .f32) 1 (.k 3) (pl 0xC0600000) {},
      three (.cvtn .rne .f32) 2 (.k 3) (pl 0x40200000) (descr e2m1 0x7F000 0), three (.cvtn .rne .f32) 2 (.k 3) (pl 0) (descr 3 0 0),
      three (.cvtnf .f32) 2 (.k 3) (pl 0) (descr e2m1 0x7F000 3), onEdges 0x1C e2m1 (three (.cvtnf .f32) 2 (.ch 1) (pl 0x44424000) (descr e2m1 1 3)),
      onEdges e2m1 0x1C (slot (.scext (eform (.k 3) (.ch 0) .none .none)) [narrowTok 5]),
      three .npack 2 (.k 3) (pl 0xFFF5) (descr e2m1 0 15), three .npack 2 (.k 3) (pl 0xFFF5) (descr e4m3 0 8), three .npack 2 (.k 3) (pl 0) (descr 3 0 7),
      three (.nunpk .f32 .rne) 2 (.k 3) (pl 0x123456789ABCDEF0) (descr e2m1 0x7F100 15), three (.nunpk .f16 .ru) 2 (.k 3) (pl 5) (descr e4m3 0x7F100 8),
      onEdges e2m1 0x1C (slot (.nunpk .f32 .rne (eform (.k 3) (.ch 0) (.k 2) .none)) [narrowTok 0x35] (ks {} (descr 7 0 6))),
      three (.fdiv .f32 .rne .f32) 2 (.k 3) (pl 0x41B00000) (pl 0x40E00000), three (.fsqrt .b16 .ru .f32) 1 (.k 3) (pl 0x40000000) {},
      three (.expfn .exp2 .f32 .rne .f32) 1 (.k 3) (pl 0x3FC00000) {}, three (.bits .bext .b64) 2 (.k 3) (pl 0xDEADBEEFCAFE1234) (pl (60 + 9 * 64)),
      three (.bits .bins .b8) 3 (.k 3) (pl 0xDE) (pl (63 + 63 * 64)) (pl 0x55), three (.bits .lut2 .b16) 2 (.k 3) (pl 0xDEAD) (pl 0x1FF)].all plainly = true ∧
    (descFmt (descr e2m1 0 0).v).map lanesOf = some 16 ∧ (descFmt (descr e4m3 0 0).v).map lanesOf = some 8 ∧ descFmt (descr 3 0 0).v = none ∧
    (f32Fmt.decode 0x7FC00000).isNan = true ∧ (f32Fmt.decode 0x80000000).isZero = true) ∧
    ((State.reset.lane 0 0).slots.length < 32 ∧
      ((State.reset.modLane 0 0 fun l => { l with slots := List.replicate 32 default }).lane 0 0).slots.length = 32) ∧
    ([three (.expfn .rcp .f32 .rne .f32) 1 (.k 3) po {}, three (.expfn .rcp .f32 .rne .f32) 1 (.k 3) vd {}].all acting = true) ∧
    ([pword (.k 3), pword (.k 3) { lease := [3] }, pword (.s 2) { lease := [66] }, pword (.p 7), pword (.ch 1), pword (.ch 5)].all fun c =>
      (decodeE (slotWord c 0 0)).isNone) = true ∧
    (((pword (.ch 1)).outEdge 0 1).isSome = true ∧ (pword (.ch 1)).room 0 1 = true ∧ (pword (.ch 5)).outEdge 0 5 = none ∧
      poisonDstE (slotWord (pword (.s 2)) 0 0) = .s 2 ∧ poisonDstE (slotWord (pword (.ch 1)) 0 0) = .ch 1 ∧
      (let c := pword (.ch 1)
       ({ c with ces := Tab.set c.ces 2 { queue := [(0, List.replicate 4 (token {}))] } } : Copy).room 0 1 = false)) := by decide +kernel

/-- The state of the slots' own memory accesses: tile 0's window of group 2 lies at 0x100. -/
def winState (s : State := .reset) : State :=
  mapped ([0, 1, 5].foldl (fun s t => s.modMem t fun m => { m with mwin := [(1, BitVec.ofNat 64 (2 ^ 63 + 2 * 2 ^ 52 + 16 * 2 ^ 32 + 0x100 * 2 ^ 16))] }) s)

/-- What the issue of a global access finds: done, failed with a cause, walking, or no room. -/
def found (s : State) (va : Nat) : Option (Option Nat) := (xlatIssue s 0 va).map fun p => p.2.cause?

theorem met_SlotsMoveTokensAndReachMemory_more :
    ([three (.stream .prime) 2 (.ch 1) (pl 3) (pl 0), { three (.stream .prime) 2 (.ch 1) (pl 3) (pl 127) with j := 63 },
      { three (.stream .prime) 2 (.ch 1) (pl 3) (pl 127) with j := 64 }, three (.stream .prime) 2 (.ch 1) (pl 3) vd,
      three (.stream .prime) 2 (.ch 1) po (pl 2), three (.stream .prime) 2 (.ch 1) vd po,
      slot (.stream .eos (eform (.ch 1) .none .none .none)), slot (.stream .iseos (eform (.k 3) (.ch 0) .none .none)) [token (pl 5)],
      slot (.stream .iseos (eform (.k 3) (.ch 0) .none .none)) [token po],
      slot (.stream .merge (eform (.k 3) (.k 1) (.ch 0) (.k 2))) [token (pl 5)] (ks (pl 3) vd),
      both (.ldg p64) (.k 3) vd (pl 0), both (.ldg p64) (.k 3) vd po, both (.stg p64) .result po vd, both .tset .result (pl 0) po,
      both (.stg p64) .result (pl 0) vd, both (.pf .cb) .result vd (pl 0), both (.pf .xl) .result (pl 0) (pl 9),
      both .tset .result (pl 0xFF) (pl 9), both .tset .result (pl 0x105) (pl 9), slot (.tclr (eform .result (.k 1) .none .none)) [] (ks (pl 7) {}),
      both (.stmw { p64 with scope := .wall }) .result (pl 0x108) (pl 5), both (.stmw { p64 with scope := .wall }) .result (pl 0x200) (pl 5),
      both (.stmw { p64 with scope := .wall }) .result (pl 0x106) (pl 5)].all acting = true) ∧
    (found (mapped .reset) 0x1008 = some none ∧ found .reset 0x1008 = some (some 0x0F) ∧ found (mapped .reset) 0x20008 = some none ∧
      (xlatIssue ((mapped .reset).modWall 0 fun w => { w with walks := List.replicate 512 { page := 9 } }) 0 0x20008).isNone = true) ∧
    ((match slotTagCheck (slot kAdd) 0xFF true, slotTagCheck (slot kAdd) 0x105 true with
      | .ok p, .error c => (p.1, p.2, c) == (0, 255, 0x0B) | _, _ => false) = true ∧
     (windowAt (winState .reset) 0 0 0x108 8).isSome = true ∧ windowAt (winState .reset) 0 0 0x200 8 = none) ∧
    (storesUsed (State.reset.tile 0).mem < 64 ∧ storesUsed ((State.reset.modMem 0 fun m => { m with stores := List.replicate 64 {} }).tile 0).mem = 64) := by
  decide +kernel

/-- The number of a matrix or sort descriptor: its format, K, its panel. -/
def cdesc (fmt k panel : Nat) (sort : Bool := false) : Nat := fmt + (k - 1) * 2 ^ 16 + panel * 2 ^ 24 + (if sort then 2 ^ 44 else 0)

/-- A record of 256 bytes. -/
def record256 (accs blks : List Nat) (desc stat ahdr : Nat) : List Byte :=
  let p (n k : Nat) (l : List Nat) : List Byte := (List.range n).flatMap fun i => leBytes k (l.getD i 0)
  p 16 4 accs ++ p 16 8 blks ++ leBytes 8 desc ++ leBytes 8 stat ++ leBytes 8 ahdr ++ List.replicate 40 0

/-- A sort record with a list. -/
def sort256 (es : List Nat) (desc stat : Nat) : List Byte :=
  (List.range 24).flatMap (fun i => leBytes 8 (es.getD i 0)) ++ leBytes 8 desc ++ leBytes 8 stat ++ List.replicate 48 0

/-- What an act makes of a record: a cause, or none. -/
def causeOf (a : CellAct) (r : List Byte) : Option Nat := match cellRun a r [] with
  | .error c => some c
  | .ok _ => none

/-- A descriptor of sampling: VSM1, DRES, DBASE. -/
def sdesc (vs dres dbase : Nat) : Nat := vs * 2 ^ 384 + 3 * 2 ^ 402 + dres * 2 ^ 410 + dbase * 2 ^ 448

/-- A mode of access: scope, order, four bytes. -/
def mm (sc : Scope) (o : Order) : MemMods := { p64 with scope := sc, size := .b32, order := o }

theorem met_SlotsSynchroniseFeedCellsSampleAndMark :
    ([both (.atomic .aadd (mm .tile .plain)) (.k 3) (pl 0x104) (pl 7), both (.atomic .amin (mm .tile .acquire)) (.k 3) (pl 0xFFFC) (pl 7),
      both (.atomic .axor (mm .tile .release)) (.k 3) (pl 0x105) (pl 7), both (.atomic .aand (mm .tile .plain)) (.k 3) vd (pl 7),
      both (.atomic .acas (mm .wall .acquire)) (.k 3) (pl 0x1004) (pl 7), both (.atomic .aor (mm .wall .plain)) (.k 3) po vd,
      both (.atomic .aor (mm .package .plain)) (.k 3) (pl 0x1004) vd, both (.atomic .aor (mm .arcade .plain)) (.k 3) (pl 0x100000000000000) (pl 1),
      slot (.fence .acqRel .package on), both (.sig false .tile) .result (pl 255) (pl 0x123456789), both (.sig true .wall) .result (pl 9) (pl 1),
      both (.sig true .wall) .result (pl 256) (pl 1), both (.sig false .tile) .result vd po, both (.sig false .tile) .result (pl 3) vd,
      three (.cell (.sdrain true false)) 2 (.k 3) (pl 0x100) (pl 5), three (.cell .skey) 2 (.k 3) (pl 0x104) (pl 5), three (.cell .sidx) 2 (.ch 1) po (pl 3),
      three (.cell .sacc) 1 .result vd {}, three (.cell .scfg) 2 .result (pl 0x100) (pl (BitVec.ofNat 64 (cdesc 7 16 0x400))),
      three (.cell .scfg) 2 .result (pl 0x100) (pl (BitVec.ofNat 64 (cdesc 8 16 0x400))), three (.cell .sload) 2 .result (pl 0x40) (pl 8),
      three (.cell .sload) 2 .result (pl 0x48) (pl 8), three (.cell .sload) 2 .result (pl 0x40) (pl 0x8000),
      slot (.cell .sfeed (eform .result (.k 1) (.ch 0) .none)) [token (pl 5)] (ks (pl 0x100) {}),
      three (.sample .stopk) 2 (.k 3) (pl 0x100) (pl 7), three (.sample .smax) 2 (.k 3) (pl 0x540000000) (pl 0x640000000),
      three (.sample .smax) 2 (.k 3) vd po, three (.sample .smax) 2 (.k 3) vd (pl 1), three (.sample (.slse true)) 2 (.k 3) (pl 1) (pl 2),
      three (.sample .rngu) 2 (.k 3) (pl 0x100) (pl 0xFF), three (.sample .gumb) 2 (.k 3) (pl 0x100) (pl 0x7FF),
      three (.sample .swin) 3 (.k 3) (pl 0x40000000) (pl 0x100) (pl 0x800), slot (.brk on), three .trig 1 .result (pl 0x12345) {}, three .tmark 1 .result vd {}].all acting = true) ∧
    ((match slotCheck (slot kAdd) 0x104 4 4, slotCheck (slot kAdd) 0xFFFC 4 4, slotCheck (slot kAdd) 0x105 4 4, slotCheck (slot kAdd) 0x100 1 256,
        slotCheck (slot kAdd) 0x48 1 64 with
      | .ok a, .ok b, .error c, .ok d, .error e => (a, b, c, d, e) == ((0, 0x104), (0, 0xFFFC), 0x0D, (0, 0x100), 0x0D) | _, _, _, _, _ => false) = true) ∧
    (outstandingStores ((State.reset.modMem 0 fun m => { m with stores := [{ id := 3, who := .region ⟨0, 1, 0⟩, kind := .store [1] }] }).tile 0).mem (.region ⟨0, 1, 0⟩) ≠ [] ∧
      outstandingStores (State.reset.tile 0).mem (.region ⟨0, 1, 0⟩) = []) ∧
    (cellIx (slot kAdd) 0 = 0 ∧ Tab.get ((State.reset.modTile 0 fun y => { y with cellFree := [(0, 1)] }).tile 0).cellFree 0 = 1) ∧
    (configCheck (slot kAdd) (BitVec.ofNat 64 (cdesc 7 16 0x400)) = none ∧ configCheck (slot kAdd) (BitVec.ofNat 64 (cdesc 8 16 0x400)) = some (6, 0) ∧
      configCheck (slot kAdd) (BitVec.ofNat 64 (cdesc 7 16 0x420)) = some (0x0D, 0x420) ∧
      configCheck (slot kAdd) (BitVec.ofNat 64 (cdesc 7 16 0xFFC0)) = some (6, 0)) ∧
    (((decompress (leBytes 8 (e2m1 + 3 * 2 ^ 16 + 104 * 2 ^ 24) ++ List.replicate 96 3)).map fun p => (p.1.length, p.2)) = some (96, 104) ∧
      decompress (leBytes 8 (e2m1 + 3 * 2 ^ 16 + 96 * 2 ^ 24) ++ List.replicate 96 3) = none) ∧
    (sdBad (sdesc 0x7FF 1 100) = false ∧ sdBad (sdesc 5 0 1) = true ∧ sdBad (sdesc 2 1 0) = false ∧ sdDres (sdesc 5 0 0) = false ∧ sdVsm1 (sdesc 0x7FF 1 100) = 0x7FF) ∧
    (let y := ((State.reset.modSys 0 fun x => { x with trigctl := BitVec.ofNat 64 (2 ^ 63 + 0x2345) }).tile 0).sys
     y.trigctl.getLsbD 63 = true ∧ (y.trigctl.extractLsb' 59 2).toNat = 0 ∧ y.trigctl.toNat % 2 ^ 16 = 0x12345 % 2 ^ 16 ∧ y.recording = false ∧
     ({ y with tracectl := -1 } : TileSys).recording = true) ∧
    ((State.reset.modMem 0 fun m => { m with loads := [{ id := 2, who := .region ⟨0, 1, 0⟩ }] }).ready { slot kAdd with fenceLd := true } = false) := by
  decide +kernel

/-- The records and panels that the cell operations work on. -/
theorem met_SlotsSynchroniseFeedCellsSampleAndMark_records :
    (let r := record256 [1, 2] [] (cdesc e2m1 16 0x400) 0 0
     r.length = 256 ∧ recPos r = 0 ∧ recDesc r = cdesc e2m1 16 0x400 ∧ cdOk (recDesc r) = true ∧ (panelFmt (recDesc r % 2 ^ 16)).isSome = true ∧
       descFits .narrow (recDesc r) = true ∧ descFits .sort (recDesc r) = false ∧
       causeOf { op := .sfeed, tok := { narrowTok 5 with pos := 1 } } r = some 7 ∧ causeOf { op := .sfeed, tok := narrowTok 5 } r = none ∧
       causeOf { op := .sfeed, tok := { hdr := mkHeader 0 3 0 0 0 0 } } r = some 5) ∧
    (let r := record256 [] [5] (cdesc e2m1 16 0x400) (7 * 2 ^ 32 + 16) (15 * 2 ^ 36 + e2m1 * 2 ^ 20 + 0x7F123)
     recPos r = recAhdr r / 2 ^ 36 % 2 ^ 6 + 1 ∧ (fmtOfReg (recAhdr r / 2 ^ 20 % 2 ^ 16)).isSome = true ∧ causeOf { op := .scfg } r = some 7) ∧
    (let r := record256 [] [] (cdesc 7 16 0x400) (2 ^ 64 - 2 ^ 32 + 63) 0
     recPos r = 63 ∧ (match panelFmt (recDesc r % 2 ^ 16) with | some (.wide _, _) => true | _ => false) = true ∧
       causeOf { op := .sfeedw .f16, fmt := 7 } r = none) ∧
    (let r := sort256 [3 * 2 ^ 32 + 0x40000000, 9 * 2 ^ 32 + 0x3F800000] (cdesc 3 2 0 true) 2
     r.length = 256 ∧ recPos r = cdList (recDesc r) ∧ cdSort (recDesc r) = true ∧ recDesc r % 2 ^ 16 = 3 ∧ (keyFmt (recDesc r % 2 ^ 16)).isSome = true ∧
       recList r = [3 * 2 ^ 32 + 0x40000000] ++ [9 * 2 ^ 32 + 0x3F800000] ∧ 1 < recCnt r ∧ 2 ≥ recCnt r) ∧
    (slotCheck (slot kAdd) (cdPanel (cdesc 7 16 0x420)) 1 64 |>.isOk) = false ∧
    (let s := (one .running (slot (.brk on)) .reset).modSys 0 fun x => { x with ebrk := true }
     let c := slot (.brk on)
     s.copy? c.ref = some c ∧ (s.ready c && (granted s (contenders s)).any fun x => x.ref == c.ref) = true ∧
       (match fireAll (passFence s c).1 (passFence s c).2 with
        | .ok f => f.faults == [] && f.brk.isSome && (match f.s.copy? c.ref with
          | some m => m.phase == .running && ((f.s.launchOf m).trip == 0 || decide (m.j + 1 < (f.s.launchOf m).trip))
          | none => false)
        | _ => false) = true ∧ (s.tile 0).sys.posted.length < 32) := by decide +kernel

/-! ## Memory -/

/-- Tile 0's path to memory. -/
def path (f : TileMem → TileMem) (s : State) : State := s.modMem 0 f

/-- A global load of `g3` that may be performed. -/
def load3 : LoadEnt := { id := 5, g := 3, va := 0x1008, size := .b16, xlat := .done 0x1008 false true, scope := .package, loc := 0x40, xb := 2 }

/-- A store of three bytes that may be performed. -/
def store3 : StoreEnt := { id := 6, va := 0x1008, xlat := .done 0x1008 false true, kind := .store [1, 2, 3], pend := 3, scope := .package, xb := 2 }

/-- A global atomic that may be performed. -/
def atomic3 : LoadEnt := { load3 with size := .b32, rmw := some { op := .aadd, b := 7 } }

/-- The ten bytes of the local tests, at 0x106 of memory tile 0. -/
def ten (s : State) : State := bytesAt (mtAddr 0 0 0x106) [0x85, 0x96, 3, 4, 5, 6, 7, 8, 9, 0xFA] s

/-- The places of R211 and R214 at their bounds: A + B = 0x108, 0x106, 0xFFF8, then beyond the tile, beyond all tiles, misaligned. -/
theorem met_LocalLoadAndStore :
    PortFree (ten (ab 0x100 8)) 0 0x108 8 true ∧ PortFree (ten (ab 0xFFF8 0)) 0 0xFFF8 8 false ∧
    (let s := { ten (ab 0x100 8) with strike := 2 }
     s.ue = true ∧ PortFree s 0 0x108 8 true ∧ s.mgmt.evq.length < 1024) ∧
    (let s := askPort (ten (ab 0x100 8)) 0 0 1
     localBlocked s 0 0 0x108 8 true = false ∧ localBlocked s 0 0 0x100 8 false = false ∧
       ((askPort (usePort s 0 0 0 1) 0 0 1).port 0 0).serves 0 0 = false) ∧
    (∀ s ∈ [ten (ab 0x100 8), ten (ab 0x106 0), ten (ab 0xFFF8 0), ten (ab 0x10000 0), ten (ab 0x100000 0), ten (ab 0xFFFC 0), ten (ab 0x107 0)],
       IssuesForm s f12) ∧
    (∀ s ∈ [ten (ab 0x100 8), ten (ab 0xFFF8 0), ten (ab 0x10000 0), ten (ab 0x100000 0), ten (ab 0xFFFC 0), ten (ab 0x107 0)],
       bankerHeld s s.actor = false ∧ s.banker.hasPending 0 = false ∧ s.banker.emul = none) ∧
    ((ten (ab 0x100 8)).roleOf 0 0).isBuffer = true ∧ ((ten (ab 0x10000 0)).roleOf 0 1).isBuffer = false := by
  exact ⟨port_of (by decide +kernel), port_of (by decide +kernel), ⟨by decide +kernel, port_of (by decide +kernel), by decide +kernel⟩,
    by decide +kernel, forms_of (by decide +kernel), by decide +kernel⟩

theorem met_GlobalAccessesQueueAndArePerformed :
    HomeServes .reset 0x1008 ∧
    (∀ s ∈ [mapped (ab 0x1000 8), mapped (ab 0x1000 7), mapped (ab 0x100000000000000 8)], IssuesForm s f12) ∧
    (∀ s ∈ [mapped (ab 0x1000 8), mapped (ab 0x1000 7), mapped (ab 0x100000000000000 8)],
       bankerHeld s s.actor = false ∧ s.banker.hasPending 0 = false ∧ s.banker.emul = none ∧
       (match xlatIssue s 0 0x1000 with | some (_, tr) => tr.cause? == none | none => false) = true) ∧
    (match xlatIssue (mapped (ab 0x20000 8)) 0 0x20000 with | some (_, .walking p) => p == 2 | _ => false) = true ∧
    (let s := traps (mapped (path (fun m => { m with loads := [load3] }) { State.reset with cyc := 9 }))
     (s.tile 0).mem.loads.find? (fun x => x.id == load3.id && x.rmw.isNone) = some load3 ∧ loadReady s 0 load3 = some (0x1008, false) ∧
       crossed s 0 5 2 = true ∧ homeFault s 0x1008 = none ∧ load3.g < 32 ∧ (s.tile 0).sys.ten = true ∧ (s.tile 0).sys.posted.length < 32) ∧
    (let s := mapped (path (fun m => { m with stores := [store3], sbpend := 3 }) { State.reset with cyc := 9 })
     (s.tile 0).mem.stores.find? (·.id == store3.id) = some store3 ∧ storeReady s 0 store3 = true ∧
       crossed s 0 6 2 = true) ∧
    (let s := mapped (path (fun m => { m with loads := [atomic3] }) { State.reset with cyc := 9 })
     (s.tile 0).mem.loads.find? (fun x => x.id == atomic3.id && x.rmw.isSome) = some atomic3 ∧ loadReady s 0 atomic3 = some (0x1008, false)) := by
  exact ⟨home_of (by decide +kernel), forms_of (by decide +kernel), by decide +kernel⟩

/-- Entries of tile 0's tag table of memory tile 0. -/
def tagged (l : List (Nat × TagEnt)) (s : State) : State := l.foldl (fun s p => s.modMem 0 fun m => { m with tags := Tab.set m.tags p.1 p.2 }) s

/-- A walk is under way on wall 0. -/
def walking5 (s : State) : State := s.modWall 0 fun w => { w with walks := [{ page := 5 }], tlb := [{}] }

/-- `tlook` meets entry 3 twice held, an invalid entry 0, and a full table. -/
theorem met_TagTablesPrefetchAndCacheMaintenance :
    PortFree (ab 0xFF 5) 0 0 0 false ∧ PortFree (ab 0xFF 5) 0 0 0 true ∧
    (∀ s ∈ [ab 0xFF 5, tagged [(3, { valid := true, tag := 5 }), (7, { valid := true, tag := 5 })] (ab 3 5)], IssuesForm s f12) ∧
    (let s := tagged [(3, { valid := true, tag := 5 }), (7, { valid := true, tag := 5 })] (ab 3 5)
     (s.tag 0 0 3).valid = true ∧ (s.tag 0 0 3).tag = 5 ∧ ∀ k < 3, (s.tag 0 0 k).valid = false) ∧
    ((ab 0xFF 5).tag 0 0 0).valid = false ∧
    (let s := tagged ((List.range 256).map fun i => (i, { valid := true, tag := i + 9, use := (i + 50) % 256 })) (ab 0 1)
     ∀ k < 256, (s.tag 0 0 k).tag ≠ 1 ∧ (s.tag 0 0 k).valid = true ∧ (s.tag 0 0 206).use ≤ (s.tag 0 0 k).use) ∧
    (Issues (bad 1 (ab 0 0)) on .none (formRegs n12) [] ∧ (readB (bad 1 (ab 0 0)) 0 n12.a).poison = true) ∧
    walking (walking5 (ab 0 0)) 0 .wall = true ∧ walking (ab 0 0) 0 .wall = false ∧ srcB (ab 0 0) f12 = 0 := by
  exact ⟨port_of (by decide +kernel), port_of (by decide +kernel), forms_of (by decide +kernel), by decide +kernel, by decide +kernel,
      by decide +kernel, ⟨issues_of (by decide +kernel), by decide +kernel⟩,
    by decide +kernel⟩

/-- An enabled window of group 2 on memory tile 0, with its length and base (spec/09_memory.md R222). -/
def win (len base : Nat) : Word := BitVec.ofNat 64 (2 ^ 63 + 2 * 2 ^ 52 + len * 2 ^ 32 + base * 2 ^ 16)

/-- Windows of tiles, at base 0x100. -/
def windowed (l : List (Nat × Nat)) (s : State) : State := l.foldl (fun s p => s.modMem p.1 fun m => { m with mwin := [(1, win p.2 0x100)] }) s

/-- A mirrored copy of four bytes on its way to a member. -/
def mir (k off : Nat) : StoreEnt := { id := 6, kind := .mirror k 2 off [1, 2, 3, 4], scope := .wall, pend := 4, xb := 2 }

/-- An `stmw` for one other member that has not left the ring stop. -/
def fan : StoreEnt := { mir 0 4 with kind := .fan 2 4 [1, 2, 3, 4] 1 }

/-- A store-queue entry of the banker that may be performed. -/
def queued (e : StoreEnt) (s : State) : State := path (fun m => { m with stores := [e], sbpend := 4 }) { s with cyc := 9 }

/-- Tile 1's window lies on its memory tile 1, an addressed buffer of a copy there. -/
def owning : State :=
  queued (mir 1 4) ((resident { copy 1 .running with tile := 1, kern := kernelOf (image 2 0 nops []) } .reset).modMem 1 fun m =>
    { m with mwin := [(1, win 8 (2 ^ 32 + 0x100))] })

theorem met_MirroredWindows :
    ((owning.tile 0).mem.stores.find? (·.isFor 1) = some (mir 1 4) ∧ oldestFan owning 0 = none ∧ storeReady owning 0 (mir 1 4) = true ∧
      crossed owning 0 6 2 = true ∧ windowOf owning 1 2 = some (win 8 (2 ^ 32 + 0x100)) ∧ mwMt (win 8 (2 ^ 32 + 0x100)) = 1 ∧
      owning.isOwned 1 1 = true ∧ (owning.port 1 1).serves owning.cyc 4 = true) ∧
    (∀ s ∈ [windowed [(0, 0x10), (1, 0x10), (5, 8)] (ab 0x108 5), ab 0x100 3], IssuesForm s f12) ∧
    (let s := windowed [(0, 0x10), (1, 0x10), (5, 8)] (ab 0x108 5)
     windowAt s 0 0 0x108 8 = some (win 0x10 0x100) ∧ groupMembers s 2 = [0, 1, 5] ∧ PortFree s 0 0x108 8 false) ∧
    (let s := queued fan (windowed [(0, 0x10), (1, 8)] .reset)
     oldestFan s 0 = some fan ∧ released s 0 0 [] = true ∧ (s.tile 0).mem.stores.find? (·.isFor 0) = none) ∧
    windowAt (ab 0x100 3) 0 0 0x100 8 = none ∧
    (let s := queued (mir 1 4) (windowed [(0, 0x10), (1, 8)] .reset)
     (s.tile 0).mem.stores.find? (·.isFor 1) = some (mir 1 4) ∧ oldestFan s 0 = none ∧ storeReady s 0 (mir 1 4) = true ∧
       crossed s 0 6 2 = true ∧ windowOf s 1 2 = some (win 8 0x100) ∧ mwLen (win 8 0x100) = 8 ∧ (s.port 1 0).serves s.cyc 4 = true ∧
       (s.isOwned 1 (mwMt (win 8 0x100)) = false)) ∧
    (let s := queued (mir 5 4) (windowed [(0, 0x10), (5, 7)] .reset)
     (s.tile 0).mem.stores.find? (·.isFor 5) = some (mir 5 4) ∧ windowOf s 5 2 = some (win 7 0x100) ∧ mwLen (win 7 0x100) < 4 + 4) ∧
    windowOf (queued (mir 5 4) .reset) 5 2 = none := by
  exact ⟨by decide +kernel, forms_of (by decide +kernel), ⟨by decide +kernel, by decide +kernel, port_of (by decide +kernel)⟩, by decide +kernel⟩

/-- Signs and comparisons of the local atomics: the old value 0x84039685 and -2^31 + 1. -/
theorem met_AtomicsReadModifyWrite :
    PortFree (ten (regs [(1, 0x106), (2, 0x80000001), (5, 0x9685)])) 0 0x106 2 false ∧
    (∀ s ∈ [ten (regs [(1, 0x106), (2, 0x80000001), (5, 0x9685)]), mapped (regs [(1, 0x1000), (2, 4), (5, 9)])], IssuesForm s f12) ∧
    (let s := ten (regs [(1, 0x106), (2, 0x80000001), (5, 0x9685)])
     bankerHeld s 0 = false ∧ (s.roleOf 0 0).isBuffer = true ∧ readNat s.mem (mtAddr 0 0 0x106) 2 = 0x9685 ∧ wideScope Scope.tile = false ∧
       outstandingStores (s.tile 0).mem .banker = [] ∧ (Tab.get s.banker.r.g 5).poison = false ∧ s.banker.readyAt 5 ≤ s.cyc) ∧
    (let s := mapped (regs [(1, 0x1000), (2, 4), (5, 9)])
     wideScope Scope.wall = true ∧ bankerHeld s 0 = false ∧ (match xlatIssue s 0 0x1000 with | some (_, .done _ _ w) => w | _ => false) = true) := by
  exact ⟨port_of (by decide +kernel), forms_of (by decide +kernel), by decide +kernel⟩

/-- R214: the sign of a local 16-bit load, and the bytes of a local 32-bit store. -/
theorem test_local :
    gAfter (.bLd false .b16 f12) (ten (ab 0x100 6)) 5 = some 0xFFFFFFFFFFFF9685 ∧ gAfter (.bLd true .b16 f12) (ten (ab 0x100 6)) 5 = some 0x9685 ∧
    left (.bSt .b32 n12) (ten (ab 0x108 0xA1B2C3D4E5F60718)) (fun t => readNat t.mem (mtAddr 0 0 0x106) 8 == 0x0807E5F607189685) = true := by
  decide +kernel

/-- R238: the old value, sign-extended, and the sum modulo 2^16. -/
theorem test_atomic :
    gAfter (.bAadd { p64 with size := .b16 } f12) (ten (ab 0x106 0xFFFF)) 5 = some 0xFFFFFFFFFFFF9685 ∧
    left (.bAadd { p64 with size := .b16 } f12) (ten (ab 0x106 0xFFFF)) (fun t => readNat t.mem (mtAddr 0 0 0x106) 4 == 0x04039684) = true ∧
    left (.bAmin { p64 with size := .b16 } f12) (ten (ab 0x106 1)) (fun t => readNat t.mem (mtAddr 0 0 0x106) 2 == 0x9685) = true := by decide +kernel

/-- R220: a hit answers 256 plus its slot. -/
theorem test_tlook : gAfter (.bTlook f12) (tagged [(3, { valid := true, tag := 5 })] (ab 0 5)) 5 = some 259 ∧
    gAfter (.bTlook f12) (tagged [(0, { valid := true, tag := 5 })] (ab 0 6)) 5 = some 1 := by decide +kernel

/-! ## Synchronisation -/

/-- A semaphore of tile 0. -/
def sem (i n : Nat) (s : State) : State := s.modTile 0 fun x => { x with sem := Tab.set x.sem i n }

/-- Thresholds at the value and one above it, indexes at the end of their range, accesses outstanding and over. -/
theorem met_FencesSignalsAndWaits :
    Issues (ab 0 0) on .none [] [] ∧
    (∀ s ∈ [sem 255 8 (ab 255 7), sem 255 7 (ab 255 7), sem 255 6 (ab 255 7), ab 256 1], IssuesForm s f12) ∧
    (∀ s ∈ [sem 255 7 (ab 255 7), ab 256 1], bankerHeld s 0 = false ∧ s.banker.hasPending 0 = false ∧ s.banker.emul = none) ∧
    bankerBusy (ab 0 0) 0 = false ∧ bankerBusy (path (fun m => { m with stores := [store3] }) (ab 0 0)) 0 = true ∧
    bankerLoadsDone (path (fun m => { m with loads := [load3] }) (ab 0 0)) 0 = false ∧
    (sem 255 7 (stalled (.wait 255 7 true false (.g 5)) .reset)).semOf 0 255 = 7 ∧
    (sem 255 6 (stalled (.wait 255 7 true false (.g 5)) .reset)).semOf 0 255 = 6 := by
  exact ⟨issues_of (by decide +kernel), forms_of (by decide +kernel), by decide +kernel⟩

/-- A barrier, tile 0's arrival at it, its release, and a remote increment. -/
def bar (i : Nat) (b : Sbar) (s : State) : State := s.modPlinth fun p => { p with sbar := Tab.set p.sbar i b }
@[inherit_doc bar] def arrived (i : Nat) (x : Nat × Bool) (s : State) : State := s.modBk 0 fun b => { b with arrived := Tab.set b.arrived i x }
@[inherit_doc bar] def freed (i n : Nat) (s : State) : State := s.modBk 0 fun b => { b with released := Tab.set b.released i n }
@[inherit_doc bar] def remote (tile i n : Nat) : StoreEnt := { id := 6, kind := .remote false 0 tile i n, scope := .wall, pend := 4 }

/-- An enabled barrier of two tiles in epoch 3. -/
def b3 : Sbar := { en := true, epoch := 3, count := 2 }

theorem met_RemoteIncrementsAndBarriers :
    (∀ s ∈ [ab 0x1FF 5, ab 0x3FFFF 5, ab 0x8000000 1, bar 15 b3 (ab 15 0), freed 15 4 (bar 15 b3 (ab 15 0)), ab 15 0, ab 16 0], IssuesForm s f12) ∧
    ((ab 0x1FF 5).tileOk 1 = true ∧ (ab 0x1FF 5).wallOf 1 = (ab 0x1FF 5).wallOf 0 ∧ (ab 0x3FFFF 5).tileOk 1023 = true ∧
      (ab 0x3FFFF 5).wallOf 1023 ≠ (ab 0x3FFFF 5).wallOf 0 ∧ Scope.wall.code < 3) ∧
    (let s := queued (remote 1 255 7) .reset
     (s.tile 0).mem.stores.find? (·.id == 6) = some (remote 1 255 7) ∧ released s 0 0 [] = true ∧
       ((s.tile 0).mem.stores.any fun x => x.who == .banker && decide (x.id < 6) && sameSem x.kind (remote 1 255 7).kind) = false) ∧
    (State.reset).tileOk 1 = true ∧ (noTiles .reset).tileOk 1 = false ∧
    (sbarReleased (bar 15 b3 (ab 15 0)) 0 15 = none ∧ sbarReleased (freed 15 4 (bar 15 b3 (ab 15 0))) 0 15 = some 3 ∧
        ((ab 15 0).sbarOf 15).en = false) ∧
    (unsentBar (arrived 15 (4, false) .reset) 0 = some 15 ∧ ((arrived 15 (4, false) .reset).tile 0).mem.sbpend = 0 ∧
      unsentBar (path (fun m => { m with sbpend := 4 }) (arrived 15 (4, false) .reset)) 0 = some 15) ∧
    (let s := bar 15 { b3 with queue := [2, 3] } .reset
     (s.sbarOf 15).queue = [2, 3] ∧ (s.sbarOf 15).arr + 1 < (s.sbarOf 15).count) ∧
    (let s := bar 15 { b3 with queue := [2], arr := 1, tiles := [0], epoch := 0xFFFFFFFF } .reset
     (s.sbarOf 15).queue = [2] ∧ (s.sbarOf 15).count ≤ (s.sbarOf 15).arr + 1) ∧
    (let s := freed 0 1 (stalled (.sbar 0 .none) .reset)
     (s.tile 0).bk.stall = .sbar 0 .none ∧ Tab.get (s.tile 0).bk.released 0 ≠ 0) := by
  exact ⟨forms_of (by decide +kernel), by decide +kernel⟩

/-- Five levels of tables that map the 64 KiB page 5 to itself (spec/09_memory.md R232). -/
def tables : State :=
  { bytesAt 0x14028 (leBytes 8 0x5000F) (bytesAt 0x13000 (leBytes 8 0x14001) (bytesAt 0x12000 (leBytes 8 0x13001)
      (bytesAt 0x11000 (leBytes 8 0x12001) (bytesAt 0x10000 (leBytes 8 0x11001) .reset)))) with plinth := { ptroot := 0x10001 } }

/-- A load that waits on the walk of page 5. -/
def wload : LoadEnt := { load3 with xlat := .walking 5, va := 0x50008, loc := 0x77 }

/-- R232, R233: the walk of those tables, and of a root that is off. -/
theorem met_WalksAndPrefetchesEnd :
    (((walking5 tables).wall 0).walks.any (·.page == 5) = true ∧ ((walking5 tables).wall 0).walks.any (·.page == 6) = false) ∧
    (match (walk (walking5 tables) 0 0x50000).2 with
      | .ok e => e == { vpn := 5, pa := 0x50000, w := true, x := true }
      | .error _ => false) = true ∧
    (let s := traps (path (fun m => { m with loads := [wload] }) (walking5 .reset))
     s.tiles.map (·.1) = [0] ∧ s.wallOf 0 = 0 ∧ (s.tile 0).mem.loads = [wload] ∧ (s.tile 0).mem.stores = [] ∧ (s.tile 0).sys.ten = true ∧
       (s.tile 0).sys.posted.length < 32 ∧ (match (walk s 0 0x50000).2 with | .error c => c == 0x0F | .ok _ => false) = true) := by
  decide +kernel

/-- R244, R243: `wait` with its threshold met takes and delivers; `sig` adds in the next cycle. -/
theorem test_wait :
    gAfter (.wait true false .tile f12) (sem 9 7 (ab 9 7)) 5 = some 7 ∧
    left (.bSig false .tile n12) (sem 9 7 (ab 9 0x100000002)) (fun t => t.due == [{ at' := 1, phase := 1, act := .semAdd 0 9 2 }]) = true ∧
    left (.wait true false .tile f12) (sem 9 6 (ab 9 7)) (fun t => (t.tile 0).bk.stall == .wait 9 7 true false (.g 5)) = true := by decide +kernel

/-! ## Engines -/

/-- A chain of tile 0. -/
def chain (c : Nat) (x : Chain) (s : State := .reset) : State := s.modTile 0 fun t => { t with chains := Tab.set t.chains c x }

/-- A chain of two records whose sequence numbers wrap next. -/
def c0 : Chain := { en := true, base := 0x200, sz := 1, issued := 0xFFFFFFFF, done := 0xFFFFFFFF }

/-- A chain with two records to do. -/
def c1 : Chain := { c0 with issued := 7, done := 5 }

/-- A record of a type in `g8` to `g11`, and the chain's number in `g2`. -/
def rec8 (type c : Nat) (s : State) : State := regs [(2, BitVec.ofNat 64 c), (8, BitVec.ofNat 64 type), (11, 7)] s

/-- The form `g5, g8, g2`. -/
def f82 : BForm := form (.g 5) (.g 8) (.g 2) .none

/-- The banker's port of memory tile 0 serves another requester in this cycle. -/
def busy (s : State) : State := usePort s 0 0 1 1

theorem met_RecordsAreAppendedInOneCycle :
    (let s := chain 3 c0 (rec8 0x05 3 .reset)
     Issues s f82.guard f82.dst (recordRegs f82.a ++ srcRegs f82.b) (recordVals s 0 f82.a ++ [readB s 0 f82.b]) ∧ (srcB s f82).toNat = 3 ∧
       (s.chain 0 3).en = true ∧ (s.chain 0 3).occupancy < 2 ^ 1 ∧ (s.port 0 0).serves s.cyc 0 = true) ∧
    (let s := chain 0 { c1 with issued := 7 } (rec8 0x04 4 .reset)
     Issues s f82.guard f82.dst (recordRegs f82.a ++ srcRegs f82.b) (recordVals s 0 f82.a ++ [readB s 0 f82.b]) ∧ 4 ≤ (srcB s f82).toNat ∧
       2 ^ 1 ≤ (s.chain 0 0).occupancy ∧ (s.chain 0 1).en = false) ∧
    ((busy (chain 0 c0 (rec8 0 0 .reset))).port 0 0).serves 0 0 = false ∧
    (IssuesForm (ab 0x3FFFF 7) f12 ∧ semAddrFault (ab 0x3FFFF 7) 0 (srcA (ab 0x3FFFF 7) f12).toNat = none) :=
  ⟨⟨issues_of (by decide +kernel), by decide +kernel⟩, ⟨issues_of (by decide +kernel), by decide +kernel⟩, by decide +kernel,
    form_of (by decide +kernel), by decide +kernel⟩

/-- A wait for semaphore 9 to reach 4. -/
def waits9 : CHead := { head0 with waitEn := true, wsem := 9, wthr := 4 }

/-- A command that has issued all its accesses, and gives a signal. -/
def overs : Chain := { c1 with run := .started, fin := true, record := 0x200 + 255 * 2 ^ 40 + 4 * 2 ^ 48, pend := 3 }

theorem met_ChainsRunTheirCommands :
    (∀ s ∈ [ab 4 3, chain 3 c0 (ab 3 3), chain 3 { c1 with flt := true } (ab 3 3), chain 3 { c1 with hold := true } (ab 3 0), chain 3 c1 (ab 3 1)],
       IssuesForm s f12) ∧
    ((chain 3 c1 (ab 3 1)).chain 0 3).issued ≠ ((chain 3 c1 (ab 3 1)).chain 0 3).done ∧
    (drained ((chain 3 c0 (stalled (.edrain 3 (.g 5)) .reset)).chain 0 3) = some 0xFFFFFFFF00 ∧
      drained ((chain 3 c1 (stalled (.edrain 3 (.g 5)) .reset)).chain 0 3) = none) ∧
    CmdRuns (chain 0 c1) head0 ∧ CmdRuns (sem 9 4 (chain 0 c1)) waits9 ∧
    (let s := sem 9 3 (chain 0 c1)
     s.engine.next ≤ s.cyc ∧ s.engine.run ≠ .started ∧ s.semOf 0 9 < waits9.wthr.toNat) ∧
    ((0x3FFFF : BitVec 27).toNat < 2 ^ 18 ∧ (chain 0 c1).tileOk (0x3FFFF / 256) = true) ∧
    cmdOver (chain 0 overs) 0 0 = true ∧ overs.record.testBit 9 = true ∧ cmdOver (chain 0 { overs with record := 0 }) 0 0 = true ∧
    cmdOver (chain 0 c1) 0 0 = false := by
  refine ⟨forms_of (by decide +kernel), by decide +kernel, by decide +kernel, ?_, ?_, by decide +kernel⟩ <;> unfold CmdRuns <;> decide +kernel

/-- A shape of two dimensions, of 2 and 3 elements of 4 bytes. -/
def shape2 : List Nat := [0x22, 2, 0x4 * 2 ^ 32 + 8, 3, 0x10 * 2 ^ 32 + 0xFFFFFFFC]

/-- Chain 0 of tile 0 has a command under way; memory holds a shape and indexes. -/
def go (x : Chain) : State :=
  chain 0 { x with en := true, issued := 1, run := .started } (bytesAt 0x1000 ((List.range 64).map fun i => BitVec.ofNat 8 (i * 37 + 1))
    (bytesAt (mtAddr 0 0 0x400) (shape2.flatMap (leBytes 8)) (bytesAt (mtAddr 0 0 0x500) (leBytes 4 3 ++ leBytes 4 0xFF) (mapped .reset))))

/-- The arcade is up, with this package as number 0 and another as number 7. -/
def arcade (s : State) : State := s.modMgmt fun m => { m with arcEn := true, arcUp := true, arcSize := 2, arcList := [0, 7] }

/-- One element can be read, and written, by the copy engine of tile 0. -/
def moves (s : State) (src dst n : Nat) : Bool :=
  areaFree s 0 1 src n && match vRead s 0 src n with
    | .error _ => false
    | .ok (v, b) =>
      let u := ackPend v 0 0
      areaFree u 0 1 dst n && b.length == n && match addPend u 0 0 n with
        | some w => (vWrite w 0 dst b).2 == none
        | none => false

theorem met_CopyCommandsMoveElements :
    CmdRuns (go {}) head0 ∧ (go {}).actorChain = 0 ∧ (go {}).strike = 0 ∧
    (match readShape (go {}) 0 0 0x400 with
      | .ok (_, l) => l == shape2
      | .error _ => false) = true ∧
    (let s := go { shape := shape2, pos := 5 }
     s.engine.shape = shape2 ∧ (5 < shapeTotal (shapeDimsOf shape2.tail)) ∧ moves s 0x1000 0x1004 4 = true) ∧
    shapeTotal (shapeDimsOf shape2.tail) ≤ (go { shape := shape2, pos := 6 }).engine.pos ∧
    (let s := go { pos := 1 }
     (match localCheck s 0 0x500 8 4 with
      | .ok (mt, off) => mt == 0 && off == 0x500 && (s.port 0 mt).serves s.cyc 1
      | .error _ => false) = true ∧ moves (usePort s 0 0 1 1) (0x1000 + 0xFF * 4) 0x2004 4 = true ∧
       ((usePort s 0 0 3 1).port 0 0).serves s.cyc 1 = false) ∧
    (let s := go { pos := 128 }
     areaFree (ackPend s 0 0) 0 1 0x1080 128 = true ∧ (addPend (ackPend s 0 0) 0 0 128).isSome = true) ∧
    (let s := arcade (go {})
     (7 : Nat) ≠ s.mgmt.arcNum ∧ s.refusesPackage 7 = false ∧ s.mgmt.arcUp = true ∧ pendRoom ((ackPend s 0 0).tile 0).mem 128 = true ∧
       s.refusesPackage 8 = true) ∧
    (go {}).refusesPackage 8 = false ∧ (go {}).mgmt.arcUp = false := by
  refine ⟨?_, by decide +kernel⟩
  unfold CmdRuns
  decide +kernel
/-- Bytes of a virtual area can be read by tile 0, and the rest of memory's answer is `b`. -/
def reads (s : State) (va n : Nat) (b : List Byte) : Bool := areaFree s 0 1 va n && match vRead s 0 va n with
  | .ok (_, x) => x == b
  | .error _ => false

/-- A manifest entry: object, offset, length, SLOG, endpoint and offset of the destination (spec/12_engines.md R290). -/
def entry (obj off len slog srv doff : Nat) : List Byte := [obj, off, len + slog * 2 ^ 40 + srv * 2 ^ 48, doff].flatMap (leBytes 8)

/-- A fetch of tile 0 is under way: its manifest of one entry stands at 0x2000. -/
def fetching (e : List Byte) (x : Chain := {}) : State := { bytesAt 0x2000 e (go x) with mgmt := { srv := [(3, 0x8000000000000000)] } }

/-- A stripe of four bytes that tile 0's fetch awaits. -/
def awaiting : State := (go { stripes := [5] }).modPlinth fun p => { p with stripes := [{ tag := 5, tile := 0, va := 0x1000, len := 4 }] }

/-- A port token of chain 0 for memory tile 2 of a launch. -/
def pushing (lid : Nat) (s : State) : State :=
  chain 0 { c1 with port := [(BitVec.ofNat 64 (lid * 2 ^ 32 + 2 * 2 ^ 13), { val := { v := 9 }, src := 1 })] } s

theorem met_FetchesAndPortTokens :
    CmdRuns (fetching (entry 0x77 0x100 0x1000 12 3 0)) head0 ∧
    (let s := fetching (entry 0x77 0xFFFFFFFFFFFFFFFF 0x1000 12 3 0)
     reads s 0x2000 32 (entry 0x77 0xFFFFFFFFFFFFFFFF 0x1000 12 3 0) = true ∧ srvOn s 3 = true ∧
       manifestEntry (wordsOf 4 (entry 0x77 0xFFFFFFFFFFFFFFFF 0x1000 12 3 0)) = some (0x77, 0xFFFFFFFFFFFFFFFF, 0x1000, 12, 3, 0) ∧
       (s.mgmt.arcNum + 256 - 0) % 256 = 0) ∧
    manifestEntry (wordsOf 4 (entry 1 0 0 30 63 8)) = some (1, 0, 0, 30, 63, 8) ∧
    (let x : Stripe := { tag := 5, tile := 0, va := 0x1000, len := 4 }
     awaiting.plinth.stripes.find? (fun y => y.tag % 2 ^ 64 == (5 : Word).toNat) = some x ∧ awaits awaiting 0 5 = true ∧
       objReply (leBytes 24 (0x0B1EC7D5 + 0x91 * 2 ^ 32 + 1 * 2 ^ 40 + 5 * 2 ^ 64)) = some (1, 5, 0, []) ∧
       objReply (leBytes 24 (0x0B1EC7D5 + 0x91 * 2 ^ 32 + 5 * 2 ^ 64) ++ [1, 2, 3, 4]) = some (0, 5, 0, [1, 2, 3, 4]) ∧
       areaFree awaiting 0 7 0x1000 4 = true ∧ (match addPend awaiting 0 0 4 with
         | some u => (vWrite (forgetAsked (dropStripe u 0 5) 0 fun k => k % 8 == 7) 0 0x1000 [1, 2, 3, 4]).2 == none
         | none => false) = true) ∧
    (let s := pushing 1 (one .running (sinkCopy 1 .running) .reset)
     (s.chain 0 0).port.map (fun p => (portOf p.1.toNat).1.lid) = [1] ∧ s.copy? ⟨0, 1, 0⟩ = some (sinkCopy 1 .running) ∧
       (s.launch 0 1).used = true ∧ (s.launch 0 1).state = .running ∧ portRoom (sinkCopy 1 .running) 2 = true ∧ s.plinth.parked = []) ∧
    ((pushing 1 (launched 1 (job .queued) .reset)).launch 0 1).state = .queued ∧
    ((pushing 1 (launched 1 (job .ended) .reset)).launch 0 1).state = .ended := by
  refine ⟨?_, by decide +kernel, by decide +kernel, by decide +kernel, by decide +kernel, by decide +kernel, by decide +kernel⟩
  unfold CmdRuns
  decide +kernel

/-- An array command of two f32 elements into f16. -/
def exps : CExp := ⟨0x500, .f32, .f16, .rne, 0xFFFC, 2⟩

/-- A request of a lane that comes back now. -/
def flying (r : ExpReq) (s : State) : State := s.modLane 0 0 fun l => { l with flight := [(0, r)] }

theorem met_ExponentCommandsAndResults :
    (let s := { chain 1 { c1 with run := .started } .reset with actorChain := 1 }
     CmdRuns s head0 ∧ s.strike = 0 ∧ s.engine.pos < exps.count.toNat ∧ (s.port 0 0).serves s.cyc (chainPort 1) = true ∧
       (match localCheck s 0 exps.src.toNat 8 4, localCheck s 0 exps.dst.toNat 4 2 with
        | .ok a, .ok b => a == (0, 0x500) && b == (0, 0xFFFC)
        | _, _ => false) = true) ∧
    exps.count.toNat ≤ (chain 1 { c1 with pos := 2 } .reset |>.chain 0 1).pos ∧
    ((usePort .reset 0 0 3 1).port 0 0).serves 0 (chainPort 1) = false ∧
    ((flying (.chain 0 0xFFFC [1, 2]) .reset).lane 0 0).flight = [(0, .chain 0 0xFFFC [1, 2])] ∧
    ((flying .seq .reset).lane 0 0).flight = [(0, .seq)] ∧
    (let s := flying (.slot ⟨0, 1, 0⟩ 0 (.k 3) 7 0) (one .running (slot kAdd [] { lease := [3] }) .reset)
     (s.lane 0 0).flight = [(0, .slot ⟨0, 1, 0⟩ 0 (.k 3) 7 0)] ∧ (s.copy? ⟨0, 1, 0⟩).isSome = true) := by
  refine ⟨⟨?_, by decide +kernel⟩, by decide +kernel⟩
  unfold CmdRuns
  decide +kernel

/-- A collective command of one element in group 2. -/
def coll (dst : BitVec 56) : CColl := ⟨0x1000, dst, 1, 2, 0, .s32add⟩

/-- Group 2 is enabled with `n` participants. -/
def grouped (n : Nat) (ms : List CollMember) (s : State) : State := s.modPlinth fun p =>
  { p with cgrp := [(2, { cgrp := BitVec.ofNat 64 (2 ^ 63 + n * 2 ^ 32), insts := if ms = [] then [] else [(4, ms)] })] }

/-- Tile 0's member of an instance of group 2. -/
def member (dst : BitVec 56) : CollMember := { tile := 0, type := 0x20, body := coll dst }

theorem met_CollectivesJoinAndProceed :
    CmdRuns (grouped 1 [] (go {})) head0 ∧
    ((grouped 1 [] (go {})).group 2).en = true ∧ ((grouped 1 [] (go {})).group 2).pspan = 0 ∧ ((go {}).group 2).en = false ∧
    (let s := grouped 1 [member 0x2000] (go {})
     (s.group 2).insts.find? (fun p => p.2.length + 0 == (s.group 2).npart) = some (4, [member 0x2000]) ∧
       membersFree s 1 [member 0x2000] = true ∧ partsAgree 1 [(0x20, 1, .s32add, 0)] = true ∧
       (match localParts 1 s [member 0x2000] with
        | .ok (v, ps) => (vWrite v 0 0x2000 (collResult ps 0x20 .s32add 1 1 0)).2 == none
        | .error _ => false) = true) ∧
    partsAgree 2 [(0x20, 1, .s32add, 0), (0x20, 1, .s32add, 0)] = false ∧
    (let m := { member 0x2000 with body := { coll 0x2000 with src := 0x1002 } }
     (match localParts 1 (grouped 1 [m] (go {})) [m] with
      | .error (_, e) => e != 0
      | .ok _ => false) = true) := by
  refine ⟨?_, by decide +kernel⟩
  unfold CmdRuns
  decide +kernel

/-! ## Rings and pools -/

/-- A pool of 16 sets of 2^17 bytes with rows of 32 bytes, in tile 0, at address 2^21, its entries at 2^16 (spec/13_rings.md R305). -/
def pool (head : Nat) (ents : List (Nat × Nat)) (s : State) : State :=
  ents.foldl (fun s p => bytesAt (0x10000 + 32 * p.1) (leBytes 32 p.2) s) (s.modRing 0 fun x =>
    { x with kvpool := BitVec.ofNat 64 (2 ^ 63 + 0x20 * 2 ^ 16 + 17 * 2 ^ 8 + 3), kvstat := 0x10000, nset := 16, head := head })

/-- A status entry of record 5, INC 9 (R306). -/
def ent (ref' pin state next : Nat) (vm tm : Nat := 0) : Nat :=
  ref' + pin * 2 ^ 16 + state * 2 ^ 32 + next * 2 ^ 34 + 5 * 2 ^ 64 + 9 * 2 ^ 76 + vm * 2 ^ 128 + tm * 2 ^ 192

/-- A reference of record 5, INC 9, to a set of a tile (R307). -/
def setRef (tile set : Nat) : Word := BitVec.ofNat 64 (9 * 2 ^ 51 + 5 * 2 ^ 39 + tile * 2 ^ 20 + set)

/-- A request of `kvwr` at 0x100 of memory tile 0: its words, and the rows at 0x200. -/
def rowAt (r : Word) (w1 : Nat) (s : State) : State :=
  bytesAt (mtAddr 0 0 0x100) (leBytes 8 r.toNat ++ leBytes 8 w1 ++ leBytes 8 0x200 ++ leBytes 8 0)
    (bytesAt (mtAddr 0 0 0x200) ((List.range 64).map fun i => BitVec.ofNat 8 (i + 1)) s)

/-- Page 31, whose last byte is the set's last, and page 32, beyond it; position 63, tentative (R316). -/
def lastPage : Nat := 31 + 63 * 2 ^ 20 + 2 ^ 26
def beyond : Nat := 32 + 63 * 2 ^ 20

/-- What the check of a local area of tile 0 answers. -/
def checks (s : State) (x n al : Nat) (p : Nat × Nat) : Bool := match localCheck s 0 x n al with
  | .ok q => q == p
  | .error _ => false

/-- A request of a KV unit in tile 0, asked by tile 1. -/
def asked (op : KvOp) (s : State) : State := s.modRing 0 fun x => { x with kvq := [{ op := op, from' := some 1 }] }

theorem met_KvSetsAndRows :
    (∀ s ∈ [ab 0x8000000000000000 0, ab (setRef 0 3) 1, pool 3 [(3, ent 1 0 1 0 3 3)] (ab (setRef 0 3) 1), ab (setRef 1 3) 0,
        rowAt 0 beyond (ab 0x100 0)],
       IssuesForm s f12 ∧ s.strike = 0 ∧ bankerHeld s s.actor = false) ∧
    ((setRef 0 3).toNat < 2 ^ 63 ∧ (setRef 0 3).toNat / 2 ^ 38 % 2 = 0 ∧ (setRef 0 3).toNat / 2 ^ 20 % 1024 = 0 ∧ (setRef 0 3).toNat % 2 ^ 20 = 3 ∧
      State.reset.tileOk 0 = true ∧ ((State.reset.tile 0).ring).poolOn = false) ∧
    (∀ e ∈ [ent 1 0 1 0, ent 1 1 1 0, ent 65535 65535 1 0, ent 2 2 1 0, ent 0 0 1 0, ent 0 1 2 0, ent 0 2 2 0, ent 0 0 0 7],
       let s := pool 3 [(3, e)] (ab (setRef 0 3) 1)
       let x := (s.tile 0).ring
       x.poolOn = true ∧ 3 < x.nset ∧ areaFault s (x.entAddr 3) 32 = none ∧ leNat (homeRead s (x.entAddr 3) 32) = e ∧ x.head = 3) ∧
    ((pool 0xFFFFF [] (ab (setRef 0 0) 0)).tile 0).ring.head = 0xFFFFF ∧ (setRef 0 16).toNat % 2 ^ 20 = 16 ∧
    (∀ w ∈ [lastPage, beyond, 2 ^ 35], let s := pool 3 [(3, ent 1 0 1 0)] (rowAt (setRef 0 3) w (ab 0x100 0))
       checks s 0x100 32 8 (0, 0x100) = true ∧ served s 0 0x100 32 true = true ∧ leNat (readMt s 0 0 0x108 8) = w ∧
         checks s 0x200 64 8 (0, 0x200) = true ∧ localBlocked s 0 0 0x200 64 true = false) ∧
    (let x := ((pool 3 [] .reset).tile 0).ring
     let k := x.pageAddr 3 31 + 63 * 32
     (31 + 1) * 128 * x.rowBytes ≤ 2 ^ x.setl ∧ 2 ^ x.setl < (32 + 1) * 128 * x.rowBytes ∧ areaFault .reset k 32 = none ∧
       areaFault .reset (k + 64 * 32) 32 = none ∧ x.entAddr 3 + 32 ≤ k) ∧
    ((setRef 1 3).toNat / 2 ^ 20 % 1024 = 1 ∧ State.reset.tileOk 1 = true) ∧
    (let s := asked (.ref 3) (pool 3 [(3, ent 1 0 1 0)] .reset)
     (s.tile 0).ring.kvq = [{ op := .ref 3, from' := some 1 }] ∧ (match kvLocal s 0 false false (.ref 3) with
       | .ok (_, st, pay) => st == 0 && pay == 2
       | .error _ => false) = true) ∧
    (match kvLocal (pool 3 [] .reset |>.modRing 0 fun x => { x with kvstat := 0xFFFFFFFFFFE0 }) 0 false false (.ref 3) with
      | .ok _ => false
      | .error (c, _) => c != 0x14) = true ∧
    (match kvPerform (pool 3 [(3, ent 1 0 1 0)] .reset) 0 false false (remoteOp (.ref (setRef 0 3).toNat)).2 with
      | .ok (_, st, pay) => st == 0 && pay == 2
      | .error _ => false) = true := by
  exact ⟨fun s h => ⟨forms_of (l := [ab 0x8000000000000000 0, ab (setRef 0 3) 1, pool 3 [(3, ent 1 0 1 0 3 3)] (ab (setRef 0 3) 1),
      ab (setRef 1 3) 0, rowAt 0 beyond (ab 0x100 0)]) (by decide +kernel) s h, by revert s h; decide +kernel⟩, by decide +kernel⟩

/-- A shard table of four sink pages and a width of 64 at 0x1000, whose entries are all `e`, with `shget g5, g1, g2` before it (R309). -/
def shard (p : Word) (e : Nat) : State :=
  bytesAt 0x1440 ((List.replicate 5 e).flatMap (leBytes 8)) (bytesAt 0x1000 (leBytes 8 4) (mapped (ab 0x1000 p)))

/-- An entry in use, of set 7 of tile 2, of a generation. -/
def shardEnt (gen : Nat) : Nat := 1 + 7 * 2 ^ 10 + 2 * 2 ^ 30 + gen * 2 ^ 48

/-- Both reads of `shget` are answered, with an entry. -/
def shardReads (s : State) (off e : Nat) : Bool := match acquireRead s 0 0x1000 64 with
  | .ok (v, b) => !badShard (wordsOf 8 b) && match acquireRead v 0 (0x1000 + off) 8 with
    | .ok (_, x) => leNat x == e
    | _ => false
  | _ => false

/-- Where tile 0's address is translated: its home. -/
def landsAt (s : State) (x : Nat) (pa : Nat) : Bool := match xlatNow s 0 x with
  | .ok (v, e) => e.w && e.map x == pa && homeFault v pa == none && homeFault s pa == none && (v.tile 0).mem.lines == [] &&
      (v.wall (v.wallOf 0)).lines == []
  | .error _ => false

theorem met_ShardTablesNameTheHomeOfAPosition :
    (∀ s ∈ [mapped (ab 0xFFF8 5), shard 255 (shardEnt 0), shard 256 0, shard 0xFFFFFFFFFF 0, shard 0x10000000000 0, mapped (ab 0x1001 0)],
       IssuesForm s f12 ∧ bankerHeld s s.actor = false ∧ s.strike = 0) ∧
    (let s := mapped (ab 0xFFF8 5)
     (srcA s f12).toNat < 2 ^ 56 ∧ (srcA s f12).toNat % 8 = 0 ∧ areaFree s 0 0 0xFFF8 8 = true ∧ landsAt s 0xFFF8 0xFFF8 = true ∧
       outstanding (s.tile 0).mem .banker = [] ∧ (s.tile 0).mem.lines = [] ∧ (s.wall (s.wallOf 0)).lines = [] ∧
       outstanding ((path (fun m => { m with stores := [store3] }) s).tile 0).mem .banker ≠ [] ∧
       blockedBy s 0 .banker (s.tile 0).mem.nextId [(0xFFF8, 8)] (some .package) = false ∧
       blockedBy (path (fun m => { m with stores := [store3], nextId := 7 }) s) 0 .banker 7 [(0x1008, 8)] (some .package) = true) ∧
    (match acquireRead (path (fun m => { m with stores := [store3], nextId := 7 }) (mapped (ab 0x1000 0))) 0 0x1000 64 with
      | .error (_, c) => c == 0
      | .ok _ => false) = true ∧
    (∀ p ∈ [(0x458, shardEnt 0), (0x460, 0), (0x460, shardEnt 0x8000), (0x460, shardEnt 0x8001), (0x460, shardEnt 0xFFFF)],
       shardReads (shard 0 p.2) p.1 p.2 = true) ∧
    (match acquireRead (bytesAt 0x1000 [5] (shard 0 0)) 0 0x1000 64 with
      | .ok (_, b) => badShard (wordsOf 8 b)
      | _ => false) = true := by
  refine ⟨fun s h => ⟨forms_of (l := [mapped (ab 0xFFF8 5), shard 255 (shardEnt 0), shard 256 0, shard 0xFFFFFFFFFF 0,
    shard 0x10000000000 0, mapped (ab 0x1001 0)]) (by decide +kernel) s h, by revert s h; decide +kernel⟩, by decide +kernel⟩

/-! ## Query tokens -/

/-- A token's header: ITIX, entries of its itinerary, head dimension; its list is 7, its place 10, its return tile 1 (spec/13_rings.md R299). -/
def head (itix nit d : Nat) : Nat := 7 + 10 * 2 ^ 24 + itix * 2 ^ 44 + (nit - 1) * 2 ^ 53 + 2 ^ 61 + (d - 1) * 2 ^ 88

/-- A token whose itinerary begins with tile 2. -/
def tok (h : Nat) : List Byte :=
  newToken h 9 false (leBytes 4 2 ++ (List.range (tokNit h - 1)).flatMap fun i => leBytes 4 (i + 3)) (List.replicate (4 * tokDim h) 1)

/-- `qform g5, g1, g2`: the input of R313 at 0x100, the itinerary at 0x300, the queries at 0x400, the token to be written at 0xF000. -/
def formed (h : Nat) : State :=
  bytesAt (mtAddr 0 0 0x400) [0, 0, 0x80, 0x3F] (bytesAt (mtAddr 0 0 0x300) (leBytes 4 2)
    (bytesAt (mtAddr 0 0 0x100) (leBytes 16 h ++ leBytes 8 9 ++ leBytes 8 (0x400 + 0x300 * 2 ^ 20)) (ab 0x100 0xF000)))

/-- `qinj g5, g1, g2` of a token at 0x100. -/
def inject (bytes : List Byte) : State := bytesAt (mtAddr 0 0 0x100) bytes (ab 0x100 0)

/-- What `qform` and `qinj` of these states require. -/
def canForm (d : Nat) : Bool :=
  let s := formed (head 0 1 d)
  let h := leNat ((readMt s 0 0 0x100 32).take 16)
  checks s 0x100 32 8 (0, 0x100) && served s 0 0x100 32 true && h == head 0 1 d && tokCheck h 9 (tokItix h == 0) == 0 &&
    !itinBad (readMt s 0 0 0x300 4) 1 && checks s 0x300 4 4 (0, 0x300) && checks s 0x400 (4 * d) 4 (0, 0x400) &&
    checks s 0xF000 (tokSize h) 8 (0, 0xF000) && !localBlocked s 0 0 0x300 4 true && !localBlocked s 0 0 0x400 (4 * d) true &&
    !localBlocked s 0 0 0xF000 (tokSize h) false
def canInject (s : State) (b : List Byte) : Bool :=
  let h := hdrOf b
  checks s 0x100 32 8 (0, 0x100) && served s 0 0x100 32 true && readMt s 0 0 0x100 (tokSize h) == b && decide (tokItix h < tokNit h) &&
    tokCheck h 9 (decide (tokItix h ≤ tokNit h)) == 0 && checks s 0x100 (tokSize h) 8 (0, 0x100) && !itinBad (b.drop 0x20) (tokNit h) &&
    !localBlocked s 0 0 0x100 (tokSize h) true

/-- A package whose tiles but 0 and 1 are retired (spec/19_boundary.md R434). -/
def few : Hw := { shape := 0xFC :: List.replicate 127 0xFF ++ List.replicate 256 0 }

theorem met_TokensAreFormedAndInjected :
    (∀ s ∈ [formed (head 0 1 1), inject (tok (head 0 1 1)), ab 0x3FF 0x108, ab 0x2FF 0x108, ab 0 0xFFF0], IssuesForm s f12 ∧
       bankerHeld s s.actor = false ∧ s.strike = 0) ∧
    canForm 1 = true ∧
    ([tok (head 0 1 1), tok (head 1 2 1)].all fun b => canInject (inject b) b && (inject b).tileOk (tokDest b).2) = true ∧
    (let s := { inject (tok (head 0 1 1)) with hw := few }
     canInject s (tok (head 0 1 1)) = true ∧ s.tileOk 2 = false ∧ s.mgmt.arcNum = 0) ∧
    ((0x3FF : Nat) / 256 % 4 = 3 ∧ (0x2FF : Nat) / 256 % 4 ≠ 3 ∧ checks (ab 0x2FF 0x108) 0x108 16 8 (0, 0x108) = true ∧
      served (ab 0x2FF 0x108) 0 0x108 16 true = true ∧ served (ab 0x2FF 0x108) 0 0x108 16 false = true) := by
  refine ⟨fun s h => ⟨forms_of (l := [formed (head 0 1 1), inject (tok (head 0 1 1)), ab 0x3FF 0x108, ab 0x2FF 0x108, ab 0 0xFFF0])
    (by decide +kernel) s h, by revert s h; decide +kernel⟩, by decide +kernel, by decide +kernel, by decide +kernel, by decide +kernel⟩

/-- Slot `k` of the `n` of message 4, a query token for tile 0. -/
def qslot (k n : Nat) : RSlot := { msg := 4, k := k, n := n, query := true }

/-- A slot of the token stands at tile 0's stop of course ring 0, clockwise. -/
def passing (k n : Nat) (bytes : List Byte) (x : RingStop := {}) (ways : Tab RingWay := []) : State :=
  { State.reset.modRing 0 fun _ => x with
      net := { live := [(0, 0)], slots := [(0, some (qslot k n))], msgs := [{ id := 4, load := .query bytes, src := 1, ways := ways }], nextMsg := 5,
               exams := [0] } }

/-- What `matchUnitExamine` requires of tile 0. -/
def examines (s : State) (n : Nat) (bytes : List Byte) : Bool :=
  s.net.exams.contains 0 && physOf s.hw 0 == 0 && s.net.slot 0 0 0 == some (qslot 0 n) && (s.net.msg? 4).any (fun m => decide (m.load = .query bytes)) &&
    (s.tile 0).ring.fifo.all fun q => q.msg != 4

/-- Stop 0 of course ring 0 has a slot to insert for tile 2, and a state of its latch. -/
def stopped (pass : Nat) (latch : Option RSlot) (s : State) : State :=
  s.modNet fun n => { n with stops := [(0, { queue := [{ msg := 9, tile := 2 }], pass := pass, latch := latch, other := some 3 })] }

theorem met_TheMatchUnitExaminesTokens :
    (∀ p ∈ [(head 1 1 1 + 2 ^ 101, ({} : RingStop), 1), (head 1 1 1, { used := 1022 }, 1), (head 1 1 1, { used := 1022 }, 2), (head 1 1 1,
        { used := 1023 }, 1),
         (head 0 2 1, { rscfg := 0x8000000000000000, entries := [(3, 2 ^ 63 + 7 + 10 * 2 ^ 24)] }, 1), (head 0 2 1, { entries := [(3,
             2 ^ 63 + 7)] }, 1)],
       examines (passing 0 p.2.2 (tok p.1) p.2.1) p.2.2 (tok p.1) = true) ∧
    (tokBad (head 1 1 1 + 2 ^ 101) = true ∧ tokBad (head 1 1 1) = false ∧ tokBad (head 0 2 1) = false ∧ tokItix (head 1 1 1) = tokNit (head 1 1 1) ∧
      tokItix (head 0 2 1) ≠ tokNit (head 0 2 1) ∧ ((tok (head 1 1 1)).length + 63) / 64 = 2) ∧
    matchEntry { entries := [(3, 2 ^ 63 + 7 + 10 * 2 ^ 24)] } (head 0 2 1) = some 3 ∧
    (let next := leBytes 16 (setFld (head 0 2 1) 44 9 1) ++ (tok (head 0 2 1)).drop 16
     tokDest next = (0, 3) ∧ noTarget .reset 0 3 = false ∧ noTarget { State.reset with hw := few } 0 3 = true) ∧
    examines { passing 0 1 (tok (head 0 2 1)) with hw := few } 1 (tok (head 0 2 1)) = true ∧
    (∀ n ∈ [2, 3], let s := passing 1 n (tok (head 1 1 1)) { fifo := [{ size := 76, msg := 4 }] } [(0, .taken)]
       (s.net.msg? 4).any (fun m => decide (m.load = .query (tok (head 1 1 1)) ∧ m.wayAt 0 = some .taken)) = true ∧
         (s.tile 0).ring.fifo.find? (·.msg == 4) = some { size := 76, msg := 4 }) ∧
    (let s := passing 0 1 (tok (head 1 1 1))
     spliceDue (stopped 64 none s) 0 0 0 = true ∧ spliceDue (stopped 63 none s) 0 0 0 = false ∧
       ((stopped 0 (some (qslot 0 1)) s).net.stop 0 0 0).latch = some (qslot 0 1) ∧
       ((stopped 0 (some (qslot 0 1)) s).net.stop 0 0 0).spliced ≠ s.cyc + 1 ∧ readySlot (stopped 0 none s) 0 0 0 = some { msg := 9, tile := 2 }) ∧
    (State.reset.tileOk 5 = true ∧ ({ State.reset with hw := few } : State).tileOk 5 = false ∧
      raisesFull (((State.reset.modNet fun n => { n with links := List.replicate 33 { wall := 4 } }).net.links.filter
        fun l => l.wall == 4 && !l.sent).length) = true) := by
  exact ⟨by decide +kernel, by decide +kernel, by decide +kernel, by decide +kernel, by decide +kernel, by decide +kernel, by decide +kernel,
      by decide +kernel⟩

/-! ## The attention sequencer -/

/-- Tile 0's sequencer runs, with tiles 8, 9 and 10 as its query FIFO, its work tile and its page tile, and F32 rows (spec/14_attention.md R319). -/
def seqing (q : Seq) (s : State) : State :=
  ((s.modSeq 0 fun _ => { q with st := 1, ascfg := 0x3050A90 }).modRing 0 fun x => { x with rscfg := 8 }).modMem 0 fun m => { m with bkmt := 0x711 }

/-- Whether the sequencer issues, as a computation. -/
def seqGoes (s : State) : Bool := s.sequencer.st == 1 && decide (s.sequencer.nextIssue ≤ s.cyc) && s.sequencer.engine == 0

theorem seq_of {s : State} (h : seqGoes s = true) : SeqIssues s := by
  simp only [seqGoes, Bool.and_eq_true, beq_iff_eq, decide_eq_true_eq] at h
  exact ⟨h.1.1, h.1.2, h.2⟩

/-- Registers of a sequencer at its last microword: a1 = 5, a2 = 1, a3 poisoned. -/
def aregs : Seq := { pc := 1023, a := [(1, { v := 5 }), (2, { v := 1 }), (3, { poison := true })] }

/-- `asld g5, g1, g2` of two microwords at 0x100, for places `cs` and `cs + 1`. -/
def loads (cs : Nat) (q : Seq) : State :=
  bytesAt (mtAddr 0 0 0x100) (leBytes 8 0x1234567889ABCDEF) ((ab 0x100 (BitVec.ofNat 64 (cs + 2 * 2 ^ 10))).modSeq 0 fun _ => q)

theorem met_SequencerIsLoadedStartedAndStopped :
    (∀ s ∈ [loads 1022 {}, loads 1023 {}, loads 0 { st := 1 }, ab 1023 7, ab 1024 7, (ab 1 0).modSeq 0 fun _ => { st := 3, cause := 7 },
         (ab 2 0).modSeq 0 fun _ => { st := 1, nextIssue := 9 }, (ab 3 0).modSeq 0 fun _ => { st := 2 }], IssuesForm s f12 ∧ s.strike = 0) ∧
    (bankerHeld (loads 1022 {}) 0 = false ∧ checks (loads 1022 {}) 0x100 8 4 (0, 0x100) = true ∧ served (loads 1022 {}) 0 0x100 8 true = true) ∧
    curPage ((ab 1 0).modSeq 0 fun _ => { st := 3, cause := 7 }) 0 = false ∧
    (let q : Seq := { starting := true, entry := 9 }
     ((State.reset.modSeq 0 fun _ => q).tile 0).seq = q) ∧
    (let s := sem 9 4 (State.reset.modSeq 0 fun _ => { st := 2, mwSem := 9, mwThr := 4 })
     (s.tile 0).seq.mwThr ≤ s.semOf 0 9) ∧
    (let s := sem 9 3 (State.reset.modSeq 0 fun _ => { st := 2, mwSem := 9, mwThr := 4 })
     s.semOf 0 9 < (s.tile 0).seq.mwThr) := by
  exact ⟨fun s h => ⟨forms_of (l := [loads 1022 {}, loads 1023 {}, loads 0 { st := 1 }, ab 1023 7, ab 1024 7,
      (ab 1 0).modSeq 0 fun _ => { st := 3, cause := 7 },
    (ab 2 0).modSeq 0 fun _ => { st := 1, nextIssue := 9 }, (ab 3 0).modSeq 0 fun _ => { st := 2 }]) (by decide +kernel) s h,
        by revert s h; decide +kernel⟩,
    by decide +kernel⟩

theorem met_MicrowordsComputeBranchAndWait :
    SeqIssues (seqing aregs .reset) ∧
    (let s := seqing aregs .reset
     (Tab.get s.sequencer.a 1).poison = false ∧ (Tab.get s.sequencer.a 3).poison = true ∧ seqCfgOk s 0 = true ∧ s.strike = 0 ∧ curPage s 0 = false ∧
       s.semOf 0 9 < ((Tab.get s.sequencer.a 1).v.setWidth 32).toNat) ∧
    (let s := sem 9 5 (seqing aregs .reset)
     ((Tab.get s.sequencer.a 1).v.setWidth 32).toNat ≤ s.semOf 0 9) ∧
    seqCfgOk ((seqing aregs .reset).modRing 0 fun x => { x with rscfg := 9 }) 0 = false :=
  ⟨seq_of (by decide +kernel), by decide +kernel⟩

/-- R325: `msub` below zero, and `mli` of the least value. -/
theorem test_micro :
    left (.mSub 4 2 1) (seqing aregs .reset) (fun t => (Tab.get (t.tile 0).seq.a 4).v == 0xFFFFFFFFFFFFFFFC && (t.tile 0).seq.pc == 0) = true ∧
    left (.mLi 4 0x200000) (seqing aregs .reset) (fun t => (Tab.get (t.tile 0).seq.a 4).v == 0xFFFFFFFFFFE00000) = true := by decide +kernel

/-! ### Pages -/

/-- A token of one row is current, its list at 0x300 with two entries of set 3 (R302, R309). -/
def current (k : QTok) (h hd en : Nat) (s : State) : State :=
  bytesAt (mtAddr 0 0 0x300) (leBytes 8 hd ++ leBytes 8 en ++
      leBytes 8 en) (bytesAt (mtAddr 0 8 0) (tok h) (s.modRing 0 fun x => { x with fifo := [k], used := 2 }))

/-- The pool of tile 0 lies in its own memory tiles, set 3 in tile 4 (spec/13_rings.md R305). -/
def ownPool (s : State) : State := s.modRing 0 fun x => { x with kvpool := BitVec.ofNat 64 (2 ^ 63 + mtAddr 0 1 0 + 16 * 2 ^ 8 + 3) }

/-- A token of list 0x300 whose list has been begun. -/
def ktok : QTok := { size := 68, list := 0x300, lfirst := 10, li := some 0 }

/-- The head of a list of two entries of one head each; an entry of set 3, a sink page at position 0 (R309, R329). -/
def listHead : Nat := 2 + 2 ^ 45
def sinkEnt : Nat := 3 + 2 ^ 46

/-- `pgload` begins: the status entry of set 3, and the list entry. -/
def pageCase (e en : Nat) (q : Seq := aregs) : State :=
  current ktok (head 1 1 1 + 2 ^ 36) listHead en (seqing q (pool 5 [(3, e)] .reset))

/-- A page of set 3 is current, in tile 4, with a step done; rows of K and V, and the work data of the first row. -/
def folding (step : Nat) : State :=
  bytesAt (mtAddr 0 4 0) (leBytes 8 0 ++ [0, 0, 0x80, 0x3F]) (bytesAt (mtAddr 0 4 (64 * 32)) (leBytes 8 0 ++ [0, 0, 0, 0x40])
    (bytesAt (mtAddr 0 9 0x4400) (leBytes 8 3 ++ leBytes 8 (4 * 65536) ++
        leBytes 8 (step * 2 ^ 16 + 2 ^ 19)) (bytesAt (mtAddr 0 9 0x4200) (leBytes 8 1)
      (current ktok (head 0 1 1) listHead sinkEnt (seqing aregs (ownPool (pool 5 [(3, ent 1 1 1 0 1 0)] .reset)))))))

/-- Whether `k` is the current token and the ports serve the sequencer, as a computation. -/
def atToken (s : State) (k : QTok) (more : List Nat) : Bool :=
  seqCfgOk s 0 && s.actor == 0 && decide ((s.tile 0).ring.fifo.head? = some k) && k.msg == 0 && s.strike == 0 &&
    (s.qmt 0 :: s.wmt 0 :: more).all fun m => (s.port 0 m).serves s.cyc 3

theorem token_of {s : State} {k : QTok} {more : List Nat} (h : atToken s k more = true) : AtToken s k more := by
  simp only [atToken, Bool.and_eq_true, beq_iff_eq, decide_eq_true_eq, List.all_eq_true] at h
  obtain ⟨⟨⟨⟨⟨a, b⟩, c⟩, d⟩, e⟩, f⟩ := h
  exact ⟨by rw [b]; exact a, by rw [b]; exact c, d, by rw [b]; exact f, e⟩

/-- Whether the current page can be worked on, as a computation. -/
def pageReady (s : State) (k : QTok) : Bool :=
  curPage s s.actor && (kvFormat s s.actor (tokDim (hdrOf (tokenAt s k)))).isSome && (List.range 128).all fun i => match pageRow s s.actor i with
    | .ok _ => true
    | .error _ => false

theorem ready_of {s : State} {k : QTok} (h : pageReady s k = true) : PageReady s k := by
  simp only [pageReady, Bool.and_eq_true, List.all_eq_true, List.mem_range] at h
  refine ⟨h.1.1, h.1.2, fun i hi => ?_⟩
  have := h.2 i hi
  split at this
  · exact ⟨_, ‹_›⟩
  · cases this

/-- What `pgload` finds before it pins. -/
def findsPage (s : State) : Bool :=
  s.sequencer.mid == .none && checks s 0x300 8 8 (0, 0x300) && leNat (readMt s 0 0 0x300 8) == listHead && listIndex s 0 == 0 &&
    checks s 0x308 8 8 (0,
        0x308) && (kvFormat s 0 (tokDim (hdrOf (tokenAt s ktok)))).isSome && decide (tokRows (hdrOf (tokenAt s ktok)) ≤ 64) && !curPage s 0

theorem met_PagesAreFoundAndFolded :
    (∀ s ∈ [pageCase (ent 1 0 1 0 1 0) sinkEnt, pageCase (ent 0 0 0 0) sinkEnt, pageCase (ent 1 0 1 0) (3 + 0x8000 * 2 ^ 47),
         ownPool (pageCase (ent 1 0 1 0 1 0) sinkEnt), chain 0 { run := .started } (pageCase (ent 1 0 1 0 1 0) sinkEnt)],
       SeqIssues s ∧ AtToken s ktok [0] ∧ findsPage s = true ∧ EntryReached s 3) ∧
    (let s := pageCase (ent 1 0 1 0 1 0) sinkEnt
     let h := hdrOf (tokenAt s ktok)
     let pos0 := numAt (tokenAt s ktok) 0x10 8 % 2 ^ 40
     pageBase listHead sinkEnt pos0 (tokNpos h) = some 0 ∧ pageBase listHead (3 + 0x8000 * 2 ^ 47) pos0 (tokNpos h) = none ∧
       h / 2 ^ 36 % 2 ^ 8 = 1 ∧ h / 2 ^ 71 % 2 ^ 8 = s.mgmt.arcNum) ∧
    (SeqIssues (pageCase 0 0 { mid := .page 3 0x261000 [] }) ∧ ((pageCase 0 0).chain 0 0).run = .idle) ∧
    (∀ step ∈ [0, 1, 2, 3, 4, 7], SeqIssues (folding step) ∧ AtToken (folding step) ktok [] ∧
        AtToken (folding step) ktok (pageMore (folding step) 0 ktok) ∧
      pageStep (folding step) 0 = step) ∧
    PageReady (folding 0) ktok ∧ (let h := hdrOf (tokenAt (folding 0) ktok)
      tokRows h = 1 ∧ tokDim h = 1 ∧ usedPositions (folding 0) 0 1 = [0]) := by
  refine ⟨fun s h => ⟨seq_of ?_, token_of ?_, ?_, ?_⟩, by decide +kernel, ⟨seq_of (by decide +kernel), by decide +kernel⟩,
    fun step h => ⟨seq_of ?_, token_of ?_, token_of ?_, ?_⟩, ready_of (by decide +kernel), by decide +kernel⟩
  · revert s h; decide +kernel
  · revert s h; decide +kernel
  · revert s h; decide +kernel
  · revert s h; unfold EntryReached; decide +kernel
  · revert step h; decide +kernel
  · revert step h; decide +kernel
  · revert step h; decide +kernel
  · revert step h; decide +kernel

/-- `fold a4, a2`: page 31 of set 3, its last two positions, into the block at 0x2000 (spec/14_attention.md R334). -/
def foldCase (e : Nat) (q : Seq := { aregs with a := [(2, { v := 0x500 })] }) : State :=
  bytesAt (mtAddr 0 0 0x500) (leBytes 8 (setRef 0 3).toNat ++ leBytes 8 31 ++ leBytes 8 (3 * 2 ^ 62) ++ leBytes 8 0x2000)
    (mapped (seqing q (pool 5 [(3, e)] .reset)))

/-- A current token of `tok h`, its list at 0x300, and 0x600 in a1. -/
def outs (k : QTok) (h : Nat) : State := current k h listHead sinkEnt (mapped (seqing { a := [(1, { v := 0x600 })] } .reset))

/-- A rubble block of `d` = 1 at 0x2000, of one position, and the table that names it at 0x3000, named for entry 255 in the work tile (R335). -/
def rubble (s : State) : State :=
  bytesAt (mtAddr 0 9 (0x4800 + 8 * 255)) (leBytes 8 0x3000) (bytesAt 0x3000 (leBytes 8 0x2000)
    (bytesAt 0x2000 (leBytes 8 1 ++ List.replicate 56 0 ++ [0, 0, 0x80, 0x3F] ++ [0, 0, 0, 0x40]) s))

theorem met_TokensAreFoldedForwardedAndFinished :
    (∀ s ∈ [foldCase (ent 1 0 1 0 (3 * 2 ^ 62) (2 ^ 62)), foldCase (ent 0 0 0 0),
         foldCase (ent 1 1 1 0) { aregs with mid := .fold 3 0x261000 0x2000 1 [63] 1 12 },
             foldCase (ent 1 1 1 0) { aregs with mid := .fold 3 0x261000 0x2000 1 [] 2 12 }],
       SeqIssues s ∧ s.strike = 0 ∧ EntryReached s 3) ∧
    (let s := foldCase (ent 1 0 1 0 (3 * 2 ^ 62) (2 ^ 62))
     checks s 0x500 32 8 (0, 0x500) = true ∧ (s.port 0 0).serves s.cyc 3 = true ∧ (kvFormat s 0 1).isSome = true ∧
       leNat (readMt s 0 0 0x500 8) = (setRef 0 3).toNat ∧ leNat (readMt s 0 0 0x508 8) = 31 ∧ refTile (setRef 0 3).toNat = 0) ∧
    (let s := foldCase (ent 1 1 1 0) { aregs with mid := .fold 3 0x261000 0x2000 1 [63] 1 12 }
     (s.tile 0).mem.sbpend - 12 + (4 * 1 + 4 * 1 * 1 + 8) < 2 ^ 32 ∧ areaFree s 0 5 0x2000 (0x40 + 4 * 1 + 4 * 1 * 1) = true ∧
       (match foldRowsAt s 0 0x261000 63 with
         | .ok (u, k, v) => (foldPos u 0 0x2000 1 (rowValues (.wide f32Fmt) 1 k) (rowValues (.wide f32Fmt) 1 v)).2 == none
         | .error _ => false) = true) ∧
    (∀ p ∈ [(ktok, head 0 1 1), (ktok, head 1 1 1), ({ ktok with ret := true }, head 1 1 1 + 2 ^ 100), ({ ktok with ret := true },
        head 1 1 1 + 2 ^ 98 + 2 ^ 99)],
       SeqIssues (outs p.1 p.2) ∧ AtToken (outs p.1 p.2) p.1 [] ∧ AtToken (outs p.1 p.2) p.1 [0x600 / 2 ^ 16 % 16] ∧
         hdrOf (tokenAt (outs p.1 p.2) p.1) = p.2 ∧ checks (outs p.1 p.2) 0x600 4 4 (0, 0x600) = true ∧ curPage (outs p.1 p.2) 0 = false) ∧
    (let k := { ktok with e := 255 }
     AtToken (rubble (outs k (head 0 1 1))) k [] ∧ (match findBlock (onPorts (rubble (outs k (head 0 1 1))) []) 0 k (head 0 1 1) with
       | .ok (_, some b) => b.length == 72
       | _ => false) = true) ∧
    workNat (outs ktok (head 0 1 1)) 0 (0x4800 + 8 * ktok.e) 8 = 0 := by
  refine ⟨fun s h => ⟨seq_of ?_, ?_⟩, by decide +kernel, by decide +kernel, fun p h => ⟨seq_of ?_, token_of ?_, token_of ?_, ?_⟩,
    ⟨token_of (by decide +kernel), by decide +kernel⟩, by decide +kernel⟩
  · revert s h; decide +kernel
  · revert s h; unfold EntryReached; decide +kernel
  · revert p h; decide +kernel
  · revert p h; decide +kernel
  · revert p h; decide +kernel
  · revert p h; decide +kernel

/-! ## Requests -/

/-- Double words of a record (spec/15_requests.md R339). -/
def record (k : Nat) (l : List (Nat × Nat)) (s : State) : State := l.foldl (fun s p => rqPut s k p.1 8 p.2) s

/-- Word 0 of a record: STATE, INC 9, and other bits (R339). -/
def rstate (st : Nat) (more : Nat := 0) : Nat := st + 9 * 2 ^ 24 + more

/-- A reference to slot 5, INC 9. -/
def ref5 : Word := 5 + 9 * 2 ^ 12

/-- An operation waits at the record store, from tile 1. -/
def recop (op : RecOp) (s : State) : State := s.modPlinth fun p => { p with recq := [{ op := op, from' := some 1 }] }

/-- `scommit g5, g1`: a verdict of KIND 2 of three tokens at 0x100 (spec/16_sampling.md R370). -/
def verdict : Verdict :=
  { slot := 5, inc := 9, kind := 2, first := 2 ^ 40 - 1, n := 3, nacc := 2, t := [1, 7, 8], y := [7, 9, 6], mt := 0, off := 0x100 }
def verdictCase (kind : Nat) (s : State) : State :=
  bytesAt (mtAddr 0 0 0x100) (leBytes 8 (5 + 9 * 2 ^ 12 + kind * 2 ^ 24) ++ leBytes 8 (2 ^ 40 - 1 + 3 * 2 ^ 40) ++ leBytes 8 2 ++ leBytes 8 0 ++
    [1, 7, 8, 7, 9, 6].flatMap (leBytes 4)) s

/-- Tile 0 lies on the keystone wall of every slot. -/
def keystone (s : State) : State := s.modPlinth fun p => { p with sampcfg := 1 }

/-- A store of the banker is outstanding. -/
def unsettled (s : State) : State := path (fun m => { m with stores := [store3], nextId := 7 }) s

theorem verdict_at : VerdictAt (verdictCase 2 (ab 0x100 0)) 0x100 verdict := by
  refine { block := ?_, port := port_of (by decide +kernel), whole := ⟨(0, 0x100), ?_⟩, free := by decide +kernel, small := by decide +kernel,
           shape := by decide +kernel, d0 := by decide +kernel, d1 := by decide +kernel, d2 := by decide +kernel, d3 := by decide +kernel,
           ts := by decide +kernel, ys := by decide +kernel } <;> rfl

theorem met_RequestOperations :
    (∀ s ∈ [ab 0x1000000 0, ab ref5 0xFF, ab ref5 0x100, ab ref5 0, ab ref5 31, ab ref5 32, unsettled (ab ref5 2), mapped (ab 0x1000 0x1FFF),
         ab 0x1020 0, ab ref5 0x4000000000000000, ab ref5 0x0000000000000040, verdictCase 3 (ab 0x100 0), keystone (verdictCase 2 (ab 0x100 0)),
         unsettled (keystone (verdictCase 2 (ab 0x100 0)))], IssuesForm s f12 ∧ bankerHeld s s.actor = false ∧ s.strike = 0) ∧
    outstanding ((unsettled (ab ref5 2)).tile 0).mem .banker ≠ [] ∧ outstanding ((ab ref5 2).tile 0).mem .banker = [] ∧
    (match acquireLines 0 8 (mapped (ab 0x1000 0x1FFF)) 0x1000 with
      | .ok (_, l) => l.length == 1024
      | _ => false) = true ∧
    checks (ab ref5 0x40) 0x40 64 64 (0, 0x40) = true ∧
    (VerdictHead (verdictCase 3 (ab 0x100 0)) 0x100 0 0x100 ∧ BadVerdict (verdictCase 3 (ab 0x100 0)) 0 0x100) ∧
    isKeystone (verdictCase 2 (ab 0x100 0)) 0 5 = false ∧ isKeystone (keystone (verdictCase 2 (ab 0x100 0))) 0 5 = true ∧
    (∀ st ∈ [0, 1, 3, 4, 6], let s := recop (.cancel ref5.toNat) (record 5 [(0, rstate st)] .reset)
       rqInc s 5 = ref5.toNat / 2 ^ 12 % 2 ^ 12 ∧ rqState s 5 = st ∧ s.tileOk 1 = true) ∧
    (let s := recop (.commit 5 9 1 (2 ^ 40 - 1) 1 1 [0]) (record 5 [(0, rstate 3 (2 ^ 40)), (8, 2 ^ 40 - 1), (0x20, 5), (0x40, 2 ^ 32 + 1),
        (0x48, 2 ^ 32 + 1),
       (0x50, 2 ^ 32 + 1), (0x58, 2 ^ 32 + 1)] .reset)
     rqPend s 5 = true ∧ rqCpos s 5 = 2 ^ 40 - 1 ∧ 0 ≤ s.vsm1 ∧ (∀ i < 8, rqNat s 5 (0x40 + 4 * i) 4 % 2 ^ 18 ≠ 0) ∧
       (rqFld s 5 0x20 0 32 + 1) % 2 ^ 32 ≠ rqFld s 5 0x20 32 32) ∧
    rqFld (record 5 [(0, rstate 3), (0x38, (2 ^ 32 - 16401) * 2 ^ 32)] .reset) 5 0x38 32 32 ≤ 2 ^ 32 - 16401 := by
  refine ⟨fun s h => ⟨forms_of (l := [ab 0x1000000 0, ab ref5 0xFF, ab ref5 0x100, ab ref5 0, ab ref5 31, ab ref5 32, unsettled (ab ref5 2),
    mapped (ab 0x1000 0x1FFF), ab 0x1020 0, ab ref5 0x4000000000000000, ab ref5 0x0000000000000040, verdictCase 3 (ab 0x100 0),
    keystone (verdictCase 2 (ab 0x100 0)), unsettled (keystone (verdictCase 2 (ab 0x100 0)))]) (by decide +kernel) s h,
        by revert s h; decide +kernel⟩,
    by decide +kernel, by decide +kernel, by decide +kernel, by decide +kernel, ⟨⟨?_, port_of (by decide +kernel)⟩, ?_⟩, by decide +kernel⟩
  · rfl
  · unfold BadVerdict; decide +kernel

/-- The manifest buffer of pass 6, with an entry of three tokens (spec/15_requests.md R353), and the batch former at pass 7. -/
def manifest (s : State) : State :=
  let s := s.modBf fun b => { b with pass := 7, man := BitVec.ofNat 64 (2 ^ 25) }
  let a := s.bf.buffer 6
  bytesAt (a + 0x10100) ([4, 5, 6].flatMap (leBytes 4)) (bytesAt (a + 0x100) (leBytes 8 ref5.toNat ++ leBytes 8 (3 * 2 ^ 40))
    (bytesAt a (leBytes 8 6 ++ leBytes 8 1) s))

/-- A cursor on entry 0 of pass 6 (R355). -/
def cursor : Word := BitVec.ofNat 64 (2 ^ 45 + 6 * 2 ^ 16)

/-- Whether a read of `n` bytes is performed now, as a computation. -/
def readsNow (s : State) (pa n : Nat) : Bool :=
  (homeFault s pa).isNone && !blockedBy s s.actor .banker (s.tile s.actor).mem.nextId [(pa, n)] (some .package)

theorem now_of {s : State} {pa n : Nat} (h : readsNow s pa n = true) : ReadsNow s pa n := by
  simp only [readsNow, Bool.and_eq_true, Option.isNone_iff_eq_none, Bool.not_eq_true'] at h
  exact ⟨h.1, h.2⟩

theorem met_ManifestsAndVerdicts :
    (∀ s ∈ [manifest (ab 6 0), manifest (ab 0x100000000 0), manifest (ab 7 0), manifest (ab 0x200000000 0), manifest (ab cursor 0),
        manifest (ab cursor 1),
         manifest (ab cursor 4), manifest (ab cursor 5), manifest (ab (cursor ||| 1) 0), manifest (ab cursor 0x10000),
             ab (BitVec.ofNat 64 (8191 * 2 ^ 45 + 8189 * 2 ^ 32)) 0],
       IssuesForm s f12 ∧ s.strike = 0 ∧ bankerHeld s s.actor = false ∧ s.banker.hasPending s.cyc = false ∧ s.banker.emul = none) ∧
    (let s := manifest (ab cursor 4)
     let a := s.bf.buffer 6
     ReadsNow s a 16 ∧ ReadsNow s a 8 ∧ ReadsNow s (a + 0x100) 16 ∧ ReadsNow s (a + 0x10100 + 4 * 2) 4) ∧
    (let s := manifest (ab cursor 4)
     let a := s.bf.buffer 6
     leNat (homeRead s a 8) % 2 ^ 16 = 6 ∧ leNat (homeRead s (a + 0x100) 16) / 2 ^ 104 % 2 ^ 15 = 3 ∧
         leNat (homeRead s (a + 0x100) 16) / 2 ^ 32 % 2 ^ 32 = 0) ∧
    (let s := chain 0 c1
     CmdRuns s head0 ∧ s.engine.run ≠ .started ∧ s.bf.stages = 1 ∧ s.bf.en = false) ∧
    (let s := chain 0 { c1 with run := .started } (State.reset.modBf fun b => { b with cfg := 0x8000800000000000, man := BitVec.ofNat 64 (2 ^ 25) })
     CmdRuns s head0 ∧ (s.bf.en = true ∧ passHeld (begun s) = false)) ∧
    (VerdictAt (verdictCase 2 (ab 0x100 0)) 0x100 verdict ∧ localBlocked (verdictCase 2 (ab 0x100 0)) 0 0 0x110 8 false = false ∧
      VerdictHead (verdictCase 3 (ab 0x100 0)) 0x100 0 0x100) := by
  refine ⟨fun s h => ⟨forms_of (l := [manifest (ab 6 0), manifest (ab 0x100000000 0), manifest (ab 7 0), manifest (ab 0x200000000 0),
      manifest (ab cursor 0),
    manifest (ab cursor 1), manifest (ab cursor 4), manifest (ab cursor 5), manifest (ab (cursor ||| 1) 0), manifest (ab cursor 0x10000),
    ab (BitVec.ofNat 64 (8191 * 2 ^ 45 + 8189 * 2 ^ 32)) 0]) (by decide +kernel) s h, by revert s h; decide +kernel⟩,
    ⟨now_of (by decide +kernel), now_of (by decide +kernel), now_of (by decide +kernel), now_of (by decide +kernel)⟩, by decide +kernel,
    ⟨?_, by decide +kernel⟩, ⟨?_, by decide +kernel⟩, verdict_at, by decide +kernel, ⟨rfl,
        port_of (by decide +kernel)⟩⟩ <;> unfold CmdRuns <;> decide +kernel

/-! ## Text -/

/-- A vocabulary of one token, `a`, with its digest (spec/17_text.md R376). -/
def vocBody : List Byte :=
  ((List.range 256).flatMap fun b => if b = 0x61 then [0, 0, 0, 0] else [0xFF, 0xFF, 0xFF, 0xFF]) ++ leBytes 8 (2 ^ 32) ++ [0x61, 0, 0, 0, 0, 0, 0, 0]

/-- Its image, number 2. -/
def voc2 : Vocab :=
  { vid := 2, bytes := leBytes 4 0x5E7D0CAB ++ [1, 2, 0, 0] ++ leBytes 4 0x490 ++ leBytes 4 1 ++ leBytes 4 1 ++ leBytes 4 0 ++ leBytes 8 0 ++
      (leBytes 48 0x9FED4730194C13B81148C0228D777D787732A2B8062FE4FACD97A738007DD0FF3639163B5077A8D0806A133BF027AB98).reverse ++
          List.replicate 48 0 ++ vocBody }

/-- It is resident. -/
def known (s : State) : State := s.modPlinth fun p => { p with vocabs := [voc2] }

/-- A Quarry's state. -/
def quarry (e : Nat) (q : Quarry) (s : State) : State := s.modPlinth fun p => { p with quarry := Tab.set p.quarry e q, qrbuf := 0x800000000000000C }

/-- The image stands at 0x1000 and is mapped. -/
def vocAt (s : State) : State := bytesAt 0x1000 voc2.bytes (mapped s)

theorem met_VocabulariesAndTextEnginesAreManaged :
    (∀ s ∈ [ab 0x1000 0x10000, mapped (ab 0x1000 0x100), mapped (unsettled (ab 0x1008 0)), known (ab 0 0x201), known (ab 0 0x301),
        quarry 3 { st := 1, ports := 1 } (ab 0x12 0), quarry 3 { st := 1, ports := 2 } (ab 0xF2 0),
         quarry 3 { st := 1, ports := 1 } (ab 0x3 0), ab 16 0, ab 256 0, ab ref5 0, ab 0x1000000 0], IssuesForm s f12 ∧
             bankerHeld s s.actor = false) ∧
    (let s := vocAt (ab 0x1000 0)
     areaFree s 0 0 0x1000 0x80 = true ∧ outstanding (s.tile 0).mem .banker = [] ∧ (match loadVocab s 0 0x1001 with
       | (_, st, o) => st == 8 && o.isNone) = true) ∧
    ((known .reset).vocab? 2 = some voc2 ∧ (known .reset).vocab? 3 = none ∧ vocabUsed (known .reset) 2 = false ∧
      vocabUsed (record 5 [(0, rstate 3 (2 * 2 ^ 48))] (known .reset)) 2 = true) ∧
    (let s := quarry 3 { st := 1, ports := 1 } (ab 0x12 0)
     (s.quarryOf 2).st = 0 ∧ (∃ i < 16, (s.quarryOf i).st ≠ 0 ∧ (s.quarryOf i).ports &&& 1 ≠ 0) ∧ s.plinth.qrbuf.toNat.testBit 63 = true) ∧
    vocCheck voc2 = 0 := by
  refine ⟨fun s h => ⟨forms_of (l := [ab 0x1000 0x10000, mapped (ab 0x1000 0x100), mapped (unsettled (ab 0x1008 0)), known (ab 0 0x201),
      known (ab 0 0x301), quarry 3 { st := 1, ports := 1 } (ab 0x12 0), quarry 3 { st := 1, ports := 2 } (ab 0xF2 0),
    quarry 3 { st := 1, ports := 1 } (ab 0x3 0), ab 16 0, ab 256 0, ab ref5 0, ab 0x1000000 0]) (by decide +kernel) s h,
        by revert s h; decide +kernel⟩,
    by decide +kernel, by decide +kernel, by decide +kernel, by decide +kernel⟩

/-- A request frame for vocabulary 2 of the body `a`, RID 7, and a cancel frame (R373, R374). -/
def request : List Byte := frameBytes 1 7 [1, 0, 1, 0, 2, 0, 0, 0] [0x61]
def cancel : List Byte := frameBytes 2 7 [] []

/-- Quarry 3 listens on port 1. -/
def listening (s : State) : State := quarry 3 { st := 1, ports := 2 } (known (mapped s))

/-- A staged request of peer 0, port 1, RID 7. -/
def staged : List Byte := List.replicate 0x180 0 ++ leBytes 8 7 ++ leBytes 8 0 ++ leBytes 8 (1 + 2 ^ 12) ++ List.replicate (1024 - 0x198) 0

/-- A record of it, in some state, with a token of vocabulary 2 for its Setter. -/
def requested (st : Nat) (s : State) : State :=
  record 5 [(0, rstate st (2 * 2 ^ 48)), (0x180, 7), (0x190, 1 + 2 ^ 12), (0x200, 1)] s

/-- Setter 4 has a wake of slot 5. -/
def woken (running : Bool) (s : State) : State := s.modPlinth fun p => { p with setter := [(4, { running := running, wakes := [5] })] }

/-- A text command of chain 3 of tile 0, of TYPE `ty`, `pos` of its accesses made. -/
def text (ty pos : Nat) (s : State) : State :=
  { chain 3 { c1 with run := .started, record := ty + 2 * 2 ^ 120, pos := pos, shape := [3, 1] } s with actorChain := 3 }

theorem met_FramesAreServedAndTextIsFormed :
    (portQuarry .reset 1 = none ∧ portQuarry (listening .reset) 1 = some 3 ∧ ((listening .reset).quarryOf 3).held = .none ∧
      textCmd (listening .reset) 3 0x30 = false) ∧
    (frameBad request = false ∧ frameKind request = 1 ∧ frameBad [] = true ∧ frameBad cancel = false ∧ frameKind cancel = 2 ∧
        frameBad (cancel ++ [0]) = true) ∧
    (match checkRequest (listening .reset) 1 0 request, checkRequest (quarry 3 { st := 1, ports := 2 } .reset) 1 0 request with
      | .ok l, .error c => l == [0] && c == 3
      | _, _ => false) = true ∧
    (vWrite (listening .reset) 0 (promptBuf (listening .reset) 0) (leBytes 4 0)).2 = none ∧
    queuedReq ((listening .reset).modBf fun b => { b with arrq := [staged] }) 1 0 7 = some 0 ∧ queuedReq .reset 1 0 7 = none ∧
    (liveReq (requested 3 .reset) 1 0 7 = some 5 ∧ rqActive (requested 3 .reset) 5 = true ∧ rqActive (requested 4 .reset) 5 = false ∧
        liveReq .reset 1 0 7 = none) ∧
    (let s := woken true (known (requested 3 .reset))
     (Tab.get s.plinth.setter 4).wakes = [5] ∧ textCmd s 4 0x40 = false ∧ rqClosed s 5 = false ∧ rqState s 5 = 3 ∧ rqInc s 5 < 4096 ∧
       s.vocab? (rqFld s 5 0 48 8) = some voc2 ∧ rqOutr s 5 = 0 ∧ rqOutw s 5 = 1 ∧
       (match detokAll voc2 [] [] 0 [0] { tb := [], out := [], hit := false } with
         | (r, d, f) => r == 1 && d.out == [0x61] && !d.hit && f.isNone) = true) ∧
    (∀ ty ∈ [0x30, 0x40], ∀ pos ∈ [0, 1], CmdRuns (text ty pos (known (go {}))) head0 ∧ (text ty pos (known (go {}))).actorChain = 3) ∧
    (textServes (begun (text 0x30 0 (known (go {})))) 0 0 0x30 = true ∧ textServes (begun (text 0x40 0 (known (go {})))) 0 0 0x40 = true ∧
      checks (begun (text 0x30 1 (known (go {})))) 0x508 8 8 (0, 0x508) = true ∧ ((text 0x30 1 (known (go {}))).port 0 0).serves 0 4 = true) ∧
    (match readText (begun (text 0x30 0 (known (go {})))) 0 3 0x1000 1 1, tokenise voc2 [0x61], tokenise voc2 [0x62], detokRun voc2 0 [0] [] with
      | .ok (_, b), some l, none, (st, _) => b == [1] && l == [0] && st == 5
      | _, _, _, _ => false) = true := by
  refine ⟨by decide +kernel, by decide +kernel, by decide +kernel, by decide +kernel, by decide +kernel, by decide +kernel, by decide +kernel,
    by decide +kernel, ?_, by decide +kernel, by decide +kernel⟩
  unfold CmdRuns
  decide +kernel

/-! ## Cuts, registers and the host -/

/-- Snapshots are on in tile 0, their banks from 2^26 on; a copy whose instance 3 is over, after a cut at 2 (spec/18_system.md R401). -/
def snapping (c : Copy) (s : State := .reset) : State := one .running c (s.modSys 0 fun x => { x with snapbase := 0x4000001 })
def cutting : Copy := { copy 1 .running with j := 3, cutJ := 2, kern := { kernelOf img1 with snap := 1 } }

/-- A cut under way. -/
def cut7 : Cut := { k := 7 }

theorem met_CutsAreRecordedCompletedOrAbandoned :
    (let s := snapping cutting
     s.copy? cutting.ref = some cutting ∧ cutReady s cutting = true) ∧
    cutReady (one .running cutting .reset) cutting = false ∧
    (let c := { cutting with writing := some cut7 }
     let s := snapping c
     s.copy? c.ref = some c ∧ bankFault s c 7 = false ∧ c.leave = false ∧ s.snapOn c.tile = true) ∧
    (let c := { cutting with writing := some cut7 }
     bankFault ((snapping c).modSys 0 fun x => { x with snapbase := 0xFFFFFC000001 }) c 7 = true) ∧
    (let c := { cutting with log := [(1, {})] }
     (snapping c).snapOn c.tile = true ∧ c.writing = none ∧ c.log ≠ [] ∧ c.logBad = false) ∧
    (one .running cutting .reset).snapOn 0 = false := by decide +kernel

/-- A program counter of a word at 0x200, with a chain register's fields (spec/12_engines.md R278). -/
def chainReg (mt base sz : Nat) : Word := BitVec.ofNat 64 (mt * 2 ^ 32 + base * 2 ^ 16 + sz)

/-- A held copy of launch 1. -/
def heldCopy (s : State := .reset) : State := one .running (copy 1 (.held true)) s

theorem met_TileRegisterWritesTakeEffect :
    (State.reset.tileOk 0 = true ∧ State.reset.mgmt.state ≠ 2 ∧ ({ State.reset with hw := few } : State).tileOk 2 = false) ∧
    (State.reset.reserved 0 0 = true ∧ State.reset.reserved 0 15 = false ∧ claimedMt .reset 0 15 = false ∧
      claimedMt (one .running (sinkCopy 1 .running) .reset) 0 0 = true ∧ chainIn (chain 0 c0) 0 0 = true ∧ chainIn .reset 0 0 = false) ∧
    ((chain 0 c0).chain 0 0).issued = ((chain 0 c0).chain 0 0).done ∧ ((chain 0 c1).chain 0 0).issued ≠ ((chain 0 c1).chain 0 0).done ∧
    ((chainReg 0 0xFFC0 1).toNat / 2 ^ 16 % 2 ^ 16 + 32 * 2 ^ 1 ≤ 65536 ∧ ¬ (chainReg 0 0xFFE0 1).toNat / 2 ^ 16 % 2 ^ 16 + 32 * 2 ^ 1 ≤ 65536 ∧
      (chainReg 0 0 11).toNat / 2 ^ 16 % 2 ^ 16 + 32 * 2 ^ 11 ≤ 65536) ∧
    (mwinBad .reset 0 3 (win 0x10 0x100 &&& mwinMask) = false ∧ mwinBad .reset 0 3 (win 0x0 0x100 &&& mwinMask) = true) ∧
    ((pool 3 [] .reset).tile 0).ring.poolOn = true ∧ (State.reset.tile 0).ring.poolOn = false ∧
    (State.reset.tile 0).seq.st = 0 ∧ ((seqing {} .reset).tile 0).seq.st = 1 ∧
    anyHeld heldCopy 0 1 = true ∧ anyHeld .reset 0 1 = false ∧
    ((stalled (.reply (.g 5) false 9 none) .reset).tile 0).bk.stall = .reply (.g 5) false 9 none := by decide +kernel

theorem met_PackageRegisterWritesTakeEffect :
    (sysRegAt .reset 0x7FFFF8 = none ∧ State.reset.mgmt.evq = [] ∧ State.reset.mgmt.state ≠ 2) ∧
    (State.reset.ways 3 ≤ min 15 8 ∧ State.reset.plinth.bf.en = false ∧ groupBusy .reset 255 = false ∧
      groupBusy (grouped 1 [member 0x2000] (go {})) 2 = true) ∧
    ((State.reset.sbarOf 15).arr = 0 ∧ (0x80000400 : Word).toNat.testBit 31 = true ∧ (0x80000400 : Word).toNat % 2 ^ 11 = 1024) ∧
    (clockRuns .reset = true ∧ clockRuns (State.reset.modPlinth fun p => { p with frozen := true }) = false) ∧
    ((State.reset.modPlinth fun p => { p with unordReq := some true }).plinth.unordReq = some true ∧ State.reset.copies = []) := by decide +kernel

/-- A flash operation of each kind runs, and a nonce stands where the attestation will read it. -/
def flashing (op : Nat) : State := State.reset.modMgmt fun m => { m with flashSt := 1, flashOp := op }

theorem met_HostMemoryFlashAndAttestation :
    (hostFault .reset 0x1000 8 = none ∧ State.reset.mgmt.pwrCur ≠ 3 ∧ State.reset.mgmt.state ≠ 2 ∧ State.reset.strike = 0) ∧
    (hostFault .reset (2 ^ 48 - 8) 8).isSome = true ∧
    (State.reset.modMgmt fun m => { m with pwrCur := 3 }).mgmt.pwrCur = 3 ∧
    ((flashing 1).mgmt.flashSt = 1 ∧ (objRead ((flashing 1).modMgmt fun m => { m with flashAddr := 2 ^ 48 - 64 }) (2 ^ 48 - 64)).isNone = true) ∧
    (match objRead (flashing 1) 0 with
      | some b => !objFormat b
      | none => false) = true ∧
    (let s := State.reset.modMgmt fun m => { m with attestGo := true }
     hostFault s s.mgmt.attestAddr (64 + 256 + 384 + 16224) = none ∧ homeFault s (s.mgmt.attestAddr + 64) = none) := by
  refine ⟨by decide +kernel, by decide +kernel, by decide +kernel, by decide +kernel, ?_, by decide +kernel⟩
  decide +kernel

theorem met_ResetsPowerAndLinks :
    ((flashing 1).mgmt.flashSt = 1 ∧ State.reset.mgmt.flashSt ≠ 1 ∧ bootBank State.reset.hw = none) ∧
    (State.reset.plinth.frozen = false ∧ State.reset.mgmt.pwrCur = State.reset.mgmt.pwrReq ∧ State.reset.cyc % 256 = 0) ∧
    (let s := State.reset.modMgmt fun m => { m with arcEn := true, arcNum := 7, arcSize := 2 }
     s.mgmt.arcEn = true ∧ ([7, 9] : List Nat).head? = some s.mgmt.arcNum ∧ ([7, 9] : List Nat).Nodup ∧ s.mgmt.arcSize = 2 ∧ s.mgmt.arcDup = false ∧
       s.mgmt.arcUp = false) ∧
    (portBusy .reset 0 = false ∧ (State.reset.mgmt.sag = none)) ∧
    (State.reset.modMgmt fun m => { m with sag := some 4 }).mgmt.sag = some 4 ∧
    (State.reset.modMgmt fun m => { m with evq := List.replicate 1023 (2, 0) }).mgmt.evq.length < 1024 := by decide +kernel

/-! ## Steps and words -/

/-- The next turn. -/
def turn (w : Who) (s : State) : State := { s with agenda := [{ delay := 0, who := w }] }

/-- The state of the turn itself. -/
def opened (s : State) : State := { openTurn { s with agenda := [] } with strike := 0 }

/-- The banker of tile 0 is at `add g1, g1, #1`. -/
def atWord : State := turn (.banker 0) (State.reset.withFetchWord 48 0x02008104105F)

theorem met_StepRunsTheDecodedInstruction :
    (let s := atWord
     (exactNow { s with agenda := [] }).isNone = true ∧ clockRuns (opened s) = true ∧ (opened s).tileOk 0 = true ∧ ((opened s).tile 0).bk.mode = 0 ∧
       mayTakeTrap (opened s) 0 = false ∧ ((opened s).tile 0).bk.stall = .none ∧ ((opened s).tile 0).bk.nextIssue ≤ (opened s).cyc ∧
       fetchWaits (opened s) 0 ((opened s).tile 0).bk.pc = false ∧ (match fetchWord (opened s) 0 ((opened s).tile 0).bk.pc with
         | .ok (_, w) => w == 0x02008104105F
         | .error _ => false) = true) ∧
    (let s := turn (.sequencer 0) (seqing aregs .reset)
     (exactNow { s with agenda := [] }).isNone = true ∧ ((opened s).tile 0).seq.mayIssue (opened s).cyc = true ∧
         ((opened s).tile 0).seq.stopReq = false) ∧
    (let s := turn (.engine 0 0) (bytesAt (mtAddr 0 0 0x200) (leBytes 8 5) (chain 0 { c1 with done := 6 }))
     let k := (opened s).chain 0 0
     (exactNow { s with agenda := [] }).isNone = true ∧ k.en = true ∧ k.flt = false ∧ k.run = .idle ∧ k.hold = false ∧ k.issued ≠ k.done ∧
       ((opened s).port 0 k.mt).serves (opened s).cyc 1 = true) ∧
    (eventRuns .reset .coldReset = true ∧ eventRuns .reset (.regionFire ⟨0, 0, 0⟩) = false) ∧
    (match exactNow (schedule .reset 0 (.sequencerStart 0)) with
      | some (_, i) => i == .sequencerStart 0
      | none => false) = true := by decide +kernel

theorem goes_of {r : Host.Outcome State Fault Refusal} (h : (match r with | .next _ => true | _ => false) = true) : goesOn r := by
  cases r with
  | next t => exact ⟨t, rfl⟩
  | fault f => cases h
  | refused f => cases h

theorem met_EveryStepKeepsMemoryCanonical : Safe atWord ∧ goesOn (step atWord) :=
  ⟨by unfold Safe; decide +kernel, goes_of (by decide +kernel)⟩

/-- A decoded word is no poison word. -/
def plain : Instr → Bool
  | .bPoisonWord _ | .mPoisonWord _ => false
  | _ => true

theorem met_DecodingInvertsEncoding :
    (WellFormed (.bAdd m64 f12) = true ∧ (encodeB (.bAdd m64 f12)).isSome = true ∧ Selected (fun _ => 0) (.bAdd m64 f12) ∧
      WellFormed (.asstatStop (form (.g 5) (.g 1) .none .none)) = true ∧ (encodeB (.asstatStop (form (.g 5) (.g 1) .none .none))).isSome = true ∧
      Selected (fun _ => 2) (.asstatStop (form (.g 5) (.g 1) .none .none))) ∧
    (WellFormed (.mAddImm 15 0 0x3FF) = true ∧ (encodeM (.mAddImm 15 0 0x3FF)).isSome = true) ∧
    (WellFormed (.cNull head0) = true ∧ (encodeC (.cNull head0)).isSome = true) ∧ kAdd.wf = true ∧
    (∀ x, decodeB (fun _ => 0) 0x02008104105F ≠ .bPoisonWord x) ∧ (∀ x, decodeM 0x28040006 ≠ .mPoisonWord x) ∧
    (decodeC 0x0 ).isSome = true ∧ (decodeE 0x021C810D001E).isSome = true := by
  have b : plain (decodeB (fun _ => 0) 0x02008104105F) = true := by decide +kernel
  have m : plain (decodeM 0x28040006) = true := by decide +kernel
  exact ⟨⟨by decide +kernel, by decide +kernel, trivial, by decide +kernel, by decide +kernel, rfl⟩, by decide +kernel, by decide +kernel,
    by decide +kernel, fun x h => (by rw [h] at b; cases b), fun x h => (by rw [h] at m; cases m), by decide +kernel, by decide +kernel⟩

/-! ## More cases of the statements -/

/-- The first poisoned value of a list. -/
def firstBad (l : List PReg) : Option Word := (l.find? (·.poison)).map (·.v)

/-- What the poison clauses ask of the banker beside the guard and the sources. -/
def quiet (s : State) : Bool := !s.banker.hasPending s.cyc && s.banker.emul == none && decide (s.banker.readyAt 39 ≤ s.cyc) &&
  (s.banker.r.flag 7).b && !(s.banker.r.flag 7).poison

/-- The frame lies in memory tile 1 of tile 0, which is no buffer. -/
def frame1 (s : State) : State := s.modSys 0 fun x => { x with tfbase := 0x10000 }

/-- A poisoned guard, and a poisoned first, second and third source, and one in a record; a posted trap with a waiting poster. -/
theorem met_DoubleFaultsPoisonAndPostedTraps_more :
    (let s := flag3 true (ab 1 2)
     s.banker.readyAt (32 + g3.guard.idx.val) ≤ s.cyc ∧ s.banker.hasPending s.cyc = false ∧ s.banker.emul = none ∧
       (s.banker.r.flag g3.guard.idx.val).poison = true) ∧
    ([bad 1 .reset, bad 2 .reset, bad 5 .reset, bad 9 .reset].all quiet = true) ∧
    ((∀ i ∈ formRegs f12, (bad 2 .reset).banker.readyAt i ≤ 0) ∧ firstBad [readB (bad 1 .reset) 0 f12.a] = some 0x77 ∧
      firstBad [readB (bad 2 .reset) 0 f12.a, readB (bad 2 .reset) 0 f12.b] = some 0x77) ∧
    (let s := bad 9 .reset
     (∀ i ∈ recordRegs f82.a ++ srcRegs f82.b, s.banker.readyAt i ≤ s.cyc) ∧
       firstBad (recordVals s 0 f82.a ++ [readB s 0 f82.b]) = some 0x77) ∧
    (let s := bad 5 .reset
     (∀ i ∈ 5 :: formRegs f12, s.banker.readyAt i ≤ s.cyc) ∧ f12.dst = .g 5 ∧
       firstBad [readB s 0 f12.a, readB s 0 f12.b, Tab.get s.banker.r.g 5] = some 0x77) ∧
    (let s := (traps (posted running)).modSys 0 fun x => { x with posters := [{ trap := { cause := 0x1E, posted := true } }] }
     mayTakeTrap s 0 = true ∧ ((s.tile 0).sys.posted.length, (s.tile 0).sys.posters.length) = (1, 1)) := by decide +kernel

theorem met_TrapBreakAndReturn_more :
    (IssuesForm (frame1 (ab 3 4)) n12 ∧ IssuesForm (busy (ab 3 4)) n12 ∧ IssuesForm (ab 3 4) n12) ∧
    (let s := frame1 (ab 3 4)
     (s.roleOf 0 (s.frameAt 0).1).isBuffer = false ∧ s.banker.hasPending s.cyc = false ∧ s.banker.emul = none) ∧
    (∀ p ∈ [(busy (ab 3 4), false), (ab 3 4, true)],
      (p.1.roleOf 0 (p.1.frameAt 0).1).isBuffer = true ∧ (p.1.port 0 (p.1.frameAt 0).1).serves p.1.cyc 0 = p.2) :=
  ⟨⟨form_of (by decide +kernel), form_of (by decide +kernel), form_of (by decide +kernel)⟩, by decide +kernel, by decide +kernel⟩

/-- An emulation whose word has run, with its status for `g5`. -/
def emulates (s : State) : State := s.modBk 0 fun b => { b with emul := some { d := .g 5, word := 0x02008104105F, ran := true } }

theorem met_EmulationTakesUpTheFrame_more :
    (∀ p ∈ [(busy (ab 0x02008104105F 0), true, false), (ab 0x02008104105F 0, true, true), (frame1 (ab 0x02008104105F 0), false, true)],
      (srcA p.1 f12).toNat < 2 ^ 48 ∧ (srcA p.1 f12).toNat / 2 ^ 40 % 2 ^ 8 = 2 ∧ p.1.banker.hasPending p.1.cyc = false ∧
        (p.1.roleOf 0 (p.1.frameAt 0).1).isBuffer = p.2.1 ∧ (p.1.port 0 (p.1.frameAt 0).1).serves p.1.cyc 0 = p.2.2 ∧
        p.1.banker.emul = none) ∧
    (((emulates .reset).tile 0).bk.emul = some { d := .g 5, word := 0x02008104105F, ran := true } ∧
      ∀ n < 3, Tab.get ({} : Regs).active n = false) := by decide +kernel

theorem met_LaunchControl_more :
    (∀ s ∈ [launched 1 (job .queued) (ab 1 3), launched 1 (job .ended) (ab 1 3), staged2 .staged (launched 1 (job .queued) (ab 1 2))],
      IssuesForm s f12) ∧
    (let s := launched 1 (job .queued) (ab 1 3)
     (s.launch 0 1).used = true ∧ (s.launch 0 1).state ≠ .running) ∧
    (let s := launched 1 (job .ended) (ab 1 3)
     (s.launch 0 1).used = true ∧ (s.launch 0 1).state = .ended ∧ sweepOf s 0 1 = none) ∧
    (let s := staged2 .staged (launched 1 (job .queued) (ab 1 2))
     (s.launch 0 2).staged = true ∧ (s.launch 0 2).partner = 1 ∧ (s.launch 0 2).state = .staged ∧ (s.launch 0 1).state ≠ .running ∧
       (s.launch 0 1).state ≠ .sweeping) :=
  ⟨forms_of (by decide +kernel), by decide +kernel⟩

/-- An `stmw` to a group that has grown since its issue, with room for its copies and without, and one that waits for an earlier store. -/
theorem met_MirroredWindows_more :
    (∀ p ∈ [(queued fan (windowed [(0, 0x10), (1, 8), (5, 8)] .reset), true),
        (path (fun m => { m with sbpend := 2 ^ 32 - 1 }) (queued fan (windowed [(0, 0x10), (1, 8), (5, 8)] .reset)), false)],
      let s : State := p.1
      oldestFan s 0 = some fan ∧ fan.kind = .fan 2 4 [1, 2, 3, 4] 1 ∧ (s.tile 0).mem.stores.find? (·.isFor 0) = none ∧
        released s 0 fan.cycle fan.after = true ∧ ((groupMembers s 2).filter (· != 0)).length = 2 ∧
        decide (storesUsed (s.tile 0).mem - 1 + 2 ≤ 64 ∧ (s.tile 0).mem.sbpend - fan.pend + 4 * 2 < 2 ^ 32) = p.2) ∧
    (let e := { fan with after := [5] }
     let s := path (fun m => { m with stores := [{ store3 with id := 5 }, e] }) (windowed [(0, 0x10), (1, 8)] .reset)
     oldestFan s 0 = some e ∧ released s 0 e.cycle e.after = false) := by decide +kernel

/-- Accesses of tile 0's banker that wait for the walk of page 5, beside others. -/
def waiting5 (s : State) : State := traps (path (fun m =>
  { m with loads := [wload, { load3 with id := 7 }, { wload with id := 8, rmw := some { op := .aadd, b := 7 } }],
           stores := [{ store3 with id := 9, xlat := .walking 5, va := 0x50010 }, { store3 with id := 10 }] }) (walking5 s))

/-- They wait on tables that map the page, and on a root that is off. -/
theorem met_WalksAndPrefetchesEnd_more :
    (∀ s ∈ [waiting5 tables, waiting5 .reset], s.tiles.map (·.1) = [0] ∧ s.wallOf 0 = 0 ∧ ((s.wall 0).walks.take 16).any (·.page == 5) = true ∧
      ((s.tile 0).mem.loads.map (·.id)).Nodup ∧ ((s.tile 0).mem.stores.map (·.id)).Nodup ∧
      ((s.tile 0).mem.loads.all fun e => e.who == .banker) = true ∧ ((s.tile 0).mem.stores.all fun e => e.who == .banker) = true ∧
      (s.tile 0).sys.ten = true ∧ (s.tile 0).sys.posted.length + 3 ≤ 32 ∧ (s.wall 0).lines = []) ∧
    ((walk (waiting5 tables) 0 0x50000).2.toOption.isSome = true ∧ (walk (waiting5 .reset) 0 0x50000).2.toOption.isNone = true ∧
      bitOf (waiting5 tables).plinth.ptroot.toNat 0 = true) ∧
    (let s := path (fun m => { m with pfs := [{ id := 4, va := 0x1000 }] }) (mapped .reset)
     (s.tile 0).mem.pfs.find? (·.id == 4) = some { id := 4, va := 0x1000 } ∧ xlatFree s 0 6 0x1000 = true) := by decide +kernel

/-- No translation is at hand: an access waits for a walk. -/
def unmapped (s : State) : State := path (fun m => { m with tlb := [] }) (mapped s)

/-- Chain 3 is about to complete, with a signal, and chain 0 of an acting engine is. -/
theorem met_ChainsRunTheirCommands_more :
    (let x := (chain 3 { overs with run := .ending, pend := 3 }).chain 0 3
     x.run = .ending ∧ x.record.testBit 9 = true ∧ x.record / 2 ^ 40 % 256 = 255) ∧
    ((chain 3 overs).chain 0 3).run ≠ .ending ∧ (chain 0 { overs with run := .ending }).engine.run = .ending := by decide +kernel

/-- A reply's stripe whose area must be translated first. -/
def awaits7 : Stripe := { tag := 5, tile := 0, va := 0x1000, len := 4 }

/-- A fetch of three stripes, the middle one of a second package; a reply that waits; a token for a copy that is leaving. -/
theorem met_FetchesAndPortTokens_more :
    (let s := fetching (entry 0x77 0x100 0x2800 12 3 0)
     reads s 0x2000 32 (entry 0x77 0x100 0x2800 12 3 0) = true ∧ srvOn s 3 = true ∧
       manifestEntry (wordsOf 4 (entry 0x77 0x100 0x2800 12 3 0)) = some (0x77, 0x100, 0x2800, 12, 3, 0) ∧
       (List.range (0x2800 / 2 ^ 12 + 1)).filter (fun k => decide ((0 + k * 2) * 2 ^ 12 < 0x2800)) = [0, 1]) ∧
    (let s := unmapped awaiting
     s.plinth.stripes.find? (fun y => y.tag % 2 ^ 64 == (5 : Word).toNat) = some awaits7 ∧ awaits s 0 5 = true ∧ areaFree s 0 7 0x1000 4 = false) ∧
    (let c := { sinkCopy 1 .running with leave := true }
     let s := pushing 1 (one .running c .reset)
     s.copy? ⟨0, 1, 0⟩ = some c ∧ (s.launch 0 1).used = true ∧ (s.launch 0 1).state = .running ∧ s.plinth.parked.length < 1048576) := by
  decide +kernel

/-- A result of chain 1 that waits in lane 0 for the shared port of a memory tile. -/
def backing (mt : Nat) (s : State) : State := s.modLane 0 0 fun l => { l with back := [(mt, 0x100, [1, 2])] }

theorem met_ExponentCommandsAndResults_more :
    (let s := backing 0 .reset
     (s.lane 0 0).back = [(0, 0x100, [1, 2])] ∧ (s.roleOf 0 0).isBuffer = true ∧ (s.port 0 0).serves s.cyc 2 = true) ∧
    (let s := busy (backing 0 .reset)
     (s.roleOf 0 0).isBuffer = true ∧ (s.port 0 0).serves s.cyc 2 = false) ∧
    (let s := backing 1 (chain 1 { c1 with run := .started })
     (s.lane 0 0).back = [(1, 0x100, [1, 2])] ∧ (s.roleOf 0 1).isBuffer = false ∧ (s.chain 0 1).run = .started ∧
       (s.tile 0).sys.posted.length < 32) := by decide +kernel

/-- Group 2 spans this package and the next. -/
def spanning (s : State) : State := s.modPlinth fun p => { p with cgrp := [(2, { cgrp := BitVec.ofNat 64 (2 ^ 63 + 2 * 2 ^ 32 + 2 ^ 8) })] }

/-- Its command can read its elements, and count its bytes. -/
def joinsAt (s : State) : Bool := (s.group 2).en && (s.group 2).pspan != 0 &&
  match addPend (begun s) 0 0 (collSize CollOp.s32add * collDstLen 0x20 1 (s.group 2).npart) with
  | some u => (match collSource u { tile := 0, type := 0x20, body := coll 0x2000 } 1 (s.group 2).npart with
      | .ok (_, b) => b.length == 4
      | .error _ => false)
  | none => false

theorem met_CollectivesJoinAndProceed_more :
    CmdRuns (spanning (go {})) head0 ∧ CmdRuns (arcade (spanning (go {}))) head0 ∧
    ((spanning (go {})).mgmt.arcUp = false ∧ (arcade (spanning (go {}))).mgmt.arcUp = true ∧ joinsAt (arcade (spanning (go {}))) = true) := by
  refine ⟨?_, ?_, by decide +kernel⟩ <;> unfold CmdRuns <;> decide +kernel

theorem met_KvSetsAndRows_more :
    (noTiles .reset).tileOk 0 = false ∧ State.reset.tileOk 0 = true := by decide +kernel

/-- The table, and the entry, of `shget` wait for a walk; so does the double word of `shset`. -/
theorem met_ShardTablesNameTheHomeOfAPosition_more :
    (∀ s ∈ [unmapped (ab 0xFFF8 5), unmapped (shard 255 0)], IssuesForm s f12) ∧
    (∀ s ∈ [unmapped (ab 0xFFF8 5), unmapped (shard 255 0)], bankerHeld s 0 = false ∧ s.strike = 0) ∧
    (areaFree (unmapped (ab 0xFFF8 5)) 0 0 0xFFF8 8 = false ∧ areaFree (unmapped (shard 255 0)) 0 0 0x1000 64 = false) ∧
    (match acquireRead (unmapped (shard 255 0)) 0 0x1000 64 with
      | .error (_, c) => c == 0
      | .ok _ => false) = true := ⟨forms_of (by decide +kernel), by decide +kernel⟩

/-- Of the stops of course ring 0, that of tile 2 is retired. -/
theorem met_TheMatchUnitExaminesTokens_more :
    passThrough { State.reset with hw := few } 0 2 = true ∧ passThrough { State.reset with hw := few } 0 0 = false ∧
    (let s := { stopped 0 (some (qslot 0 1)) (passing 0 1 (tok (head 1 1 1))) with hw := few }
     passThrough s 0 0 = false ∧ (s.net.stop 0 0 0).latch = some (qslot 0 1) ∧ (s.net.stop 0 0 0).spliced ≠ s.cyc + 1) := by decide +kernel

/-- The work tile's port serves another requester. -/
def busyWork (s : State) : State := usePort s 0 (s.wmt 0) 1 1

theorem met_MicrowordsComputeBranchAndWait_more :
    SeqIssues (busyWork (seqing aregs .reset)) ∧
    (∀ p ∈ [(busyWork (seqing aregs .reset), false), (seqing aregs .reset, true)],
      seqCfgOk p.1 0 = true ∧ p.1.strike = 0 ∧ (p.1.port 0 (p.1.wmt 0)).serves p.1.cyc 3 = p.2) := ⟨seq_of (by decide +kernel), by decide +kernel⟩

/-- A page of set 3 is pinned, and streams from 0x261000 when chain 0 is over and both ports serve. -/
def streaming (s : State) : State := chain 0 { run := .idle } (s.modSeq 0 fun q => { q with mid := .page 3 0x261000 [] })

theorem met_PagesAreFoundAndFolded_more :
    (∀ s ∈ [streaming (pageCase 0 0), busyWork (streaming (pageCase 0 0)), chain 0 { run := .started } (streaming (pageCase 0 0))],
      s.sequencer.mid = .page 3 0x261000 []) ∧
    (∀ p ∈ [(streaming (pageCase 0 0), true), (busyWork (streaming (pageCase 0 0)), false), (chain 0 { run := .started } (streaming (pageCase 0 0)), false)],
      ((p.1.chain 0 0).run == .idle && (p.1.port 0 (p.1.pmt 0)).serves p.1.cyc 1 && (p.1.port 0 (p.1.wmt 0)).serves p.1.cyc 3) = p.2) ∧
    (let s := streaming (pageCase (ent 1 1 1 0) sinkEnt)
     (match unpinPage (usePort s 0 (s.wmt 0) 3 1) 0 with
      | .ok w => (match physRead 0 ((s.tile 0).ring.rowBytes + 2) w 0x261000 (128 * (s.tile 0).ring.rowBytes) with
          | .ok (_, b) => b.length == 4096
          | .error _ => false)
      | .error _ => false) = true) := by decide +kernel

/-- `fold` waits for the translation of its block; the block that an entry of the table names waits for its own. -/
theorem met_TokensAreFoldedForwardedAndFinished_more :
    (let s := path (fun m => { m with tlb := [] }) (foldCase (ent 1 1 1 0) { aregs with mid := .fold 3 0x261000 0x2000 1 [63] 1 12 })
     s.sequencer.mid = .fold 3 0x261000 0x2000 1 [63] 1 12 ∧ areaFree s 0 5 0x2000 (0x40 + 4 * 1 + 4 * 1 * 1) = false) ∧
    (let k := { ktok with e := 255 }
     let s := path (fun m => { m with tlb := [] }) (rubble (outs k (head 0 1 1)))
     k.ret = false ∧ workNat s 0 (0x4800 + 8 * k.e) 8 ≠ 0 ∧ (match findBlock (onPorts s []) 0 k (head 0 1 1) with
       | .error (_, c) => c == 0
       | .ok _ => false) = true) := by decide +kernel

/-- `lbload` of two words that are at hand. -/
theorem met_HardwareLoopsRunTheirBodies_more :
    (let s := mapped (ab 0x100 2)
     IssuesForm s n12) ∧
    (let s := mapped (ab 0x100 2)
     bankerBusy s 0 = false ∧ areaFree s 0 0 0x100 (8 * 2) = true ∧
       (match copyWords 0 2 (s.modBk 0 fun k => { k with lbvalid := false }) 0x100 with
        | .ok (_, ws) => ws.length == 2
        | .error _ => false) = true) := ⟨form_of (by decide +kernel), by decide +kernel⟩

/-- An image's bytes lie at 0x1000; nothing is mapped, or all of it is, or the address is beyond all pages. -/
def imageAt (s : State) : State := bytesAt 0x1000 ((List.range 1152).map fun i => BitVec.ofNat 8 (i * 7)) (mapped s)

/-- A record in state 3 whose draw counter stands at `n`, with a block wanted at 0x40 of memory tile `mt` of tile 1. -/
def drawing (n mt : Nat) (rsv : Bool) : State :=
  recop (.rngblk ref5.toNat 5 rsv (mt * 2 ^ 16 + 0x40)) (record 5 [(0, rstate 3), (0x38, n * 2 ^ 32)] .reset)

theorem met_RequestOperations_more :
    (∀ s ∈ [imageAt (ab 0x1000 5), unmapped (ab 0x1000 5), ab 0x1000 5], IssuesForm s f12) ∧
    (∀ s ∈ [imageAt (ab 0x1000 5), unmapped (ab 0x1000 5), ab 0x1000 5], bankerHeld s 0 = false ∧ s.strike = 0 ∧
      outstanding (s.tile 0).mem .banker = [] ∧ s.banker.hasPending s.cyc = false ∧ s.banker.emul = none) ∧
    (areaFree (unmapped (ab 0x1000 5)) 0 0 0x1000 1024 = false ∧ areaFree (imageAt (ab 0x1000 5)) 0 0 0x1000 1024 = true ∧
      areaFree (ab 0x1000 5) 0 0 0x1000 1024 = true) ∧
    (match acquireLines 0 8 (ab 0x1000 5) 0x1000, acquireLines 0 8 (imageAt (ab 0x1000 5)) 0x1000 with
      | .error (_, c, _), .ok (_, b) => c != 0 && b.length == 1024
      | _, _ => false) = true ∧
    (let s := stalled (.record (.g 5)) (State.reset.modBk 0 fun b => { b with answer := some [0x77] })
     (s.tile 0).bk.stall = .record (.g 5) ∧ (s.tile 0).bk.answer = some [0x77]) ∧
    (∀ p ∈ [(drawing 77 0 true, true, true), (usePort (drawing 77 0 true) 1 0 0 3, true, false), (drawing 77 1 true, false, true),
        (drawing (2 ^ 32 - 16400) 0 true, true, true), (drawing 77 0 false, true, true)],
      (p.1.roleOf 1 ((p.1.plinth.recq.head?.map fun m => match m.op with
        | .rngblk _ _ _ d => d / 2 ^ 16 % 2 ^ 4
        | _ => 0).getD 0)).isBuffer = p.2.1 ∧ (p.1.port 1 0).serves p.1.cyc 4 = p.2.2 ∧ rqState p.1 5 = 3) ∧
    (rqFld (drawing (2 ^ 32 - 16401) 0 true) 5 0x38 32 32 ≤ 2 ^ 32 - 16401 ∧ 2 ^ 32 - 16401 < rqFld (drawing (2 ^ 32 - 16400) 0 true) 5 0x38 32 32) :=
  ⟨forms_of (by decide +kernel), by decide +kernel⟩

theorem met_VocabulariesAndTextEnginesAreManaged_more :
    IssuesForm (unmapped (ab 0x1000 0)) f12 ∧ IssuesForm (unsettled (ab 0x1000 0)) f12 ∧
    (areaFree (unmapped (ab 0x1000 0)) 0 0 0x1000 0x80 = false ∧ outstanding ((unmapped (ab 0x1000 0)).tile 0).mem .banker = [] ∧
      outstanding ((unsettled (ab 0x1000 0)).tile 0).mem .banker ≠ [] ∧ (srcB (unmapped (ab 0x1000 0)) f12).toNat = 0) :=
  ⟨form_of (by decide +kernel), form_of (by decide +kernel), by decide +kernel⟩

/-- A copy whose cut is written and that leaves for an eviction; one that a fault has stopped; one that no longer must leave. -/
def leavingCut (ph : CopyPhase) (ev : Bool) : State :=
  (snapping { cutting with writing := some cut7, leave := true, phase := ph }).modLaunch 0 1 fun l => { l with evicting := ev }

theorem met_CutsAreRecordedCompletedOrAbandoned_more :
    (∀ p ∈ [(CopyPhase.running, true, true), (.failing, true, true), (.running, false, false)],
      let s := leavingCut p.1 p.2.1
      let c : Copy := { cutting with writing := some cut7, leave := true, phase := p.1 }
      s.copy? c.ref = some c ∧ bankFault s c 7 = false ∧ c.leave = true ∧ mustLeave s c = p.2.2) := by decide +kernel

/-- A reservation is cleared; a held launch is cancelled while its sweep runs; a chain keeps its writes to other packages. -/
theorem met_TileRegisterWritesTakeEffect_more :
    (State.reset.reserved 0 0 = true ∧ chainIn State.reset 0 0 = false ∧ (0 : Word).toNat.testBit 0 = false) ∧
    (let s := (sweeping { started := true } {}).modCopy ⟨0, 1, 0⟩ fun c => { c with phase := .held true }
     anyHeld s 0 1 = true ∧ (sweepOf s 0 1).isSome = true) ∧
    (anyHeld heldCopy 0 1 = true ∧ sweepOf heldCopy 0 1 = none) ∧
    (let k := (chain 3 { remote := [(1, 2, true)], results := 4 }).chain 0 3
     k.en = false ∧ k.remote ≠ [] ∧ State.reset.reserved 0 0 = true ∧ ((chainReg 0 0x100 3).toNat / 2 ^ 16 % 2 ^ 16) % 32 = 0) := by decide +kernel

/-- Turns of the banker: a word that must be fetched through a walk, one in emulation and one past it, a pending trap in a stall, modes, a tile that
is not there; of an engine: a port that serves another, a chain on hold, a record begun. -/
theorem met_StepRunsTheDecodedInstruction_more :
    (∀ s ∈ [turn (.banker 0) (mapped (atWord.modBk 0 fun b => { b with pc := 0x12345678 })), turn (.banker 0) (emulates atWord),
        turn (.banker 0) ((traps (posted atWord)).modBk 0 fun b => { b with stall := .sbar 1 (.g 2) }), turn (.banker 0) (traps (posted atWord)),
        turn (.banker 0) (atWord.modBk 0 fun b => { b with mode := 1 }), turn (.banker 5000) .reset,
        turn (.engine 0 0) (usePort (chain 0 { c1 with done := 6 }) 0 0 0 9), turn (.engine 0 0) (chain 0 { c1 with hold := true }),
        turn (.engine 0 0) (chain 0 { c1 with run := .started, record := 0 })], (exactNow { s with agenda := [] }).isNone = true) ∧
    (let s := opened (turn (.banker 0) (mapped (atWord.modBk 0 fun b => { b with pc := 0x12345678 })))
     fetchWaits s 0 (s.tile 0).bk.pc = true ∧ (s.tile 0).bk.stall = .none ∧ (s.tile 0).bk.mode = 0 ∧ mayTakeTrap s 0 = false ∧
       (s.tile 0).bk.nextIssue ≤ s.cyc) ∧
    (let s := opened (turn (.banker 0) (emulates atWord))
     ((s.tile 0).bk.emul.map (·.ran)) = some true ∧ (s.tile 0).bk.hasPending s.cyc = false ∧ (s.tile 0).bk.mode = 0 ∧ (s.tile 0).bk.stall = .none) ∧
    (let s := opened (turn (.banker 0) ((traps (posted atWord)).modBk 0 fun b => { b with stall := .sbar 1 (.g 2) }))
     mayTakeTrap s 0 = true ∧ (s.tile 0).bk.stall ≠ .none) ∧
    (let s := opened (turn (.banker 0) (traps (posted atWord)))
     mayTakeTrap s 0 = true ∧ (s.tile 0).bk.stall = .none ∧ fetchWaits s 0 (s.tile 0).bk.pc = false) ∧
    ((opened (turn (.banker 0) (atWord.modBk 0 fun b => { b with mode := 1 }))).tile 0).bk.mode ≠ 0 ∧
    (opened (turn (.banker 5000) .reset)).tileOk 5000 = false ∧
    (let s := opened (turn (.engine 0 0) (usePort (chain 0 { c1 with done := 6 }) 0 0 0 9))
     (s.chain 0 0).run = .idle ∧ (s.port 0 0).serves s.cyc 1 = false) ∧
    (let s := opened (turn (.engine 0 0) (chain 0 { c1 with run := .started, record := 0 }))
     (s.chain 0 0).run ≠ .idle ∧ (decodeC (s.chain 0 0).record).isSome = true) := by decide +kernel

end Sys2Proof.Tests
end

section
/-!
SUPPORT. Bit fields: what a field, a forced field and a mask read as, bit by bit (spec/00_scope.md R1).
-/
namespace Sys2Proof.Machine

theorem fld_eq (w lo n : Nat) : fld w lo n = w / 2 ^ lo % 2 ^ n := by
  rw [fld, Nat.shiftRight_eq_div_pow]

theorem fld_low (w n : Nat) : fld w 0 n = w % 2 ^ n := by rw [fld_eq, Nat.pow_zero, Nat.div_one]

theorem testBit_fld (w lo n i : Nat) : (fld w lo n).testBit i = (decide (i < n) && w.testBit (lo + i)) := by
  rw [fld, Nat.testBit_mod_two_pow, Nat.testBit_shiftRight]

theorem bitOf_eq_testBit (w i : Nat) : bitOf w i = w.testBit i := by
  rw [bitOf, fld_eq, Nat.testBit_eq_decide_div_mod_eq, Nat.pow_one]
  rfl

theorem natOfBits_lt (n : Nat) (f : Nat → Bool) : natOfBits n f < 2 ^ n := by
  induction n with
  | zero => exact Nat.one_pos
  | succ n ih => rw [natOfBits, Nat.pow_succ]; cases f n <;> simp [b2n] <;> omega

theorem testBit_natOfBits {n i : Nat} (f : Nat → Bool) (h : i < n) : (natOfBits n f).testBit i = f i := by
  induction n with
  | zero => omega
  | succ n ih =>
    rw [natOfBits, Nat.add_comm, Nat.mul_comm]
    rcases Nat.lt_succ_iff_lt_or_eq.mp h with h | rfl
    · rw [Nat.testBit_two_pow_mul_add _ (natOfBits_lt n f), if_pos h, ih h]
    · rw [Nat.testBit_two_pow_mul_add _ (natOfBits_lt i f), if_neg (Nat.lt_irrefl i), Nat.sub_self]
      cases f i <;> rfl

/-- `setFld` keeps what lies below and above the field. -/
theorem setFld_eq (w lo n v : Nat) :
    setFld w lo n v = 2 ^ lo * (2 ^ n * (w / 2 ^ lo / 2 ^ n) + v % 2 ^ n) + w % 2 ^ lo := by
  have hw := Nat.div_add_mod w (2 ^ lo)
  have hq := Nat.div_add_mod (w / 2 ^ lo) (2 ^ n)
  rw [setFld, fld_eq]
  generalize hx : w / 2 ^ lo = x at *
  generalize x / 2 ^ n = y at *
  have hx' : 2 ^ lo * x = 2 ^ lo * (2 ^ n * y) + x % 2 ^ n * 2 ^ lo :=
    calc 2 ^ lo * x = 2 ^ lo * (2 ^ n * y + x % 2 ^ n) := by rw [hq]
      _ = 2 ^ lo * (2 ^ n * y) + x % 2 ^ n * 2 ^ lo := by rw [Nat.mul_add, Nat.mul_comm (2 ^ lo) (x % 2 ^ n)]
  rw [Nat.mul_add, Nat.mul_comm (2 ^ lo) (v % 2 ^ n)]
  omega

theorem testBit_setFld (w lo n v i : Nat) :
    (setFld w lo n v).testBit i = if lo ≤ i ∧ i < lo + n then v.testBit (i - lo) else w.testBit i := by
  rw [setFld_eq, Nat.testBit_two_pow_mul_add _ (Nat.mod_lt _ (Nat.two_pow_pos lo))]
  by_cases h1 : i < lo
  · rw [if_pos h1, if_neg (by omega), Nat.testBit_mod_two_pow]; simp [h1]
  · rw [if_neg h1, Nat.testBit_two_pow_mul_add _ (Nat.mod_lt _ (Nat.two_pow_pos n))]
    by_cases h2 : i < lo + n
    · rw [if_pos (by omega), if_pos (by omega), Nat.testBit_mod_two_pow]; simp; omega
    · rw [if_neg (by omega), if_neg (by omega), Nat.testBit_div_two_pow, Nat.testBit_div_two_pow]
      congr 1; omega

theorem setFld_lt {w lo n v k : Nat} (hw : w < 2 ^ k) (h : lo + n ≤ k) : setFld w lo n v < 2 ^ k := by
  apply Nat.lt_pow_two_of_testBit
  intro i hi
  rw [testBit_setFld, if_neg (by omega)]
  exact Nat.testBit_lt_two_pow (Nat.lt_of_lt_of_le hw (Nat.pow_le_pow_right (by decide) hi))

theorem toNat_withField (v : Word) {lo n : Nat} (x : Nat) (h : lo + n ≤ 64) :
    (withField v lo n x).toNat = setFld v.toNat lo n x := by
  rw [withField, BitVec.toNat_ofNat, Nat.mod_eq_of_lt (setFld_lt v.isLt h)]

/-- A field that lies below the one set is as before. -/
theorem fld_setFld_below (w v : Nat) {lo n lo' n' : Nat} (h : lo' + n' ≤ lo) :
    fld (setFld w lo n v) lo' n' = fld w lo' n' := by
  apply Nat.eq_of_testBit_eq
  intro i
  rw [testBit_fld, testBit_fld, testBit_setFld]
  by_cases hi : i < n'
  · rw [if_neg (by omega)]
  · simp [hi]

theorem fld_setFld_same (w v lo n : Nat) : fld (setFld w lo n v) lo n = v % 2 ^ n := by
  apply Nat.eq_of_testBit_eq
  intro i
  rw [testBit_fld, testBit_setFld, Nat.testBit_mod_two_pow]
  by_cases hi : i < n <;> simp [hi]

theorem withField_top_one (v : Word) : withField v 63 1 1 = v ||| oneBit 63 := by
  apply BitVec.eq_of_toNat_eq
  rw [toNat_withField v 1 (by decide), BitVec.toNat_or]
  apply Nat.eq_of_testBit_eq
  intro i
  rw [testBit_setFld, Nat.testBit_or, show (oneBit 63).toNat = 2 ^ 63 by decide, Nat.testBit_two_pow]
  by_cases hi : i = 63
  · subst hi; simp
  · rw [if_neg (by omega)]; simp [Ne.symm hi]

theorem withField_top_zero (v : Word) : withField v 63 1 0 = v &&& ~~~(oneBit 63) := by
  apply BitVec.eq_of_getLsbD_eq
  intro i hi
  rw [BitVec.getLsbD, toNat_withField v 0 (by decide), testBit_setFld, BitVec.getLsbD_and, BitVec.getLsbD_not,
    show (oneBit 63).getLsbD i = decide (63 = i) by
      rw [BitVec.getLsbD, show (oneBit 63).toNat = 2 ^ 63 by decide, Nat.testBit_two_pow]]
  by_cases h : i = 63
  · subst h; simp
  · rw [if_neg (by omega)]; simp [Ne.symm h, hi, BitVec.getLsbD]

/-- A mask keeps a field that it covers. -/
theorem fld_and_of_ones (v m : Word) {lo n : Nat} (h : fld m.toNat lo n = 2 ^ n - 1) :
    fld (v &&& m).toNat lo n = fld v.toNat lo n := by
  apply Nat.eq_of_testBit_eq
  intro i
  have hi := congrArg (Nat.testBit · i) h
  simp only [testBit_fld, Nat.testBit_two_pow_sub_one] at hi
  rw [testBit_fld, testBit_fld, BitVec.toNat_and, Nat.testBit_and]
  by_cases hn : i < n
  · simp only [hn, decide_true, Bool.true_and] at hi ⊢
    rw [hi, Bool.and_true]
  · simp [hn]

end Sys2Proof.Machine
end

section
/-!
SUPPORT. Host writes of TILE registers: the step of each write is the write of its register, and one lemma per register says what that
does (spec/18_system.md R417, and the rule of each register).
-/
namespace Sys2Proof.Machine

theorem hostTile_idle {s : State} {t : Nat} (h : s.tileOk t = false ∨ s.mgmt.state = 2) (off : Nat) (v : Word) :
    hostTile s t off v = .next s := by
  unfold hostTile hostSet
  rcases h with h | h
  · rw [h, if_neg Bool.false_ne_true]
  · rw [if_neg (by simp [hostReaches, h] : ¬ hostReaches s (.tile t off) = true), ite_self]

theorem hostTile_assigned {s : State} {t : Nat} (ht : s.tileOk t = true) (hs : s.mgmt.state ≠ 2) (off : Nat) (v : Word) :
    hostTile s t off v = .next (writeTile s t off v) := by
  unfold hostTile hostSet
  rw [if_pos ht, if_pos (by simpa [hostReaches] using hs : hostReaches s (.tile t off) = true)]
  rfl

/-- The steps that write a TILE register are host writes of it. -/
theorem exec_eq_hostTile (s : State) (t : Nat) (v : Word) :
    ∀ i ∈ [Instr.bkmtWrite t v, .rscfgWrite t v, .kvpoolEnable t v, .kvpoolDisable t v, .ascfgWrite t v, .asstartGo t v,
      .resumeCopies t v, .resumeCancel t v, .snapbaseWrite t v, .tracectlWrite t v, .trigctlWrite t v, .bctlRun t v] ++
      (List.finRange 4).flatMap fun c => [.chainEnable t c v, .chainDisable t c v, .mwinWrite t c v],
    ∃ off w, exec i s = hostTile s t off w := by
  intro i hi
  rcases List.mem_append.mp hi with hi | hi
  · simp only [List.mem_cons, List.not_mem_nil, or_false] at hi
    rcases hi with rfl | rfl | rfl | rfl | rfl | rfl | rfl | rfl | rfl | rfl | rfl | rfl <;> exact ⟨_, _, rfl⟩
  · obtain ⟨c, -, hc⟩ := List.mem_flatMap.mp hi
    simp only [List.mem_cons, List.not_mem_nil, or_false] at hc
    rcases hc with rfl | rfl | rfl <;> exact ⟨_, _, rfl⟩

theorem writeTile_chcfg (s : State) (t : Nat) (c : Fin 4) (v : Word) :
    writeTile s t (0x100 + 8 * c.val) v = writeChcfg s t c.val v :=
  match c with
  | 0 => rfl
  | 1 => rfl
  | 2 => rfl
  | 3 => rfl

theorem writeTile_mwin (s : State) (t : Nat) (c : Fin 4) (v : Word) :
    writeTile s t (0x020 + 8 * c.val) v = writeMwin s t c.val v :=
  match c with
  | 0 => rfl
  | 1 => rfl
  | 2 => rfl
  | 3 => rfl

theorem writeTile_asstart (s : State) (t : Nat) (v : Word) : writeTile s t 0x078 v = writeAsstart s t v := rfl

theorem writeTile_bctl (s : State) (t : Nat) (v : Word) : writeTile s t 0x0C8 v = writeBctl s t v := rfl

/-! ### BKMT (R209, R190) -/

theorem bitOf_natOfBits {n i : Nat} (f : Nat → Bool) (h : i < n) : bitOf (natOfBits n f) i = f i := by
  rw [bitOf_eq_testBit, testBit_natOfBits f h]

/-- Memory tiles of a tile zero-filled one after another, their tags invalid (R209, R220). -/
def zeroMts (t : Nat) (l : List Nat) (s : State) : State := l.foldl (fun s i => tagsReset (zeroMt s t i) t i) s

@[simp] theorem zeroMts_cons (t i : Nat) (l : List Nat) (s : State) :
    zeroMts t (i :: l) s = zeroMts t l (tagsReset (zeroMt s t i) t i) := rfl

/-- Memory tiles that were zero-filled read 0, and no other byte changed. -/
theorem readByte_zeroMts (t : Nat) (l : List Nat) (s : State) (y : Nat) :
    readByte (zeroMts t l s).mem y =
      if ∃ i ∈ l, mtAddr t i 0 ≤ y ∧ y < mtAddr t i 0 + 65536 then 0 else readByte s.mem y := by
  induction l generalizing s with
  | nil => simp [zeroMts]
  | cons i l ih =>
    rw [zeroMts_cons, ih]
    have hi : readByte (tagsReset (zeroMt s t i) t i).mem y =
        if mtAddr t i 0 ≤ y ∧ y < mtAddr t i 0 + 65536 then 0 else readByte s.mem y := readByte_clearCells ..
    rw [hi]
    by_cases h1 : mtAddr t i 0 ≤ y ∧ y < mtAddr t i 0 + 65536 <;> simp [h1]

theorem zeroMts_hw (t : Nat) (l : List Nat) (s : State) : (zeroMts t l s).hw = s.hw := by
  induction l generalizing s with
  | nil => rfl
  | cons i l ih => rw [zeroMts_cons, ih]; rfl

@[simp] theorem closeMts_mem (s : State) (t : Nat) (l : List Nat) : (closeMts s t l).mem = s.mem := by
  unfold closeMts; dsimp only; split <;> rfl

@[simp] theorem closeMts_hw (s : State) (t : Nat) (l : List Nat) : (closeMts s t l).hw = s.hw := by
  unfold closeMts; dsimp only; split <;> rfl

@[simp] theorem askPlacer_mem (s : State) (w : Nat) : (askPlacer s w).mem = s.mem := by
  unfold askPlacer; split <;> rfl

@[simp] theorem tile_askPlacer (s : State) (w t : Nat) : (askPlacer s w).tile t = s.tile t := by
  unfold askPlacer; split <;> rfl

theorem mem_insertSched (e : Nat × Instr) (l : List (Nat × Instr)) : e ∈ insertSched e l := by
  induction l with
  | nil => simp [insertSched]
  | cons x l ih =>
    rw [insertSched]
    split
    · simp
    · simp [ih]

/-- Once asked, the placer is to run. -/
theorem askPlacer_sched (s : State) (w : Nat) : ∃ n, (n, .placerPass w) ∈ (askPlacer s w).sched := by
  unfold askPlacer
  split
  · next h =>
    obtain ⟨⟨n, i⟩, hp, hi⟩ := List.any_eq_true.mp h
    exact ⟨n, by rwa [← (beq_iff_eq.mp hi : i = .placerPass w)]⟩
  · exact ⟨_, mem_insertSched ..⟩

theorem reserved_writeBkmt (s : State) (t : Nat) (v : Word) {i : Nat} (h : i < 16) :
    (writeBkmt s t v).reserved t i = bkmtBit s t i (bitOf v.toNat i) := by
  have hb : ((writeBkmt s t v).tile t).mem.bkmt = natOfBits 16 fun i => bkmtBit s t i (bitOf v.toNat i) := by
    unfold writeBkmt; dsimp only; split <;> simp
  rw [State.reserved, hb, bitOf_natOfBits _ h]

/-- The memory tiles that a BKMT write makes the banker's. -/
def freshMts (s : State) (t : Nat) (v : Word) : List Nat :=
  (List.range 16).filter fun i => bkmtBit s t i (bitOf v.toNat i) && !s.reserved t i

theorem mem_freshMts {s : State} {t : Nat} {v : Word} {i : Nat} :
    i ∈ freshMts s t v ↔ i < 16 ∧ bkmtBit s t i (bitOf v.toNat i) = true ∧ s.reserved t i = false := by
  simp [freshMts, List.mem_filter]

theorem writeBkmt_mem (s : State) (t : Nat) (v : Word) :
    (writeBkmt s t v).mem = (zeroMts t (freshMts s t v) s).mem := by
  have hf : freshMts s t v = (List.range 16).filter fun i =>
      bitOf (natOfBits 16 fun i => bkmtBit s t i (bitOf v.toNat i)) i && !s.reserved t i :=
    List.filter_congr fun i hi => by rw [bitOf_natOfBits _ (List.mem_range.mp hi)]
  rw [hf]
  unfold writeBkmt zeroMts; dsimp only; split <;> simp

theorem readByte_writeBkmt_in {s : State} {t : Nat} {v : Word} {i off : Nat} (h : i ∈ freshMts s t v) (ho : off < 65536) :
    readByte (writeBkmt s t v).mem (mtAddr t i off) = 0 := by
  rw [writeBkmt_mem, readByte_zeroMts, if_pos ⟨i, h, Nat.le_add_right .., Nat.add_lt_add_left ho _⟩]

theorem readByte_writeBkmt_out {s : State} {t : Nat} {v : Word} {y : Nat}
    (h : ∀ i ∈ freshMts s t v, y < mtAddr t i 0 ∨ mtAddr t i 0 + 65536 ≤ y) :
    readByte (writeBkmt s t v).mem y = readByte s.mem y := by
  rw [writeBkmt_mem, readByte_zeroMts, if_neg]
  rintro ⟨i, hi, hy⟩
  have := h i hi
  omega

theorem writeBkmt_asks_placer (s : State) (t : Nat) (v : Word)
    (h : ∃ i < 16, s.reserved t i = true ∧ bkmtBit s t i (bitOf v.toNat i) = false) :
    ∃ n, (n, .placerPass (s.wallOf t)) ∈ (writeBkmt s t v).sched := by
  obtain ⟨i, hi, hold, hnew⟩ := h
  have hwall (l r : List Nat) (m : TileMem → TileMem) :
      ((closeMts (zeroMts t l s) t r).modMem t m).wallOf t = s.wallOf t := by simp [State.wallOf, zeroMts_hw]
  unfold writeBkmt
  dsimp only
  rw [if_neg, ← zeroMts, hwall]
  · exact askPlacer_sched ..
  · refine List.ne_nil_of_mem (a := i) ?_
    simp [List.mem_filter, hi, hold, hnew, bitOf_natOfBits]

/-! ### Chains (R278), windows (R222) and rings (R303, R305) -/

theorem bitOf_withField_same (v : Word) {i : Nat} (x : Nat) (h : i + 1 ≤ 64) :
    bitOf (withField v i 1 x).toNat i = x.testBit 0 := by
  rw [bitOf_eq_testBit, toNat_withField v x h, testBit_setFld, if_pos (by omega), Nat.sub_self]

theorem fld_withField_below (v : Word) (x : Nat) {lo n lo' n' : Nat} (h : lo + n ≤ 64) (h' : lo' + n' ≤ lo) :
    fld (withField v lo n x).toNat lo' n' = fld v.toNat lo' n' := by
  rw [toNat_withField v x h, fld_setFld_below _ _ h']

theorem fld_withField_same (v : Word) (x : Nat) {lo n : Nat} (h : lo + n ≤ 64) :
    fld (withField v lo n x).toNat lo n = x % 2 ^ n := by
  rw [toNat_withField v x h, fld_setFld_same]

/-- The fields of a CHCFG value fit: a memory tile of the banker's, a size of 1 to 11, and a queue that is aligned and lies inside (R278). -/
def ChainFits (s : State) (t : Nat) (v : Word) : Prop :=
  s.reserved t (fld v.toNat 32 4) = true ∧ 1 ≤ fld v.toNat 0 4 ∧ fld v.toNat 0 4 ≤ 11 ∧ fld v.toNat 16 16 % 32 = 0 ∧
    fld v.toNat 16 16 + 32 * 2 ^ fld v.toNat 0 4 ≤ 65536

theorem writeChcfg_enable_same {s : State} {t c : Nat} {v : Word} (h : (s.chain t c).en = true ∨ ¬ ChainFits s t v) :
    writeChcfg s t c (withField v 63 1 1) = s := by
  have hen : bitOf (withField v 63 1 1).toNat 63 = true := bitOf_withField_same v 1 (by decide)
  unfold writeChcfg
  simp only [hen, fld_withField_below, Nat.reduceAdd, Nat.reduceLeDiff, Bool.true_or, ↓reduceIte]
  split
  · rfl
  · next hc =>
    rw [if_neg]
    simpa only [ChainFits, Bool.and_eq_true, decide_eq_true_eq, beq_iff_eq, and_assoc] using h.resolve_left hc

theorem writeChcfg_enable {s : State} {t c : Nat} {v : Word} (hc : (s.chain t c).en = false) (h : ChainFits s t v) :
    writeChcfg s t c (withField v 63 1 1) = s.modChain t c fun x =>
      { en := true, mt := fld v.toNat 32 4, base := fld v.toNat 16 16, sz := fld v.toNat 0 4, remote := x.remote,
        results := x.results } := by
  have hen : bitOf (withField v 63 1 1).toNat 63 = true := bitOf_withField_same v 1 (by decide)
  unfold writeChcfg
  simp only [hen, fld_withField_below, Nat.reduceAdd, Nat.reduceLeDiff, ↓reduceIte]
  rw [if_neg (by exact ne_true_of_eq_false hc), if_pos]
  simpa only [ChainFits, Bool.and_eq_true, decide_eq_true_eq, beq_iff_eq, and_assoc] using h

theorem writeChcfg_disable (s : State) (t c : Nat) (v : Word) :
    writeChcfg s t c (withField v 63 1 0) =
      if (s.chain t c).en then (if (s.chain t c).issued ≠ (s.chain t c).done then s else s.modChain t c fun x => { x with en := false })
      else s.modChain t c fun x => { x with mt := fld v.toNat 32 4, base := fld v.toNat 16 16, sz := fld v.toNat 0 4 } := by
  have hen : bitOf (withField v 63 1 0).toNat 63 = false := bitOf_withField_same v 0 (by decide)
  unfold writeChcfg
  simp only [hen, fld_withField_below, Nat.reduceAdd, Nat.reduceLeDiff, Bool.false_or, bne_iff_ne, Bool.false_eq_true, ↓reduceIte]
  rfl

theorem withField_and_kvpoolMask_one (v : Word) : withField v 63 1 1 &&& kvpoolMask = v &&& kvpoolMask ||| oneBit 63 := by
  rw [withField_top_one, BitVec.and_or_distrib_right]
  rfl

theorem withField_and_kvpoolMask_zero (v : Word) :
    withField v 63 1 0 &&& kvpoolMask = v &&& kvpoolMask &&& ~~~(oneBit 63) := by
  rw [withField_top_zero]; ac_rfl

/-- The fields of a KVPOOL value fit the pool of a ring stop (R305). -/
def PoolFits (x : RingStop) (v : Word) : Prop :=
  16 ≤ fld v.toNat 8 5 ∧ fld v.toNat 8 5 ≤ 30 ∧ fld v.toNat 16 32 * 2 ^ 16 % 2 ^ fld v.toNat 8 5 = 0 ∧ 1 ≤ x.nset

theorem bitOf_and_kvpoolMask (v : Word) : bitOf (v &&& kvpoolMask).toNat 63 = bitOf v.toNat 63 := by
  rw [bitOf, bitOf, fld_and_of_ones v _ (by decide)]

theorem kvpool_refused_iff {x : RingStop} {v : Word} :
    (!(decide (16 ≤ fld (withField v 63 1 1 &&& kvpoolMask).toNat 8 5) &&
        decide (fld (withField v 63 1 1 &&& kvpoolMask).toNat 8 5 ≤ 30) &&
        fld (withField v 63 1 1 &&& kvpoolMask).toNat 16 32 * 2 ^ 16 %
          2 ^ fld (withField v 63 1 1 &&& kvpoolMask).toNat 8 5 == 0 && decide (1 ≤ x.nset))) = true ↔ ¬ PoolFits x v := by
  rw [fld_and_of_ones _ kvpoolMask (lo := 8) (n := 5) (by decide), fld_and_of_ones _ kvpoolMask (lo := 16) (n := 32) (by decide),
    fld_withField_below v 1 (by decide) (by decide), fld_withField_below v 1 (by decide) (by decide)]
  simp only [PoolFits, Bool.not_eq_true', ← Bool.not_eq_true, Bool.and_eq_true, decide_eq_true_eq, beq_iff_eq, and_assoc]

theorem writeKvpool_enable_same {s : State} {t : Nat} {v : Word}
    (h : (s.tile t).ring.poolOn = true ∨ ¬ PoolFits (s.tile t).ring v) : writeKvpool s t (withField v 63 1 1) = s := by
  have hen : bitOf (withField v 63 1 1 &&& kvpoolMask).toNat 63 = true := by
    rw [bitOf_and_kvpoolMask, bitOf_withField_same v 1 (by decide)]; rfl
  unfold writeKvpool
  simp only [hen, ↓reduceIte, Bool.true_and]
  split
  · rfl
  · next hp => rw [if_pos (kvpool_refused_iff.mpr (h.resolve_left hp))]

theorem writeKvpool_enable {s : State} {t : Nat} {v : Word} (hp : (s.tile t).ring.poolOn = false)
    (h : PoolFits (s.tile t).ring v) :
    writeKvpool s t (withField v 63 1 1) = s.modRing t fun r => { r with kvpool := v &&& kvpoolMask ||| oneBit 63 } := by
  have hen : bitOf (withField v 63 1 1 &&& kvpoolMask).toNat 63 = true := by
    rw [bitOf_and_kvpoolMask, bitOf_withField_same v 1 (by decide)]; rfl
  unfold writeKvpool
  simp only [hen, hp, Bool.true_and, Bool.false_eq_true, ↓reduceIte]
  rw [if_neg (by rw [kvpool_refused_iff]; exact not_not_intro h), withField_and_kvpoolMask_one]

theorem writeKvpool_disable (s : State) (t : Nat) (v : Word) :
    writeKvpool s t (withField v 63 1 0) =
      if (s.tile t).ring.poolOn then s.modRing t fun r => { r with kvpool := r.kvpool &&& ~~~(oneBit 63) }
      else s.modRing t fun r => { r with kvpool := v &&& kvpoolMask &&& ~~~(oneBit 63) } := by
  have hen : bitOf (v &&& kvpoolMask &&& ~~~(oneBit 63)).toNat 63 = false := by
    rw [← withField_and_kvpoolMask_zero, bitOf_and_kvpoolMask, bitOf_withField_same v 0 (by decide)]; rfl
  unfold writeKvpool
  simp only [withField_and_kvpoolMask_zero, hen, Bool.false_and, Bool.false_eq_true, ↓reduceIte]

theorem writeRscfg_eq (s : State) (t : Nat) (v : Word) :
    writeRscfg s t v = s.modRing t fun r =>
      { r with rscfg := if v.toNat.testBit 63 && s.reserved t (v.toNat % 2 ^ 4) then (v &&& 0xF) ||| oneBit 63 else v &&& 0xF } := by
  have hq : (v &&& bitRange 3 0).toNat = v.toNat % 2 ^ 4 := by
    rw [BitVec.toNat_and, show (bitRange 3 0).toNat = 2 ^ 4 - 1 by decide, Nat.and_two_pow_sub_one_eq_mod]
  unfold writeRscfg
  simp only [hq, bitOf_eq_testBit]
  rfl

/-! ### The sequencer (R320), launches (R405) and the trace (R412) -/

theorem writeAsstart_go (s : State) (t : Nat) (v : Word) :
    writeAsstart s t (withField v 63 1 1) = seqGo (s.modSeq t fun q => { q with entry := fld v.toNat 0 10 }) t (fld v.toNat 0 10) := by
  have hen : bitOf (withField v 63 1 1).toNat 63 = true := bitOf_withField_same v 1 (by decide)
  unfold writeAsstart
  simp only [hen, fld_withField_below, Nat.reduceAdd, Nat.reduceLeDiff, ↓reduceIte]

theorem writeResume_eq (s : State) (t : Nat) (v : Word) {x : Nat} (h : x < 2) :
    writeResume s t (withField v 16 2 x).toNat =
      if anyHeld s t (fld v.toNat 0 16) then
        (if x = 0 then resumeAll s t (fld v.toNat 0 16) else lcancelNow s t (fld v.toNat 0 16)) else s := by
  unfold writeResume
  simp only [fld_withField_below, fld_withField_same, Nat.reduceAdd, Nat.reduceLeDiff, Nat.mod_eq_of_lt (by omega : x < 2 ^ 2)]
  cases anyHeld s t (fld v.toNat 0 16) with
  | false => rfl
  | true =>
    match x, h with
    | 0, _ => rfl
    | 1, _ => rfl

theorem resumeAll_eq (s : State) (t lid : Nat) :
    resumeAll s t lid = { s with copies := s.copies.map fun (c : Copy) =>
      if c.ref.issuer = t ∧ c.ref.lid = lid ∧ ((c.phase = .held true ∨ c.phase = .broken) ∧ c.logBad = false)
      then { c with phase := .running, resumeAt := s.cyc + 1 } else c } := by
  unfold resumeAll
  simp only [Copy.resumable, Bool.and_eq_true, Bool.or_eq_true, beq_iff_eq, Bool.not_eq_true']

/-- A change of one tile keeps all the rest. -/
theorem OutsideKept.modTile (s : State) (t : Nat) (f : Tile → Tile) : OutsideKept s (s.modTile t f) t where
  mem _ := rfl
  tiles _ h := State.tile_modTile_ne s f h
  walls _ := rfl
  plinth := rfl
  mgmt := rfl
  hw := rfl
  copies := rfl
  due := rfl
  sched := rfl
  out := rfl
  cyc := rfl
  signals := rfl
  xbar := rfl
  net := rfl

theorem OutsideKept.trans {s u w : State} {t : Nat} (h : OutsideKept s u t) (k : OutsideKept u w t) : OutsideKept s w t where
  mem x := (k.mem x).trans (h.mem x)
  tiles x hx := (k.tiles x hx).trans (h.tiles x hx)
  walls x := (k.walls x).trans (h.walls x)
  plinth := k.plinth.trans h.plinth
  mgmt := k.mgmt.trans h.mgmt
  hw := k.hw.trans h.hw
  copies := k.copies.trans h.copies
  due := k.due.trans h.due
  sched := k.sched.trans h.sched
  out := k.out.trans h.out
  cyc := k.cyc.trans h.cyc
  signals := k.signals.trans h.signals
  xbar := k.xbar.trans h.xbar
  net := k.net.trans h.net

theorem writeBctl_run (s : State) (t : Nat) (v : Word) :
    writeBctl s t (withField v 63 1 1) =
      (s.modMem t fun m => { m with sbpend := m.sbpend - stallPend (s.tile t).bk.stall }).modBk t fun b =>
        { b with mode := 0, pc := v &&& 0x00FFFFFFFFFFFFFF, bctlPc := v &&& 0x00FFFFFFFFFFFFFF, stall := .none, emul := none,
                 answer := none, nextIssue := s.cyc + 1 } := by
  have hen : bitOf (withField v 63 1 1).toNat 63 = true := bitOf_withField_same v 1 (by decide)
  have hpc : withField v 63 1 1 &&& bitRange 55 0 = v &&& 0x00FFFFFFFFFFFFFF := by
    rw [withField_top_one, BitVec.and_or_distrib_right, show oneBit 63 &&& bitRange 55 0 = 0#64 by decide, BitVec.or_zero]
    rfl
  unfold writeBctl
  simp only [hen, hpc, ↓reduceIte]

/-! ### The steps that write a TILE register of an assigned tile -/

section
variable {s : State} {t : Nat} (ht : s.tileOk t = true) (hs : s.mgmt.state ≠ 2) (v : Word)
include ht hs

theorem exec_bkmtWrite : exec (.bkmtWrite t v) s = .next (writeBkmt s t v) := hostTile_assigned ht hs _ _

theorem exec_chainEnable (c : Fin 4) : exec (.chainEnable t c v) s = .next (writeChcfg s t c.val (withField v 63 1 1)) :=
  (hostTile_assigned ht hs _ _).trans (congrArg _ (writeTile_chcfg ..))

theorem exec_chainDisable (c : Fin 4) : exec (.chainDisable t c v) s = .next (writeChcfg s t c.val (withField v 63 1 0)) :=
  (hostTile_assigned ht hs _ _).trans (congrArg _ (writeTile_chcfg ..))

theorem exec_mwinWrite (c : Fin 4) : exec (.mwinWrite t c v) s = .next (writeMwin s t c.val v) :=
  (hostTile_assigned ht hs _ _).trans (congrArg _ (writeTile_mwin ..))

theorem exec_rscfgWrite : exec (.rscfgWrite t v) s = .next (writeRscfg s t v) := hostTile_assigned ht hs _ _

theorem exec_kvpoolEnable : exec (.kvpoolEnable t v) s = .next (writeKvpool s t (withField v 63 1 1)) :=
  hostTile_assigned ht hs _ _

theorem exec_kvpoolDisable : exec (.kvpoolDisable t v) s = .next (writeKvpool s t (withField v 63 1 0)) :=
  hostTile_assigned ht hs _ _

theorem exec_ascfgWrite : exec (.ascfgWrite t v) s = .next (writeAscfg s t v) := hostTile_assigned ht hs _ _

theorem exec_asstartGo : exec (.asstartGo t v) s =
    .next (seqGo (s.modSeq t fun q => { q with entry := fld v.toNat 0 10 }) t (fld v.toNat 0 10)) :=
  (hostTile_assigned ht hs _ _).trans (congrArg _ ((writeTile_asstart ..).trans (writeAsstart_go ..)))

theorem exec_resumeCopies : exec (.resumeCopies t v) s =
    .next (if anyHeld s t (fld v.toNat 0 16) then resumeAll s t (fld v.toNat 0 16) else s) :=
  (hostTile_assigned ht hs _ _).trans (congrArg _ (writeResume_eq s t v Nat.two_pos))

theorem exec_resumeCancel : exec (.resumeCancel t v) s =
    .next (if anyHeld s t (fld v.toNat 0 16) then lcancelNow s t (fld v.toNat 0 16) else s) :=
  (hostTile_assigned ht hs _ _).trans (congrArg _ (writeResume_eq s t v Nat.one_lt_two))

theorem exec_snapbaseWrite : exec (.snapbaseWrite t v) s = .next (writeSnapbase s t v) := hostTile_assigned ht hs _ _

theorem exec_tracectlWrite : exec (.tracectlWrite t v) s = .next (writeTracectl s t v) := hostTile_assigned ht hs _ _

theorem exec_trigctlWrite : exec (.trigctlWrite t v) s = .next (writeTrigctl s t v) := hostTile_assigned ht hs _ _

theorem exec_bctlRun : exec (.bctlRun t v) s = .next (writeBctl s t (withField v 63 1 1)) :=
  (hostTile_assigned ht hs _ _).trans (congrArg _ (writeTile_bctl ..))

end

/-- The BKMT bit of a memory tile as the written bit asks. -/
theorem bkmtBit_testBit (s : State) (t i n : Nat) :
    bkmtBit s t i (bitOf n i) =
      if n.testBit i then s.reserved t i || !claimedMt s t i else s.reserved t i && chainIn s t i := by
  rw [bitOf_eq_testBit]; rfl

theorem writeMwin_eq (s : State) (t i : Nat) (v : Word) : writeMwin s t i v =
    if mwinBad s t i (v &&& mwinMask) then s else s.modMem t fun m => { m with mwin := Tab.set m.mwin i (v &&& mwinMask) } := rfl

theorem lcancelNow_of_none {s : State} {t lid : Nat} (h : sweepOf s t lid = none) : lcancelNow s t lid = cancelLaunch s t lid := by
  rw [lcancelNow, h]

theorem lcancelNow_of_some {s : State} {t lid old : Nat} (h : sweepOf s t lid = some old) :
    lcancelNow s t lid = deferTo s t old (.cancel lid) := by
  rw [lcancelNow, h]

theorem seqGo_idle {s : State} {t e : Nat} (h : (s.tile t).seq.st = 0) :
    seqGo s t e = schedule (s.modSeq t fun q => { q with entry := e, starting := true }) (s.cyc + 2) (.sequencerStart t) := by
  rw [seqGo, if_neg (not_not_intro h)]

theorem seqGo_busy {s : State} {t e : Nat} (h : (s.tile t).seq.st ≠ 0) : seqGo s t e = s := by
  rw [seqGo, if_pos h]

theorem outsideKept_writeTracectl (s : State) (t : Nat) (v : Word) : OutsideKept s (writeTracectl s t v) t := by
  unfold writeTracectl State.modSys
  exact .modTile ..

/-- The trace registers of a tile after a write of TRACECTL. -/
theorem sys_writeTracectl (s : State) (t : Nat) (v : Word) :
    ((writeTracectl s t v).tile t).sys =
      if v.toNat.testBit 63 && !(s.tile t).sys.tracectl.toNat.testBit 63 then
        { (s.tile t).sys with tracectl := v &&& tracectlMask, frozen := false, wptr := 0, wrap := false, lost := 0, post := 0 }
      else { (s.tile t).sys with tracectl := v &&& tracectlMask } := by
  rw [writeTracectl, State.tile_modSys_self]
  simp only [bitOf_eq_testBit]

end Sys2Proof.Machine
end

section
open Sys2Proof Sys2Proof.Machine

/-- Settles O51: each step is the host write of its register, whose own lemma above says what it does. -/
theorem tileRegisterWritesTakeEffect : Obligations.TileRegisterWritesTakeEffect := by
  unfold Obligations.TileRegisterWritesTakeEffect
  intro s t v
  dsimp only
  refine ⟨fun h i hi => ?_, fun ht hs => ⟨?bkmt, ?placer, ?windows, ?rscfg, ?kvpool, ?ascfg, ?ascfgBusy, ?asstart, ?notHeld,
    ?held, ?snapbase, ?snapbaseFree, ?trace, ?trig, ?bctl⟩⟩
  · obtain ⟨off, w, hiw⟩ := exec_eq_hostTile s t v i hi
    rw [hiw, hostTile_idle h]
  case bkmt =>
    simp only [← bkmtBit_testBit]
    exact ⟨_, exec_bkmtWrite ht hs v, fun i hi => reserved_writeBkmt s t v hi,
      fun i hi hn ho off => readByte_writeBkmt_in (mem_freshMts.mpr ⟨hi, hn, ho⟩),
      fun y hy => readByte_writeBkmt_out fun i hi => let ⟨h, hn, ho⟩ := mem_freshMts.mp hi; hy i h hn ho⟩
  case placer =>
    simp only [← bkmtBit_testBit]
    intro h
    obtain ⟨n, hn⟩ := writeBkmt_asks_placer s t v h
    exact ⟨_, n, exec_bkmtWrite ht hs v, hn⟩
  case windows =>
    simp only [← fld_eq]
    simp only [← fld_low]
    intro c
    refine ⟨fun h => ?_, fun h hf => ?_, fun h hd => ?_, fun h hd => ?_, fun h => ?_, fun h => ?_, fun h => ?_⟩
    · rw [exec_chainEnable ht hs, writeChcfg_enable_same h]
    · rw [exec_chainEnable ht hs, writeChcfg_enable h hf]; rfl
    · rw [exec_chainDisable ht hs, writeChcfg_disable, if_pos h, if_pos hd]
    · rw [exec_chainDisable ht hs, writeChcfg_disable, if_pos h, if_neg (not_not_intro hd)]
    · rw [exec_chainDisable ht hs, writeChcfg_disable, if_neg (ne_true_of_eq_false h)]
    · rw [exec_mwinWrite ht hs, writeMwin_eq, if_pos h]
    · rw [exec_mwinWrite ht hs, writeMwin_eq, if_neg (ne_true_of_eq_false h)]
  case rscfg => rw [exec_rscfgWrite ht hs, writeRscfg_eq]
  case kvpool =>
    simp only [← fld_eq]
    refine ⟨fun h => ?_, fun h hf => ?_, fun h => ?_, fun h => ?_⟩
    · rw [exec_kvpoolEnable ht hs, writeKvpool_enable_same h]
    · rw [exec_kvpoolEnable ht hs, writeKvpool_enable h hf]
    · rw [exec_kvpoolDisable ht hs, writeKvpool_disable, if_pos h]
    · rw [exec_kvpoolDisable ht hs, writeKvpool_disable, if_neg (ne_true_of_eq_false h)]
  case ascfg => intro h; rw [exec_ascfgWrite ht hs, writeAscfg, if_pos h]
  case ascfgBusy => intro h; rw [exec_ascfgWrite ht hs, writeAscfg, if_neg h]
  case asstart =>
    rw [exec_asstartGo ht hs, ← fld_low]
    exact ⟨fun h => by rw [seqGo_busy (by simpa using h)], fun h => by rw [seqGo_idle (by simpa using h)]; rfl⟩
  case notHeld =>
    rw [exec_resumeCopies ht hs, exec_resumeCancel ht hs, ← fld_low]
    intro h
    rw [h]
    exact ⟨rfl, rfl⟩
  case held =>
    rw [exec_resumeCopies ht hs, exec_resumeCancel ht hs, ← fld_low]
    intro h
    rw [if_pos h, if_pos h, resumeAll_eq]
    exact ⟨fun hn => by rw [lcancelNow_of_none hn], fun old ho => by rw [lcancelNow_of_some ho], rfl⟩
  case snapbase => intro h; rw [exec_snapbaseWrite ht hs, writeSnapbase, if_pos h]
  case snapbaseFree => intro h; rw [exec_snapbaseWrite ht hs, writeSnapbase, if_neg (ne_true_of_eq_false h)]
  case trace =>
    refine ⟨_, exec_tracectlWrite ht hs v, outsideKept_writeTracectl s t v, ?_, fun hn ho => ?_, fun h => ?_⟩ <;> rw [sys_writeTracectl]
    · split <;> rfl
    · simp [hn, ho]
    · rw [if_neg]
      rcases h with h | h <;> simp [h]
  case trig => exact exec_trigctlWrite ht hs v
  case bctl =>
    refine ⟨_, exec_bctlRun ht hs v, ?_, fun d far k slot hr => ?_, ?_⟩ <;> rw [writeBctl_run]
    · exact .trans (.modTile ..) (.modTile ..)
    · rw [hr]; simp [stallPend]
    · simp
end

section
/-!
SUPPORT. Host accesses of the registers of walls and of the plinth, each with one lemma that says what it does (spec/18_system.md R417,
and the rule of each register).
-/
namespace Sys2Proof.Machine

theorem hostSet_reaches {s : State} (hs : s.mgmt.state ≠ 2) (r : SysReg) (v : Word) : hostSet s r v = writeReg s r v := by
  rw [hostSet, if_pos]
  cases r <;> simp [hostReaches, hs]

theorem hostWrite_of_none {s : State} {off : Nat} (h : sysRegAt s off = none) (v : Word) : hostWrite s off v = s := by
  rw [hostWrite, h]

theorem hostWrite_of_some {s : State} {off : Nat} {r : SysReg} (hs : s.mgmt.state ≠ 2) (h : sysRegAt s off = some r) (v : Word) :
    hostWrite s off v = writeReg s r v := by
  rw [hostWrite, h]; exact hostSet_reaches hs r v

theorem hostRead_of_none {s : State} {off : Nat} (h : sysRegAt s off = none) : hostRead s off = (s, 0) := by
  rw [hostRead, h]

theorem hostRead_of_some {s : State} {off : Nat} {r : SysReg} (hs : s.mgmt.state ≠ 2) (h : sysRegAt s off = some r) :
    hostRead s off = readReg s r := by
  rw [hostRead, h]
  exact if_pos (by cases r <;> simp [hostReaches, hs])

theorem sysRegAt_plinth (s : State) {off : Nat} (h : off < 0x20000) (ho : plinthOffOk off = true) :
    sysRegAt s (0x500000 + off) = some (.plinth off) := by
  rw [sysRegAt, if_neg (by omega), if_neg (by omega), if_neg (by omega), if_pos (by omega), Nat.add_sub_cancel_left, if_pos ho]

theorem liveBelow_le (h : Hw) (n : Nat) : liveBelow h n ≤ n := by
  induction n with
  | zero => exact Nat.le_refl 0
  | succ n ih => rw [liveBelow]; cases retired h n <;> simp [b2n] <;> omega

theorem tileCount_le (h : Hw) : tileCount h ≤ 1024 := by
  unfold tileCount
  split
  · exact Nat.le_refl _
  · exact liveBelow_le h 1024

theorem tileOk_lt {s : State} {t : Nat} (h : s.tileOk t = true) : t < 1024 :=
  Nat.lt_of_lt_of_le (of_decide_eq_true h) (tileCount_le _)

theorem sysRegAt_tile {s : State} {t off : Nat} (ht : s.tileOk t = true) (h : off < 0x1000) (ho : tileOffOk off = true) :
    sysRegAt s (BitVec.ofNat 32 (t * 0x1000 + off)).toNat = some (.tile t off) := by
  have := tileOk_lt ht
  rw [BitVec.toNat_ofNat, Nat.mod_eq_of_lt (by omega), sysRegAt, if_pos (by omega), show (t * 0x1000 + off) / 0x1000 = t by omega,
    show (t * 0x1000 + off) % 0x1000 = off by omega, ht, ho]
  rfl

theorem execClearOnRead_eq {s u : State} {off : BitVec 32} {x : Nat} (h : hostRead s off.toNat = (u, x)) :
    exec (.clearOnRead off) s = .next (u.send (.hostReg (BitVec.ofNat 64 x))) := by
  show execClearOnRead off s = _
  rw [execClearOnRead, h]

theorem exec_evqRead (s : State) : exec .evqRead s = .next ((popEvent s).1.send (.hostReg (BitVec.ofNat 64 (popEvent s).2))) := rfl

theorem popEvent_nil {s : State} (h : s.mgmt.evq = []) : popEvent s = (s, 0) := by
  rw [popEvent, h]

theorem popEvent_cons {s : State} {c d : Nat} {rest : List (Nat × Nat)} (h : s.mgmt.evq = (c, d) :: rest) :
    popEvent s = (let u := s.modMgmt fun m => { m with evq := rest }
      (if rest = [] then u else u.send .interrupt, 2 ^ 63 + c * 2 ^ 56 + d % 2 ^ 56)) := by
  rw [popEvent, h]
  simp only [State.tell, at', fld_low, Nat.one_mul]
  rfl

/-! ### Barriers, groups and the batch former -/

theorem writePlinth_sbar (s : State) {i : Nat} (h : i < 16) (v : Word) : writePlinth s (0x80 + 8 * i) v = writeSbar s i v := by
  unfold writePlinth
  rw [if_neg (by omega), if_neg (by omega), if_neg (by omega), if_pos (by omega), Nat.add_sub_cancel_left,
    Nat.mul_div_cancel_left _ (by decide)]

theorem writePlinth_cgrp (s : State) {g : Nat} (h : g < 256) (v : Word) : writePlinth s (0x800 + 8 * g) v = writeCgrp s g v := by
  unfold writePlinth
  rw [if_pos (by omega), Nat.add_sub_cancel_left, Nat.mul_div_cancel_left _ (by decide)]

theorem writePlinth_course (s : State) {i : Nat} (h : i < 8) (v : Word) :
    writePlinth s (0x140 + 8 * i) v = s.modBf fun b => { b with course := Tab.set b.course i (v &&& courseMask) } := by
  unfold writePlinth
  rw [if_neg (by omega), if_pos (by omega), Nat.add_sub_cancel_left, Nat.mul_div_cancel_left _ (by decide)]

theorem writeSbar_eq (s : State) (i : Nat) (v : Word) : writeSbar s i v =
    if (s.sbarOf i).arr ≠ 0 ∨ (v.toNat.testBit 31 = true ∧ (v.toNat % 2 ^ 11 = 0 ∨ 1024 < v.toNat % 2 ^ 11)) then s
    else s.modPlinth fun p =>
      { p with sbar := Tab.set p.sbar i { s.sbarOf i with en := v.toNat.testBit 31, count := v.toNat % 2 ^ 11 } } := by
  rw [writeSbar, bitOf_eq_testBit, fld_low]

/-- The collective counts of a group reset in some tiles (R293). -/
def resetCounts (g : Nat) (l : List Nat) (s : State) : State :=
  l.foldl (fun s t => s.modTile t fun x => { x with collCount := Tab.set x.collCount g 0 }) s

theorem resetCounts_cons (g t : Nat) (l : List Nat) (s : State) :
    resetCounts g (t :: l) s = resetCounts g l (s.modTile t fun x => { x with collCount := Tab.set x.collCount g 0 }) := rfl

theorem resetCounts_plinth (g : Nat) (l : List Nat) (s : State) : (resetCounts g l s).plinth = s.plinth := by
  induction l generalizing s with
  | nil => rfl
  | cons t l ih => rw [resetCounts_cons, ih]; rfl

theorem collCount_resetCounts (g : Nat) (l : List Nat) (s : State) (t : Nat) :
    Tab.get ((resetCounts g l s).tile t).collCount g = if t ∈ l then 0 else Tab.get (s.tile t).collCount g := by
  induction l generalizing s with
  | nil => simp [resetCounts]
  | cons u l ih =>
    rw [resetCounts_cons, ih, State.tile_modTile]
    by_cases h : t = u <;> simp [h]

theorem Tab.get_cons {α : Type} [Inhabited α] (k : Nat) (x : α) (t : Tab α) (i : Nat) :
    Tab.get ((k, x) :: t) i = if k = i then x else Tab.get t i := rfl

/-- An entry that is not listed holds the default. -/
theorem Tab.get_of_not_mem_keys {α : Type} [Inhabited α] {t : Tab α} {i : Nat} (h : i ∉ Tab.keys t) : Tab.get t i = default := by
  induction t with
  | nil => rfl
  | cons p t ih =>
    obtain ⟨hk, ht⟩ := List.ne_and_not_mem_of_not_mem_cons h
    rw [Tab.get_cons, if_neg (Ne.symm hk), ih ht]

theorem collCount_of_not_mem_keys {s : State} {t : Nat} (h : t ∉ Tab.keys s.tiles) (g : Nat) :
    Tab.get (s.tile t).collCount g = 0 := by
  rw [State.tile, Tab.get_of_not_mem_keys h]; rfl

theorem bitOf_and_cgrpMask (v : Word) : bitOf (v &&& cgrpMask).toNat 63 = v.toNat.testBit 63 := by
  rw [bitOf, fld_and_of_ones v _ (by decide), ← bitOf_eq_testBit, bitOf]

/-- A write of CGRP is refused: it would enable a group without participants, or one of its collectives is in progress (R293). -/
def CgrpRefused (s : State) (g : Nat) (v : Word) : Prop :=
  (v.toNat.testBit 63 = true ∧ v.toNat / 2 ^ 32 % 2 ^ 16 = 0) ∨ groupBusy s g = true

theorem cgrpRefused_iff {s : State} {g : Nat} {v : Word} :
    (bitOf (v &&& cgrpMask).toNat 63 && fld (v &&& cgrpMask).toNat 32 16 == 0 || groupBusy s g) = true ↔ CgrpRefused s g v := by
  rw [bitOf_and_cgrpMask, fld_and_of_ones v cgrpMask (lo := 32) (n := 16) (by decide), fld_eq, Bool.or_eq_true, Bool.and_eq_true,
    beq_iff_eq, CgrpRefused]

theorem writeCgrp_refused {s : State} {g : Nat} {v : Word} (h : CgrpRefused s g v) : writeCgrp s g v = s := by
  unfold writeCgrp
  exact if_pos (cgrpRefused_iff.mpr h)

/-- CGRP holds the written value. -/
def setCgrp (s : State) (g : Nat) (v : Word) : State :=
  s.modPlinth fun p => { p with cgrp := Tab.modify p.cgrp g fun x => { x with cgrp := v &&& cgrpMask } }

theorem writeCgrp_eq {s : State} {g : Nat} {v : Word} (h : ¬ CgrpRefused s g v) : writeCgrp s g v =
    if v.toNat.testBit 63 && !(s.group g).en then resetCounts g (Tab.keys s.tiles) (setCgrp s g v) else setCgrp s g v := by
  unfold writeCgrp
  rw [if_neg (fun k => h (cgrpRefused_iff.mp k)), bitOf_and_cgrpMask]
  rfl

theorem writeCgrp_group {s : State} {g : Nat} {v : Word} (h : ¬ CgrpRefused s g v) (k : Nat) :
    (writeCgrp s g v).group k = if k = g then { s.group g with cgrp := v &&& cgrpMask } else s.group k := by
  have hp : (writeCgrp s g v).plinth = (setCgrp s g v).plinth := by
    rw [writeCgrp_eq h]
    split
    · exact resetCounts_plinth ..
    · rfl
  rw [State.group, hp]
  exact Tab.get_set ..

theorem writeCgrp_collCount {s : State} {g : Nat} {v : Word} (h : ¬ CgrpRefused s g v) (hv : v.toNat.testBit 63 = true)
    (hg : (s.group g).en = false) (t : Nat) : Tab.get ((writeCgrp s g v).tile t).collCount g = 0 := by
  rw [writeCgrp_eq h, hv, hg, if_pos (by rfl : (true && !false) = true), collCount_resetCounts]
  split
  · rfl
  · next ht => exact collCount_of_not_mem_keys (s := setCgrp s g v) ht g

/-! ### The plinth's other registers, and the clock -/

theorem writeQrbuf_eq (s : State) (v : Word) : writeQrbuf s v =
    if (s.plinth.quarry.any fun q => q.2.st == 1) = true ∨ v.toNat % 2 ^ 5 < 12 ∨ 26 < v.toNat % 2 ^ 5 then s
    else s.modPlinth fun p => { p with qrbuf := v &&& qrbufMask } := by
  simp only [writeQrbuf, fld_low, Bool.or_eq_true, decide_eq_true_eq, or_assoc]

theorem writeSampcfg_eq (s : State) (v : Word) : writeSampcfg s v =
    if s.plinth.bf.en = true ∨ v.toNat % 2 ^ 4 = 0 ∨ v.toNat / 2 ^ 18 % 2 ^ 9 = 0 ∨ 256 < v.toNat / 2 ^ 18 % 2 ^ 9 then s
    else s.modPlinth fun p => { p with sampcfg := v &&& sampcfgMask } := by
  unfold writeSampcfg
  dsimp only
  rw [fld_and_of_ones v sampcfgMask (lo := 0) (n := 4) (by decide), fld_and_of_ones v sampcfgMask (lo := 18) (n := 9) (by decide),
    fld_low, fld_eq]
  simp only [Bool.or_eq_true, decide_eq_true_eq, beq_iff_eq, or_assoc]
  rfl

theorem writeOrdctl_eq (s : State) (v : Word) : writeOrdctl s v = s.modPlinth fun p =>
    { p with seed := v.toNat / 2 ^ 32, unordReq := if v.toNat.testBit 0 = p.unord then none else some (v.toNat.testBit 0) } := by
  have hs : fld v.toNat 32 32 = v.toNat / 2 ^ 32 := by
    rw [fld_eq]; exact Nat.mod_eq_of_lt (by have := v.isLt; omega)
  unfold writeOrdctl
  simp only [hs, bitOf_eq_testBit, beq_iff_eq]

/-- FREEZE = 1 stops the clock. -/
theorem frozen_writeFreeze_one (s : State) : (writeFreeze s 1).plinth.frozen = true := by
  unfold writeFreeze
  rw [if_pos (by decide)]
  dsimp only
  split <;> rfl

theorem clockRuns_of_frozen {s : State} (h : s.plinth.frozen = true) : clockRuns s = false := by
  rw [clockRuns, h]; rfl

theorem writeFreeze_zero (s : State) :
    writeFreeze s 0 = restartClock s (s.modPlinth fun p => { p with frz := false, frozen := false }) := by
  rw [writeFreeze, if_neg (by decide)]

theorem restartClock_same {s u : State} (h : clockRuns s = true ∨ clockRuns u = false) : restartClock s u = u := by
  rw [restartClock, if_neg]
  rcases h with h | h <;> simp [h]

theorem restartClock_tick {s u : State} (h : clockRuns s = false) (k : clockRuns u = true) : restartClock s u = tickOnce u := by
  rw [restartClock, if_pos (by rw [h, k]; rfl)]

theorem clockRuns_iff (s : State) : clockRuns s = true ↔ s.plinth.frozen = false ∧ s.mgmt.pwrCur ≠ 3 := by
  simp [clockRuns]

theorem wayres_writeWayres (s : State) (w : Nat) (v : Word) :
    ((writeWayres s w v).wall w).wayres = min (v.toNat % 2 ^ 4) 8 := by
  rw [writeWayres, State.wall_modWall_self, fld_low]

theorem writeWayres_of_le {s : State} {w : Nat} {v : Word} (h : s.ways w ≤ min (v.toNat % 2 ^ 4) 8) :
    writeWayres s w v = s.modWall w fun x => { x with wayres := min (v.toNat % 2 ^ 4) 8 } := by
  unfold writeWayres
  dsimp only
  rw [fld_low, if_neg (Nat.not_lt.mpr h)]

/-! ### The steps that write or read a register of the package, outside recovery -/

theorem plinthOffOk_course : ∀ i < 8, plinthOffOk (0x140 + 8 * i) = true := by decide

theorem plinthOffOk_salt : ∀ i < 3, plinthOffOk (0x30 + 8 * i) = true := by decide

theorem writePlinth_salt (s : State) {i : Nat} (h : i < 3) (v : Word) : writePlinth s (0x30 + 8 * i) v = writeSalt s i v :=
  match i, h with
  | 0, _ => rfl
  | 1, _ => rfl
  | 2, _ => rfl

theorem writePlinth_sampcfg (s : State) (v : Word) : writePlinth s 0x28 v = writeSampcfg s v := rfl

theorem State.modBf_eq (s : State) (f : Bf → Bf) : s.modBf f = s.modPlinth fun p => { p with bf := f p.bf } := rfl

theorem writePlinth_bfcfg {s : State} (h : s.plinth.bf.en = false) (v : Word) :
    writePlinth s 0x100 v = s.modBf fun b => { b with cfg := v &&& bitRange 63 29 } := by
  have hw : writePlinth s 0x100 v = s.modBf fun b =>
      { b with cfg := if b.en then (b.cfg &&& ~~~(oneBit 63 ||| oneBit 62)) ||| (v &&& (oneBit 63 ||| oneBit 62))
                      else v &&& bitRange 63 29 } := rfl
  rw [hw, State.modBf, State.modPlinth, h]
  rfl

theorem writePlinth_bfmodel (s : State) (v : Word) : writePlinth s 0x108 v =
    if s.plinth.bf.en then s else s.modBf fun b => { b with model := v &&& bitRange 47 16 } := rfl

theorem writePlinth_bfavail (s : State) (v : Word) : writePlinth s 0x110 v = s.modBf fun b => { b with avail := v.toNat % 2 ^ 32 } := by
  rw [← fld_low]; rfl

theorem writePlinth_bfman (s : State) (v : Word) : writePlinth s 0x118 v =
    if s.plinth.bf.en then s else s.modBf fun b => { b with man := v &&& bitRange 47 25 } := rfl

theorem writeSalt_idle {s : State} (h : s.plinth.bf.en = false) (i : Nat) (v : Word) :
    writeSalt s i v = s.modPlinth fun p => { p with salt := Tab.set p.salt i v } := if_neg (ne_true_of_eq_false h)

theorem toNat_course_offset {i : Nat} (h : i < 8) :
    (BitVec.ofNat 32 (0x500140 + 8 * i)).toNat = 0x500000 + (0x140 + 8 * i) := by
  rw [BitVec.toNat_ofNat, Nat.mod_eq_of_lt (by omega)]; omega

theorem toNat_salt_offset {i : Nat} (h : i < 3) :
    (BitVec.ofNat 32 (0x500030 + 8 * i)).toNat = 0x500000 + (0x30 + 8 * i) := by
  rw [BitVec.toNat_ofNat, Nat.mod_eq_of_lt (by omega)]; omega

section
variable {s : State} (hs : s.mgmt.state ≠ 2) (v : Word)
include hs

theorem exec_registerWrite {off : BitVec 32} {r : SysReg} (h : sysRegAt s off.toNat = some r) :
    exec (.registerWrite off v) s = .next (writeReg s r v) := congrArg _ (hostWrite_of_some hs h v)

theorem exec_clearOnRead {off : BitVec 32} {r : SysReg} (h : sysRegAt s off.toNat = some r) :
    exec (.clearOnRead off) s = .next ((readReg s r).1.send (.hostReg (BitVec.ofNat 64 (readReg s r).2))) :=
  execClearOnRead_eq (hostRead_of_some hs h)

theorem exec_wayresWrite {w : Nat} (h : w < 4) : exec (.wayresWrite w v) s = .next (writeWayres s w v) :=
  congrArg _ ((if_pos h).trans (hostSet_reaches hs _ v))

theorem exec_ordctlWrite : exec (.ordctlWrite v) s = .next (writeOrdctl s v) := congrArg _ (hostSet_reaches hs _ v)

theorem exec_sbarRegWrite (i : Fin 16) : exec (.sbarRegWrite i v) s = .next (writeSbar s i.val v) :=
  congrArg _ ((hostSet_reaches hs (.plinth _) v).trans (writePlinth_sbar s i.isLt v))

theorem exec_cgrpWrite {g : Nat} (h : g < 256) : exec (.cgrpWrite g v) s = .next (writeCgrp s g v) :=
  congrArg _ ((if_pos h).trans ((hostSet_reaches hs (.plinth _) v).trans (writePlinth_cgrp s h v)))

theorem exec_bfcfgWrite {off : BitVec 32} {o : Nat} (h : off.toNat = 0x500000 + o) (lo : 0x100 ≤ o) (hi : o ≤ 0x178)
    (ho : plinthOffOk o = true) : exec (.bfcfgWrite off v) s = .next (writePlinth s o v) := by
  refine congrArg _ ((if_pos (by omega)).trans ?_)
  rw [h, hostWrite_of_some hs (sysRegAt_plinth s (by omega) ho)]
  rfl

theorem exec_qrbufWrite : exec (.qrbufWrite v) s = .next (writeQrbuf s v) := congrArg _ (hostSet_reaches hs _ v)

theorem exec_sampcfgWrite {off : BitVec 32} {o : Nat} (h : off.toNat = 0x500000 + o) (lo : 0x28 ≤ o) (hi : o ≤ 0x40)
    (ho : plinthOffOk o = true) : exec (.sampcfgWrite off v) s = .next (writePlinth s o v) := by
  refine congrArg _ ((if_pos (by omega)).trans ?_)
  rw [h, hostWrite_of_some hs (sysRegAt_plinth s (by omega) ho)]
  rfl

theorem exec_freeze : exec .freeze s = .next (writeFreeze s 1) := congrArg _ (hostSet_reaches hs _ 1)

theorem exec_unfreeze : exec .unfreeze s = .next (writeFreeze s 0) := congrArg _ (hostSet_reaches hs _ 0)

end

theorem exec_orderModeChange (s : State) : exec .orderModeChange s =
    .next (if orderReady s then s.modPlinth fun p => { p with unord := p.unordReq.getD p.unord, unordReq := none } else s) := rfl

theorem orderReady_iff (s : State) : orderReady s = true ↔ s.plinth.unordReq.isSome = true ∧ s.copies = [] := by
  simp [orderReady]

end Sys2Proof.Machine
end

section
open Sys2Proof Sys2Proof.Machine

/-- Settles O52: each step is a host access of its register, whose own lemma above says what it does. -/
theorem packageRegisterWritesTakeEffect : Obligations.PackageRegisterWritesTakeEffect := by
  unfold Obligations.PackageRegisterWritesTakeEffect
  intro s v
  dsimp only
  refine ⟨fun off h => ⟨?unassignedWrite, ?unassignedRead⟩, ?evq, fun w hw => ?noWall, fun g hg => ?noGroup,
    fun hs => ⟨fun t ht => ⟨?tvec, ?orphan⟩, ?ptroot, ?sigdrop, fun w hw => ?wayres, ?ordctl, fun i => ?sbar, fun g hg => ?cgrp,
      fun hb => ⟨?bfcfg, ?bfmodel, ?bfman⟩, fun hb => ⟨?bfmodelEnabled, ?bfmanEnabled⟩, ?bfavail, fun i hi => ?course, ?qrbuf, ?sampcfg,
      fun i hi hb => ?salt, ?freeze, fun h => ?unfreezeStill, fun hf hp => ?unfreezeTick⟩,
    fun w hw hc => ?modeChange, fun h => ?modeWaits⟩
  case unassignedWrite => exact congrArg _ (hostWrite_of_none h v)
  case unassignedRead => exact execClearOnRead_eq (hostRead_of_none h)
  case evq =>
    rw [exec_evqRead]
    split
    · next h => rw [popEvent_nil h]; rfl
    · next c d rest h => rw [popEvent_cons h]
  case noWall => exact congrArg _ (if_neg (Nat.not_lt.mpr hw))
  case noGroup => exact congrArg _ (if_neg (Nat.not_lt.mpr hg))
  case tvec => exact exec_registerWrite hs v (sysRegAt_tile ht (by decide) rfl)
  case orphan => exact exec_clearOnRead hs (sysRegAt_tile ht (by decide) rfl)
  case ptroot => exact exec_registerWrite hs v (off := 0x500000) (sysRegAt_plinth s (off := 0x000) (by decide) rfl)
  case sigdrop => exact exec_clearOnRead hs (off := 0x500008) (sysRegAt_plinth s (off := 0x008) (by decide) rfl)
  case wayres => exact ⟨_, exec_wayresWrite hs v hw, wayres_writeWayres s w v, writeWayres_of_le⟩
  case ordctl => rw [exec_ordctlWrite hs, writeOrdctl_eq]
  case sbar =>
    rw [exec_sbarRegWrite hs, writeSbar_eq]
    exact ⟨fun h => by rw [if_pos h], fun h => by rw [if_neg h]⟩
  case cgrp =>
    rw [exec_cgrpWrite hs v hg]
    refine ⟨fun h => by rw [writeCgrp_refused h], fun h => ⟨_, rfl, ?_, ?_, fun k hk => ?_, writeCgrp_collCount h⟩⟩
    · rw [writeCgrp_group h, if_pos rfl]
    · rw [writeCgrp_group h, if_pos rfl]
    · rw [writeCgrp_group h, if_neg hk]
  case bfcfg => rw [exec_bfcfgWrite hs v (o := 0x100) rfl (by decide) (by decide) rfl, writePlinth_bfcfg hb, State.modBf_eq]
  case bfmodel =>
    rw [exec_bfcfgWrite hs v (o := 0x108) rfl (by decide) (by decide) rfl, writePlinth_bfmodel, if_neg (ne_true_of_eq_false hb),
      State.modBf_eq]
  case bfman =>
    rw [exec_bfcfgWrite hs v (o := 0x118) rfl (by decide) (by decide) rfl, writePlinth_bfman, if_neg (ne_true_of_eq_false hb),
      State.modBf_eq]
  case bfmodelEnabled => rw [exec_bfcfgWrite hs v (o := 0x108) rfl (by decide) (by decide) rfl, writePlinth_bfmodel, if_pos hb]
  case bfmanEnabled => rw [exec_bfcfgWrite hs v (o := 0x118) rfl (by decide) (by decide) rfl, writePlinth_bfman, if_pos hb]
  case bfavail => rw [exec_bfcfgWrite hs v (o := 0x110) rfl (by decide) (by decide) rfl, writePlinth_bfavail, State.modBf_eq]
  case course =>
    rw [exec_bfcfgWrite hs v (toNat_course_offset hi) (by omega) (by omega) (plinthOffOk_course i hi), writePlinth_course s hi,
      State.modBf_eq]
    rfl
  case qrbuf =>
    rw [exec_qrbufWrite hs, writeQrbuf_eq]
    exact ⟨fun h => by rw [if_pos h], fun h => by rw [if_neg h]⟩
  case sampcfg =>
    rw [exec_sampcfgWrite hs v (o := 0x28) rfl (by decide) (by decide) rfl, writePlinth_sampcfg, writeSampcfg_eq]
    exact ⟨fun h => by rw [if_pos h], fun h => by rw [if_neg h]⟩
  case salt =>
    rw [exec_sampcfgWrite hs v (toNat_salt_offset hi) (by omega) (by omega) (plinthOffOk_salt i hi), writePlinth_salt s hi,
      writeSalt_idle hb]
  case freeze => exact ⟨_, exec_freeze hs, frozen_writeFreeze_one s, clockRuns_of_frozen (frozen_writeFreeze_one s)⟩
  case unfreezeStill =>
    rw [exec_unfreeze hs, writeFreeze_zero, restartClock_same]
    exact h.imp_right fun h => by simp [clockRuns, h]
  case unfreezeTick =>
    rw [exec_unfreeze hs, writeFreeze_zero, restartClock_tick (clockRuns_of_frozen hf)]
    exact (clockRuns_iff _).mpr ⟨rfl, hp⟩
  case modeChange =>
    rw [exec_orderModeChange, if_pos ((orderReady_iff s).mpr ⟨by rw [hw]; rfl, hc⟩)]
    simp only [hw, State.modPlinth, Option.getD_some]
  case modeWaits =>
    rw [exec_orderModeChange, if_neg]
    rw [orderReady_iff]
    rcases h with h | h <;> simp [h]
end

section
/-!
SUPPORT. What a reset leaves of the tiles (spec/00_scope.md R9, spec/18_system.md R413).
-/
namespace Sys2Proof.Machine

/-- The trace entries that a reset keeps, where the table lists each tile once. -/
theorem get_keepTraces {l : Tab Tile} (h : (Tab.keys l).Nodup) (t : Nat) :
    Tab.get (keepTraces l) t = { sys := { trace := (Tab.get l t).sys.trace } } := by
  induction l with
  | nil => rfl
  | cons p l ih =>
    obtain ⟨k, x⟩ := p
    obtain ⟨hk, hl⟩ := List.nodup_cons.mp h
    rw [Tab.get_cons, keepTraces]
    by_cases hx : x.sys.trace = []
    · rw [if_pos (beq_iff_eq.mpr hx), ih hl]
      split
      · next hkt => rw [← hkt, Tab.get_of_not_mem_keys hk, hx]; rfl
      · rfl
    · rw [if_neg (mt beq_iff_eq.mp hx), Tab.get_cons, ih hl]
      split <;> rfl

theorem tile_reset (t : Nat) : State.reset.tile t = {} := rfl

end Sys2Proof.Machine
end

section
open Sys2Proof Sys2Proof.Machine

/-- Settles O55: the reset state lists no tile, wall, group or byte, so that each reads as its default. -/
theorem resetLeavesTheStatedValues : Obligations.ResetLeavesTheStatedValues := by
  unfold Obligations.ResetLeavesTheStatedValues
  dsimp only
  refine ⟨fun t => ?tile, fun w => rfl, rfl, rfl, rfl, rfl, rfl, rfl, fun i => ⟨rfl, rfl⟩, fun i => rfl, rfl, rfl, rfl, rfl, rfl, rfl,
    rfl, rfl, fun a => rfl, rfl⟩
  case tile =>
    rw [tile_reset]
    exact ⟨rfl, rfl, rfl, fun i => rfl, rfl, rfl, rfl, rfl, rfl, rfl, rfl, rfl, rfl, rfl, rfl, rfl, rfl, rfl, rfl, rfl, rfl, rfl,
      fun i => rfl, fun c => ⟨rfl, rfl, rfl, rfl⟩, fun l => rfl, fun i => rfl⟩

/-- Refutes O54: its clause on what a reset leaves of a tile fails in a state whose table lists tile 0 twice, first without trace entries.
That state reads tile 0 without entries, but the reset drops the first listing and keeps the second, whose entry it then reads. The clause
holds where each tile is listed once (`get_keepTraces`), as it is in canonical tables. -/
theorem not_resetsPowerAndLinks : ¬ Obligations.ResetsPowerAndLinks := by
  unfold Obligations.ResetsPowerAndLinks
  intro h
  obtain ⟨hresets, -⟩ := h { tiles := [(0, {}), (0, { sys := { trace := [(0, 1)] } })] }
  obtain ⟨htile, -⟩ := hresets false
  have htrace := congrArg (fun x : Tile => x.sys.trace) (htile 0)
  exact absurd htrace (by decide)
end
